-- ==== Sys2Proof/Word.lean ====
section
/-! DEFINITION. The word types of the part (R7, R26, R41) and their plainest arithmetic. -/

namespace Sys2Proof

/-- A byte of memory. -/
abbrev Byte := BitVec 8

/-- A scalar register or an entry of a scalar queue port (R26). -/
abbrev Word := BitVec 64

/-- A vector register or an entry of a vector queue port (R26). -/
abbrev Vec := BitVec 2048

/-- A code-store address (R22). -/
abbrev Pc := BitVec 16

/-- An instruction word (R52). -/
abbrev IWord := BitVec 32

/-- A register field of an instruction word (R53). -/
abbrev Reg := BitVec 5

/-- A mask-register field (R53). -/
abbrev KReg := BitVec 3

/-- Bits [hi:lo] of a number, as an unsigned value (R15). -/
def fld (w hi lo : Nat) : Nat := w / 2 ^ lo % 2 ^ (hi - lo + 1)

end Sys2Proof
end

