-- ==== Sys2Proof/Syntax.lean ====
section
/-! DEFINITION. The instructions of the part as syntax: one constructor per row of the opcode table,
185 instruction words (R60, R61) and 84 steps of the part that have no word (file 95). -/

namespace Sys2Proof

/-- Element width (R56). -/
inductive Width | w8 | w16 | w32 | w64
  deriving DecidableEq, Repr

/-- Scalar float format field (R61, major 0x0E). -/
inductive FFmt | fp32 | fp16 | bf16
  deriving DecidableEq, Repr

/-- Size code of LDS (R63). -/
inductive LoadSize | u8 | u16 | u32 | d64 | s8 | s16 | s32
  deriving DecidableEq, Repr

/-- Scope (R56, R234). -/
inductive Scope | tile | cluster | rect | die | module | pod
  deriving DecidableEq, Repr

/-- Branch condition (R56). -/
inductive BrCond | eq | ne | lt | ge | ltu | geu | al
  deriving DecidableEq, Repr

/-- Operation of AMO and RED (R252). -/
inductive AmoOp | add | and | or | xor | min | max | minu | maxu | swap | fadd
  deriving DecidableEq, Repr

/-- VCMP condition (R61). -/
inductive VCond | eq | ne | lt | le | ltu | leu | un
  deriving DecidableEq, Repr

/-- VRED and VSCAN operation (R61). -/
inductive ROp | add | min | max | and | or | xor
  deriving DecidableEq, Repr

/-- Matrix shape (R56). -/
inductive Shape | s64x128 | s64x64 | s32x32 | s16x16 | s8x8
  deriving DecidableEq, Repr

/-- Matrix sparsity (R56). -/
inductive Sparsity | dense | sp24 | sp48
  deriving DecidableEq, Repr

/-- Unit of SCRUB and INVPG (R341). -/
inductive PageUnit | k64 | m2 | g1
  deriving DecidableEq, Repr

/-- One decrement under way to a record's home bank (R184, R350); `reply` is the serial number of the DECR that waits for
its status (R200). -/
structure Decr where
  ctx   : Nat
  inst  : Nat
  tidx  : Nat
  reply : Option Nat
  deriving DecidableEq, Repr

/-- Where an uncorrectable error strikes (R317, R318, R321); `again` says that the same region's replay
failed as well. -/
inductive ErrorSite
  | tile (t : Nat)
  | checkedFire (t acc : Nat)
  | line (pa : Nat)
  | cleanLine (ctx line : Nat)
  | claimEntry (die key : Nat)
  | record (die inst tidx : Nat)
  | marver (op : Nat) (again : Bool)
  | jack (p : Nat) (again : Bool)
  | fibre (t u : Nat) (again : Bool)
  | die (d kind : Nat)
  deriving DecidableEq, Repr

/-- How a start or a rejoin ends (R373): every stage passes (with cyc of the load-store domain where a port
is up), or a stage fails with a cause of R378. -/
inductive StartResult
  | ready (domain : Option Word)
  | fail (stage code unit : Nat)
  deriving DecidableEq, Repr

/-- A host access over the Cord: to the register aperture or to a physical address (R179, R365). -/
structure HostReq where
  write    : Bool
  aperture : Bool
  addr     : Nat
  n        : Nat
  data     : Nat
  deriving DecidableEq, Repr

/-- Kind of an inbound UALink request (R363). -/
inductive UalKind | read | write | atomic (op : AmoOp) | cas (cmp : Nat) | other
  deriving DecidableEq, Repr

/-- An inbound UALink request (R363). -/
structure UalReq where
  kind : UalKind
  addr : Nat
  n    : Nat
  data : Nat
  deriving DecidableEq, Repr

/-- What a flit carries, as far as the spec tells it (R361, R364): an element of an inbound reduction channel with its
epoch bit, a word of an inbound control queue, or something of the link's own. -/
inductive FlitLoad
  | token (chan : Nat) (v : BitVec 32) (epoch : Bool)
  | control (q : Nat) (v : BitVec 64)
  | other (data : Nat)
  deriving DecidableEq, Repr

/-- A torus flit (R364): destination module, virtual channel and contents. -/
structure Flit where
  dest : Nat
  vc   : Nat
  load : FlitLoad
  deriving DecidableEq, Repr

/-- The instructions: the words of R61 and the part's own steps, in the table's order, those with no operand last
(the compiler numbers constructors that carry data only up to 244). A write to a window register (R179) takes its
operands from the Cord interface, State's `bus`. -/
inductive Instr
  /-- ADD.eW (R81): Adds two scalar registers modulo 2^w and sign-extends the result. -/
  | add (d : Reg) (a : Reg) (b : Reg) (w : Width)
  /-- SUB.eW (R81): Subtracts two scalar registers modulo 2^w. -/
  | sub (d : Reg) (a : Reg) (b : Reg) (w : Width)
  /-- AND.eW (R81): Bitwise AND of two scalar registers. -/
  | andd (d : Reg) (a : Reg) (b : Reg) (w : Width)
  /-- OR.eW (R81): Bitwise OR of two scalar registers. -/
  | orr (d : Reg) (a : Reg) (b : Reg) (w : Width)
  /-- XOR.eW (R81): Bitwise XOR of two scalar registers. -/
  | xorr (d : Reg) (a : Reg) (b : Reg) (w : Width)
  /-- ANDN.eW (R81): A AND NOT B. -/
  | andn (d : Reg) (a : Reg) (b : Reg) (w : Width)
  /-- SLL.eW (R81): Logical shift left by B mod w. -/
  | sll (d : Reg) (a : Reg) (b : Reg) (w : Width)
  /-- SRL.eW (R81): Logical shift right by B mod w. -/
  | srl (d : Reg) (a : Reg) (b : Reg) (w : Width)
  /-- SRA.eW (R81): Arithmetic shift right by B mod w. -/
  | sra (d : Reg) (a : Reg) (b : Reg) (w : Width)
  /-- SLT.eW (R81): Sets 1 if A is signed-less than B. -/
  | slt (d : Reg) (a : Reg) (b : Reg) (w : Width)
  /-- SLTU.eW (R81): Sets 1 if A is unsigned-less than B. -/
  | sltu (d : Reg) (a : Reg) (b : Reg) (w : Width)
  /-- MIN.eW (R81): Signed minimum. -/
  | minn (d : Reg) (a : Reg) (b : Reg) (w : Width)
  /-- MAX.eW (R81): Signed maximum. -/
  | maxx (d : Reg) (a : Reg) (b : Reg) (w : Width)
  /-- MINU.eW (R81): Unsigned minimum. -/
  | minu (d : Reg) (a : Reg) (b : Reg) (w : Width)
  /-- MAXU.eW (R81): Unsigned maximum. -/
  | maxu (d : Reg) (a : Reg) (b : Reg) (w : Width)
  /-- MUL.eW (R82): Multiply modulo 2^w. -/
  | mul (d : Reg) (a : Reg) (b : Reg) (w : Width)
  /-- MULH.eW (R82): High half of the signed product. -/
  | mulh (d : Reg) (a : Reg) (b : Reg) (w : Width)
  /-- MULHU.eW (R82): High half of the unsigned product. -/
  | mulhu (d : Reg) (a : Reg) (b : Reg) (w : Width)
  /-- DIV.eW (R82): Signed division towards zero, with the edge cases of R49. -/
  | div (d : Reg) (a : Reg) (b : Reg) (w : Width)
  /-- DIVU.eW (R82): Unsigned division. -/
  | divu (d : Reg) (a : Reg) (b : Reg) (w : Width)
  /-- REM.eW (R82): Signed remainder with the dividend's sign. -/
  | rem (d : Reg) (a : Reg) (b : Reg) (w : Width)
  /-- REMU.eW (R82): Unsigned remainder. -/
  | remu (d : Reg) (a : Reg) (b : Reg) (w : Width)
  /-- CLZ.eW (R83): Counts leading zeros at width w. -/
  | clz (d : Reg) (a : Reg) (w : Width)
  /-- FFS.eW (R83): One-based index of the lowest set bit. -/
  | ffs (d : Reg) (a : Reg) (w : Width)
  /-- POPC.eW (R83): Counts set bits. -/
  | popc (d : Reg) (a : Reg) (w : Width)
  /-- BREV.eW (R83): Reverses the bits of A at width w. -/
  | brev (d : Reg) (a : Reg) (w : Width)
  /-- BEXT.eW (R83): Extracts the bit field named by a control word. -/
  | bext (d : Reg) (a : Reg) (b : Reg) (w : Width)
  /-- BINS.eW (R83): Inserts A's low bits into a field of d. -/
  | bins (d : Reg) (a : Reg) (b : Reg) (w : Width)
  /-- SEXT.eW (R83): Sign-extends A from bit p mod w. -/
  | sext (d : Reg) (a : Reg) (b : Reg) (w : Width)
  /-- ADDI (R84): Adds a sign-extended immediate. -/
  | addi (d : Reg) (a : Reg) (i : BitVec 16)
  /-- ANDI (R84): ANDs a zero-extended immediate. -/
  | andi (d : Reg) (a : Reg) (i : BitVec 16)
  /-- ORI (R84): ORs a zero-extended immediate. -/
  | ori (d : Reg) (a : Reg) (i : BitVec 16)
  /-- XORI (R84): XORs a zero-extended immediate. -/
  | xori (d : Reg) (a : Reg) (i : BitVec 16)
  /-- SLTI (R84): Sets 1 if the register is below the signed immediate. -/
  | slti (d : Reg) (a : Reg) (i : BitVec 16)
  /-- SETHI (R84): Places the immediate at the top bits, keeping the low bits of a. -/
  | sethi (d : Reg) (a : Reg) (i : BitVec 16)
  /-- SLLI (R85): Shifts all 64 bits left by an immediate. -/
  | slli (d : Reg) (a : Reg) (s : BitVec 6)
  /-- SRLI (R85): Logical right shift by an immediate. -/
  | srli (d : Reg) (a : Reg) (s : BitVec 6)
  /-- SRAI (R85): Arithmetic right shift by an immediate. -/
  | srai (d : Reg) (a : Reg) (s : BitVec 6)
  /-- SEL (R86): Selects a or b by whether c is nonzero, popping every named port. -/
  | sel (d : Reg) (a : Reg) (b : Reg) (c : Reg)
  /-- FADD.F (R88): Scalar float add rounded once. -/
  | fadd (d : Reg) (a : Reg) (b : Reg) (f : FFmt)
  /-- FSUB.F (R88): Scalar float subtract. -/
  | fsub (d : Reg) (a : Reg) (b : Reg) (f : FFmt)
  /-- FMUL.F (R88): Scalar float multiply. -/
  | fmul (d : Reg) (a : Reg) (b : Reg) (f : FFmt)
  /-- FMIN.F (R88): Scalar float minimum with NaN and signed-zero rules. -/
  | fmin (d : Reg) (a : Reg) (b : Reg) (f : FFmt)
  /-- FMAX.F (R88): Scalar float maximum. -/
  | fmax (d : Reg) (a : Reg) (b : Reg) (f : FFmt)
  /-- FCMP.eq.F (R88): Float compare equal into 0 or 1. -/
  | fcmpEq (d : Reg) (a : Reg) (b : Reg) (f : FFmt)
  /-- FCMP.ne.F (R88): Float compare not equal. -/
  | fcmpNe (d : Reg) (a : Reg) (b : Reg) (f : FFmt)
  /-- FCMP.lt.F (R88): Float compare less than. -/
  | fcmpLt (d : Reg) (a : Reg) (b : Reg) (f : FFmt)
  /-- FCMP.le.F (R88): Float compare less or equal. -/
  | fcmpLe (d : Reg) (a : Reg) (b : Reg) (f : FFmt)
  /-- FCMP.un.F (R88): Float compare unordered. -/
  | fcmpUn (d : Reg) (a : Reg) (b : Reg) (f : FFmt)
  /-- FFMA.F (R89): Fused multiply-add with one rounding. -/
  | ffma (d : Reg) (a : Reg) (b : Reg) (c : Reg) (f : FFmt)
  /-- FCVT.ovf|.sat (R90): Converts a scalar between formats under OVF or SAT. -/
  | fcvt (d : Reg) (a : Reg) (t : BitVec 5) (s : BitVec 5) (r : Bool)
  /-- BR.C (R91): Conditional branch on a 64-bit compare. -/
  | br (a : Reg) (b : Reg) (c : BrCond) (o : BitVec 13)
  /-- JAL (R92): Jumps by a word offset and links into s23. -/
  | jal (o : BitVec 26)
  /-- JALR (R92): Jumps to a register plus offset, checking the target, and links. -/
  | jalr (d : Reg) (a : Reg) (i : BitVec 16)
  /-- LDS.eW[.sx] (R94): Local scratchpad load with range and alignment checks. -/
  | lds (d : Reg) (b : Reg) (s : LoadSize) (o : BitVec 10)
  /-- STS.eW (R94): Local scratchpad store. -/
  | sts (d : Reg) (b : Reg) (s : Width) (o : BitVec 10)
  /-- LD.eW[.sx][.acq].cN.SCOPE (R249): Global load, optionally acquire, of one indivisible access. -/
  | ld (d : Reg) (b : Reg) (c : BitVec 3) (p : Scope) (z : Width) (x : Bool) (q : Bool) (o : BitVec 6)
  /-- ST.eW[.rel].cN.SCOPE (R249): Global store, optionally release. -/
  | st (d : Reg) (b : Reg) (c : BitVec 3) (p : Scope) (z : Width) (q : Bool) (o : BitVec 6)
  /-- AMO.OP.eW[.acq][.rel].cN.SCOPE (R252): Atomic read-modify-write at the location's home, returning the old value. -/
  | amo (d : Reg) (a : Reg) (b : Reg) (o : AmoOp) (z : Bool) (c : BitVec 3) (p : Scope)
  /-- CAS.eW[.acq][.rel].cN.SCOPE (R253): Compare-and-swap at the home. -/
  | cas (d : Reg) (a : Reg) (b : Reg) (z : Bool) (c : BitVec 3) (p : Scope)
  /-- RED.OP.eW[.rel].cN.SCOPE (R252): Reduction without return, possibly gathered in the gather cache. -/
  | red (a : Reg) (b : Reg) (o : AmoOp) (z : Bool) (c : BitVec 3) (p : Scope)
  /-- FENCE.SCOPE (R255): Orders accesses of the masked classes at its scope. -/
  | fence (a : Reg) (m : BitVec 8) (p : Scope)
  /-- PROMOTE.SCOPE (R256): Asks the owner of a pinned line to promote its narrow writes. -/
  | promote (a : Reg) (p : Scope)
  /-- HASH (R257): Folds a word into a 128-bit running digest. -/
  | hash (d : Reg) (a : Reg) (b : Reg) (c : Reg)
  /-- CLAIM (R262): Looks up or installs a claim-table entry and returns MAKER, WAITER, READY, FULL or BUSY. -/
  | claim (d : Reg) (a : Reg) (b : Reg)
  /-- CFULFIL (R263): Fulfils a make, storing the handle and releasing waiters. -/
  | cfulfil (d : Reg) (a : Reg) (b : Reg)
  /-- CABANDON (R263): Abandons a make, handing over or freeing the entry. -/
  | cabandon (d : Reg) (a : Reg)
  /-- CPIN (R263): Adds a pin to a Ready entry. -/
  | cpin (d : Reg) (a : Reg) (b : Reg)
  /-- CUNPIN (R263): Removes a pin from a Ready entry. -/
  | cunpin (d : Reg) (a : Reg) (b : Reg)
  /-- QSTAT.eW (R96): Reads a queue port's counts without popping. -/
  | qstat (d : Reg) (a : Reg) (w : BitVec 2)
  /-- QDRAIN.eW (R97): Discards a port's filled entries once no slot is pending. -/
  | qdrain (d : Reg) (a : Reg) (w : BitVec 2)
  /-- SIGNAL (R202): Posts a payload with a release on a member's channel. -/
  | signal (a : Reg) (b : Reg)
  /-- WAITCH[.try] (R203): Waits for and takes an eligible channel payload. -/
  | waitch (d : Reg)
  /-- BLOCK (R204): Sets blk of a member's channel. -/
  | block (a : Reg)
  /-- UNBLOCK (R204): Clears blk of a member's channel. -/
  | unblock (a : Reg)
  /-- VADD.eW (R103): Vector integer add under a mask. -/
  | vadd (d : Reg) (a : Reg) (b : Reg) (k : KReg) (w : Width)
  /-- VSUB.eW (R103): Vector integer subtract. -/
  | vsub (d : Reg) (a : Reg) (b : Reg) (k : KReg) (w : Width)
  /-- VMUL.eW (R103): Vector integer multiply. -/
  | vmul (d : Reg) (a : Reg) (b : Reg) (k : KReg) (w : Width)
  /-- VMULH.eW[.u] (R103): Vector high-half multiply, signed or unsigned. -/
  | vmulh (d : Reg) (a : Reg) (b : Reg) (k : KReg) (w : Width)
  /-- VMIN.eW[.u] (R103): Vector integer minimum. -/
  | vmin (d : Reg) (a : Reg) (b : Reg) (k : KReg) (w : Width)
  /-- VMAX.eW[.u] (R103): Vector integer maximum. -/
  | vmax (d : Reg) (a : Reg) (b : Reg) (k : KReg) (w : Width)
  /-- VABS.eW (R103): Vector integer absolute value. -/
  | vabs (d : Reg) (a : Reg) (k : KReg) (w : Width)
  /-- VNEG.eW (R103): Vector integer negate. -/
  | vneg (d : Reg) (a : Reg) (k : KReg) (w : Width)
  /-- VAND.eW (R103): Vector bitwise AND. -/
  | vand (d : Reg) (a : Reg) (b : Reg) (k : KReg) (w : Width)
  /-- VOR.eW (R103): Vector bitwise OR. -/
  | vor (d : Reg) (a : Reg) (b : Reg) (k : KReg) (w : Width)
  /-- VXOR.eW (R103): Vector bitwise XOR. -/
  | vxor (d : Reg) (a : Reg) (b : Reg) (k : KReg) (w : Width)
  /-- VSLL.eW (R103): Vector shift left per element. -/
  | vsll (d : Reg) (a : Reg) (b : Reg) (k : KReg) (w : Width)
  /-- VSRL.eW (R103): Vector logical shift right. -/
  | vsrl (d : Reg) (a : Reg) (b : Reg) (k : KReg) (w : Width)
  /-- VSRA.eW (R103): Vector arithmetic shift right. -/
  | vsra (d : Reg) (a : Reg) (b : Reg) (k : KReg) (w : Width)
  /-- VCLZ.eW (R103): Vector leading-zero count. -/
  | vclz (d : Reg) (a : Reg) (k : KReg) (w : Width)
  /-- VFFS.eW (R103): Vector find first set. -/
  | vffs (d : Reg) (a : Reg) (k : KReg) (w : Width)
  /-- VPOPC.eW (R103): Vector population count. -/
  | vpopc (d : Reg) (a : Reg) (k : KReg) (w : Width)
  /-- VADD.F (R104): Vector float add. -/
  | vaddF (d : Reg) (a : Reg) (b : Reg) (k : KReg) (w : Width) (f : Bool)
  /-- VSUB.F (R104): Vector float subtract. -/
  | vsubF (d : Reg) (a : Reg) (b : Reg) (k : KReg) (w : Width) (f : Bool)
  /-- VMUL.F (R104): Vector float multiply. -/
  | vmulF (d : Reg) (a : Reg) (b : Reg) (k : KReg) (w : Width) (f : Bool)
  /-- VMIN.F (R104): Vector float minimum. -/
  | vminF (d : Reg) (a : Reg) (b : Reg) (k : KReg) (w : Width) (f : Bool)
  /-- VMAX.F (R104): Vector float maximum. -/
  | vmaxF (d : Reg) (a : Reg) (b : Reg) (k : KReg) (w : Width) (f : Bool)
  /-- VABS.F (R104): Vector float absolute value. -/
  | vabsF (d : Reg) (a : Reg) (k : KReg) (w : Width) (f : Bool)
  /-- VNEG.F (R104): Vector float negate. -/
  | vnegF (d : Reg) (a : Reg) (k : KReg) (w : Width) (f : Bool)
  /-- VFMA.F (R104): Vector fused multiply-add into vd. -/
  | vfma (d : Reg) (a : Reg) (b : Reg) (k : KReg) (w : Width) (f : Bool)
  /-- VFMS.F (R104): Vector fused multiply-subtract from vd. -/
  | vfms (d : Reg) (a : Reg) (b : Reg) (k : KReg) (w : Width) (f : Bool)
  /-- VCMP.C.eW|.F (R105): Compares elements into a mask register. -/
  | vcmp (k : KReg) (a : Reg) (b : Reg) (m : KReg) (w : Width) (f : Bool) (t : Bool) (c : VCond)
  /-- VSEL.eW (R106): Selects elements from two vectors by a mask. -/
  | vsel (d : Reg) (a : Reg) (b : Reg) (k : KReg) (w : Width)
  /-- VBCAST.eW (R107): Broadcasts a scalar into enabled elements. -/
  | vbcast (d : Reg) (a : Reg) (k : KReg) (w : Width)
  /-- VEXTR.eW[.sx] (R108): Extracts one element into a scalar register. -/
  | vextr (d : Reg) (a : Reg) (b : Reg) (w : Width)
  /-- VIOTA.eW (R109): Writes each element's index. -/
  | viota (d : Reg) (k : KReg) (w : Width)
  /-- VPERM.eW (R110): Permutes elements by an index vector. -/
  | vperm (d : Reg) (a : Reg) (b : Reg) (k : KReg) (w : Width)
  /-- VSCL.F (R111): Scales floats by powers of two. -/
  | vscl (d : Reg) (a : Reg) (b : Reg) (k : KReg) (w : Width)
  /-- VCVT.ovf|.sat (R112): Converts packed vector elements between formats. -/
  | vcvt (d : Reg) (a : Reg) (t : BitVec 5) (s : BitVec 5) (r : Bool) (k : KReg)
  /-- VRED.OP.T (R115): Reduces elements by a fixed pairwise tree into element 0. -/
  | vred (d : Reg) (a : Reg) (k : KReg) (w : Width) (f : Bool) (t : Bool) (o : ROp)
  /-- VSCAN.OP.T (R116): Inclusive prefix by doubling steps. -/
  | vscan (d : Reg) (a : Reg) (k : KReg) (w : Width) (f : Bool) (t : Bool) (o : ROp)
  /-- VEXP2.f32 (R117): Vector 2^x by the reference algorithm. -/
  | vexp2 (d : Reg) (a : Reg) (k : KReg) (w : Width)
  /-- VLOG2.f32 (R117): Vector log2. -/
  | vlog2 (d : Reg) (a : Reg) (k : KReg) (w : Width)
  /-- VRCP.f32 (R117): Vector reciprocal. -/
  | vrcp (d : Reg) (a : Reg) (k : KReg) (w : Width)
  /-- VRSQ.f32 (R117): Vector reciprocal square root. -/
  | vrsq (d : Reg) (a : Reg) (k : KReg) (w : Width)
  /-- VTANH.f32 (R117): Vector hyperbolic tangent. -/
  | vtanh (d : Reg) (a : Reg) (k : KReg) (w : Width)
  /-- KAND (R119): AND of two mask registers. -/
  | kand (d : KReg) (a : KReg) (b : KReg)
  /-- KOR (R119): OR of two mask registers. -/
  | kor (d : KReg) (a : KReg) (b : KReg)
  /-- KNOT (R119): Inverts a mask register. -/
  | knot (d : KReg) (a : KReg)
  /-- KPOPC (R119): Counts a mask's set bits into a scalar. -/
  | kpopc (d : Reg) (a : KReg)
  /-- VLDS (R120): Loads 256 scratchpad bytes into an A-to-X vector port. -/
  | vlds (d : Reg) (b : Reg) (o : BitVec 6)
  /-- VLDT.eW (R120): Strided column load into a vector port. -/
  | vldt (d : Reg) (b : Reg) (w : Width) (o : BitVec 6)
  /-- VLD[.acq].cN.SCOPE (R250): Global 256-byte vector load, optionally acquire. -/
  | vld (d : Reg) (b : Reg) (c : BitVec 3) (p : Scope) (q : Bool) (o : BitVec 6)
  /-- VSTS (R120): Pops a vector port and stores 256 scratchpad bytes. -/
  | vsts (d : Reg) (b : Reg) (o : BitVec 6)
  /-- VST[.rel].cN.SCOPE (R250): Global 256-byte vector store, optionally release. -/
  | vst (d : Reg) (b : Reg) (c : BitVec 3) (p : Scope) (q : Bool) (o : BitVec 6)
  /-- MMA.FA.FB.S[.sp24|.sp48][.ovw][.neg][.tb] (R133): Queues one matrix fire from two operand rings into an accumulator. -/
  | mma (x : BitVec 3) (y : BitVec 3) (c : BitVec 2) (a : BitVec 4) (b : BitVec 4) (s : Shape) (p : Sparsity) (f : BitVec 3)
  /-- MMA.ARM.FA.FB.S (R135): Arms a firing slot to fire once per control token. -/
  | mmaArm (x : BitVec 3) (y : BitVec 3) (c : BitVec 2) (a : BitVec 4) (b : BitVec 4) (s : Shape) (p : Sparsity) (f : BitVec 3)
  /-- MDIS (R143): Stops a firing slot and disarms it once its fires retire. -/
  | mdis (c : BitVec 2)
  /-- MZERO (R144): Sets every accumulator element to +0. -/
  | mzero (c : BitVec 2)
  /-- MFLUSH.T.ovf|.sat.S (R145): Converts and writes an accumulator region to scratchpad. -/
  | mflush (a : Reg) (b : Reg) (t : BitVec 5) (c : BitVec 2) (r : Bool) (s : Shape)
  /-- MLOAD.T.S (R146): Overwrites an accumulator from scratchpad rows. -/
  | mload (a : Reg) (b : Reg) (t : BitVec 5) (c : BitVec 2) (s : Shape)
  /-- MSCA.e8m0|.f32[.norow][.nocol].S (R147): Scales one accumulator and accumulates it into another. -/
  | msca (a : Reg) (b : Reg) (u : BitVec 2) (f : Bool) (r : Bool) (l : Bool) (c : BitVec 2) (h : Shape)
  /-- RSET (R126): Installs an operand ring's descriptor and empties it. -/
  | rset (g : BitVec 3) (a : Reg)
  /-- RPUSH (R128): Publishes n ring slots once they are free. -/
  | rpush (g : BitVec 3) (a : Reg)
  /-- RSTAT (R129): Reads a ring's state, optionally waiting for free slots. -/
  | rstat (d : Reg) (g : BitVec 3) (b : Reg)
  /-- CSET (R137): Configures a counter chain from a descriptor. -/
  | cset (c : BitVec 2) (a : Reg)
  /-- CGO (R137): Starts a configured counter chain. -/
  | cgo (c : BitVec 2)
  /-- CSTAT (R141): Reads a chain's done count and state, optionally waiting. -/
  | cstat (d : Reg) (c : BitVec 2) (b : Reg)
  /-- TSWAP (R148): Requests a block exchange with the mirror tile. -/
  | tswap (d : Reg) (a : Reg) (b : Reg)
  /-- COPY (R289): Starts a patterned copy counted at a barrier object. -/
  | copy (a : Reg) (b : Reg)
  /-- COPYC (R289): Starts a converting copy. -/
  | copyc (a : Reg) (b : Reg)
  /-- MCAST (R290): Starts a multicast to cluster members. -/
  | mcast (a : Reg) (b : Reg)
  /-- SOPEN (R296): Binds a stream handle to a marver slot. -/
  | sopen (d : Reg) (a : Reg)
  /-- SCLOSE (R296): Frees a stream handle. -/
  | sclose (a : Reg)
  /-- SCFG (R292): Loads or releases a marver configuration slot. -/
  | scfg (d : Reg) (a : Reg) (b : Reg)
  /-- BINIT (R297): Initialises a barrier object. -/
  | binit (a : Reg) (b : Reg)
  /-- BEXPECT (R297): Adds expected pending bytes to a barrier. -/
  | bexpect (a : Reg) (b : Reg)
  /-- BARRIVE (R297): Makes one arrival at a barrier. -/
  | barrive (a : Reg)
  /-- BWAIT (R298): Waits for a barrier phase flip and acquires its operations. -/
  | bwait (d : Reg) (a : Reg) (b : Reg)
  /-- BTEST (R298): Reads a barrier's phase and errors without waiting. -/
  | btest (d : Reg) (a : Reg)
  /-- FCFG (R300): Checks and installs a fibre graph image. -/
  | fcfg (d : Reg) (a : Reg)
  /-- FRUN (R301): Starts the configured fibre graph. -/
  | frun (a : Reg)
  /-- FSTAT (R302): Reads the fibre status. -/
  | fstat (d : Reg)
  /-- INST (R198): Releases and instantiates a launch packet from scratchpad. -/
  | instantiate (d : Reg) (a : Reg)
  /-- DECR (R200): Sends one released decrement to a named record. -/
  | decr (d : Reg) (a : Reg)
  /-- GCANCEL.JOB (R201): Cancels the context's job. -/
  | gcancelJob (d : Reg)
  /-- GCANCEL.PHASE (R201): Cancels one phase. -/
  | gcancelPhase (d : Reg) (a : Reg)
  /-- GCANCEL.GRAPH (R201): Cancels one graph instance. -/
  | gcancelGraph (d : Reg) (a : Reg)
  /-- GCANCEL.TASK (R201): Cancels one task record. -/
  | gcancelTask (d : Reg) (a : Reg)
  /-- FWPUSH (R207): Pushes scratchpad bytes into a pipe's consumer ring once room frees. -/
  | fwpush (d : Reg) (a : Reg) (b : Reg)
  /-- FWPOP (R208): Frees the previous block and waits for the next from a pipe. -/
  | fwpop (d : Reg) (a : Reg) (b : Reg)
  /-- CARRIVE (R209): Releases and arrives at the cluster barrier. -/
  | carrive (d : Reg)
  /-- CWAIT (R209): Waits for a cluster barrier generation and acquires it. -/
  | cwait (a : Reg)
  /-- LDX.eW.cN (R210): Loads from a member strand's scratchpad. -/
  | ldx (d : Reg) (a : Reg) (b : Reg) (c : BitVec 3) (z : Width)
  /-- STX.eW.cN (R210): Stores to a member strand's scratchpad. -/
  | stx (d : Reg) (a : Reg) (b : Reg) (c : BitVec 3) (z : Width)
  /-- TRAP (R337): Raises the software-trap cause. -/
  | trap (n : BitVec 12)
  /-- CSRR (R338): Reads a control and status register. -/
  | csrr (d : Reg) (c : BitVec 12)
  /-- CSRW (R338): Writes a control and status register. -/
  | csrw (a : Reg) (c : BitVec 12)
  /-- CSRX (R338): Reads and writes a control and status register in one step. -/
  | csrx (d : Reg) (a : Reg) (c : BitVec 12)
  /-- FREEZE (R340): Asks the dispatcher to end the VF's slice. -/
  | freeze (d : Reg)
  /-- SCRUB[.64k|.2m|.1g] (R341): Zeros a range of global space through a marver graph. -/
  | scrub (d : Reg) (a : Reg) (u : PageUnit) (n : BitVec 10)
  /-- INVPG[.64k|.2m|.1g] (R342): Invalidates a range of a context's mappings. -/
  | invpg (d : Reg) (a : Reg) (u : PageUnit) (n : BitVec 10)
  /-- WAYSET.cw (R343): Sets a die's carve-out way count. -/
  | waysetCw (d : Reg) (a : Reg)
  /-- WAYSET.share (R343): Sets a VF's cache way share. -/
  | waysetShare (d : Reg) (a : Reg)
  /-- LEHR.arm (R344): Arms the checkpoint engine with a descriptor. -/
  | lehrArm (d : Reg) (a : Reg)
  /-- LEHR.stat (R344): Reads the checkpoint engine status. -/
  | lehrStat (d : Reg)
  /-- LEHR.disarm (R344): Disarms the checkpoint engine once any open epoch closes. -/
  | lehrDisarm (d : Reg)
  /-- JCFG (R345): Schedules a jack graph switch on a port. -/
  | jcfg (d : Reg) (a : Reg) (p : BitVec 5)
  /-- PERFSEL (R346): Selects the event of one performance counter. -/
  | perfsel (a : Reg) (n : BitVec 2)
  /-- HIMM (R58): Widens the immediate of the next instruction. -/
  | himm (p : BitVec 22)
  /-- HMOD (R59): Passes modifier bits to the next instruction. -/
  | hmod (p : BitVec 22)
  /-- HPRI (R59): Sets the request priority of the next instruction. -/
  | hpri (p : BitVec 3)
  /-- UNASSIGNED_ENCODING (R64): A word that is not an instruction traps precisely at issue. -/
  | unassignedEncoding (w : IWord)
  /-- DECOUPLING_DEADLOCK (R33): Trap taken when both fronts are queue-blocked with nothing in flight to release them. -/
  | decouplingDeadlock (t : Nat)
  /-- STRAND_RETIRE (R31): A strand retires once both fronts have ended and all issued work has completed, releasing slots, handles and pins. -/
  | strandRetire (t : Nat)
  /-- LOCAL_LOAD_FILL (R28): A load's data arrives and fills its reserved queue slot or register. -/
  | localLoadFill (t id : Nat)
  /-- FIRE (R133): A matrix fire reads its ring slots, accumulates and pops them, with markers and checked-mode comparison. -/
  | fire (t id : Nat)
  /-- TOKEN_EMIT (R139): A running counter chain emits a control token to its firing slot. -/
  | tokenEmit (t cc : Nat)
  /-- FIRE_RETIRE (R140): A fire retires after its pops and flush, advancing the done count and possibly disarming the slot. -/
  | fireRetire (t id : Nat)
  /-- TSWAP_EXCHANGE (R148): Once both partners have issued, the blocks are exchanged and statuses written. -/
  | tswapExchange (t : Nat)
  /-- PACKET_INTAKE (R183): The dispatcher takes one launch packet from a queue in its context's turn. -/
  | packetIntake (die : Nat)
  /-- SPILL_REFILL (R193): When an ordinary record frees, the oldest eligible spilled record is refilled. -/
  | spillRefill (die : Nat)
  /-- DECREMENT_APPLY (R184): A home bank applies one decrement to a record, enqueueing it at dep zero. -/
  | decrementApply (die : Nat) (m : Decr)
  /-- PLACEMENT_PASS (R188): The dispatcher places ready units and makes reservations by age and bypass count. -/
  | placementPass (die : Nat)
  /-- OPERAND_TOKEN (R190): An operand transfer's last beat arrives and decrements opend. -/
  | operandToken (die id : Nat)
  /-- STRAND_START (R165): A runnable task's strands are prepared and started with launch values. -/
  | strandStart (die inst tidx : Nat)
  /-- TASK_DONE (R155): A task whose counter reaches zero releases, decrements successors and completes its graph share. -/
  | taskDone (die inst tidx : Nat)
  /-- GRAPH_WATCHDOG (R173): A watchdog interval passes without progress and error records are written. -/
  | graphWatchdog (die inst : Nat)
  /-- EVENT_ENTRY (R170): An event-mode strand whose fronts have ended takes an eligible channel and resumes. -/
  | eventEntry (t : Nat)
  /-- EVENT_RETIRE (R170): Waiting event-mode strands of a task retire together. -/
  | eventRetire (die inst tidx : Nat)
  /-- PAYLOAD_ARRIVAL (R205): A signal payload reaches a channel table and is stored or discarded. -/
  | payloadArrival (id : Nat)
  /-- BLOCK_ARRIVAL (R205): A BLOCK or UNBLOCK reaches its target channel. -/
  | blockArrival (id : Nat)
  /-- GLOBAL_REQUEST (R217): A global access reaches its home slice and is translated, looked up and served or forwarded. -/
  | globalRequest (id : Nat)
  /-- GLOBAL_RESPONSE (R248): The home's response to an access arrives at the strand: data, retry, page fault or error. -/
  | globalResponse (id : Nat)
  /-- RETRY_REISSUE (R244): An access refused by a pinned line is reissued after at least 64 cycles. -/
  | retryReissue (id : Nat)
  /-- PROMOTE_REQUEST (R246): A promotion request reaches the owner tile, which widens and unpins its lines. -/
  | promoteRequest (id : Nat)
  /-- GATHER_SEND_HOME (R227): A gather-cache line is sent home and combined at its slice. -/
  | gatherSendHome (t k : Nat)
  /-- CLAIM_RESULT_DELIVERY (R264): A deferred claim result reaches the waiter's tile, is written and posted. -/
  | claimResultDelivery (id : Nat)
  /-- LEASE_EXPIRY (R260): A Making entry's lease passes and the home hands it over or frees it. -/
  | leaseExpiry (die key : Nat)
  /-- OPERATION_COMPLETION (R271): An engine operation delivers its completion to a barrier object, possibly flipping its phase. -/
  | operationCompletion (id : Nat)
  /-- FIBRE_FIRE (R282): A fibre unit consumes input tokens and emits output tokens. -/
  | fibreFire (t u : Nat)
  /-- FIBRE_FAULT (R284): A fibre graph fault stops it, closes its barrier and traps the issuing strand. -/
  | fibreFault (t : Nat)
  /-- UNCORRECTABLE_ERROR (R317): An uncorrectable storage or transport error is contained by the smallest unit. -/
  | uncorrectableError (site : ErrorSite)
  /-- CRC_RETRANSMIT (R319): A transaction whose CRC mismatches is discarded and resent. -/
  | crcRetransmit (id : Nat)
  /-- SLICE_END (R330): A VF's time slice expires and the world switch freezes it. -/
  | sliceEnd (vf : Nat)
  /-- RESTORE (R328): A saved VF is scanned into pages, rebound and released. -/
  | restore (vf : Nat)
  /-- LATENCY_WINDOW_CLOSE (R331): A latency monitor window closes and p99 is compared with its bound. -/
  | latencyWindowClose (vf : Nat)
  /-- COUNTER_WRAP (R334): A performance counter wraps, setting ovf and optionally interrupting. -/
  | counterWrap (vf n : Nat)
  /-- RECORD_DECREMENT (R350): A record-decrement message from the other dispatcher is applied or buffered. -/
  | recordDecrement (die : Nat) (m : Decr)
  /-- PHASE_JOIN (R351): Die 0 checks and counts a die-1 graph share and answers the gate. -/
  | phaseJoin (m : BitVec 128)
  /-- PHASE_LEAVE (R351): Die 0 decrements the phase counter for a completed die-1 share. -/
  | phaseLeave (m : BitVec 128)
  /-- GATE_OPEN (R351): Die 1 may place the records of the gated instance. -/
  | gateOpen (m : BitVec 128)
  /-- GATE_REFUSE (R351): Die 1 discards the instance's records and buffered decrements. -/
  | gateRefuse (m : BitVec 128)
  /-- RESERVED_KIND_MESSAGE (R350): A decrement message of reserved kind is discarded and reported. -/
  | reservedKindMessage (die : Nat) (m : BitVec 128)
  /-- SPAN_PACKET_FORWARD (R352): Die 1 receives a spanning packet with its sequence number and materialises its share. -/
  | spanPacketForward (q : Nat)
  /-- PREDECREMENT_RETRY (R354): A decrement refused by a full pre-decrement buffer is resent after 256 cycles. -/
  | predecrementRetry (die : Nat) (m : Decr)
  /-- PROXY_FORWARD (R359): The forwarding engine copies shadow entries into the true ring and advances its indices. -/
  | proxyForward (die p : Nat)
  /-- PROXY_TIMEOUT (R359): A held push waits 2^t cycles and the owner receives a queue-full event. -/
  | proxyTimeout (die p : Nat)
  /-- JACK_SWITCH (R362): At cycle swc the new jack graph takes effect. -/
  | jackSwitch (p : Nat)
  /-- JACK_ADDER_FIRE (R361): A jack adder combines one element pair. -/
  | jackAdderFire (p k : Nat)
  /-- UALINK_REQUEST (R363): An inbound UALink request is served, refused or delivered as a decrement message. -/
  | ualinkRequest (r : UalReq)
  /-- FLIT_FORWARD (R364): A torus flit is routed by its destination's routing entry. -/
  | flitForward (p : Nat) (f : Flit)
  /-- HOST_ACCESS (R365): A host access by physical address arrives over the Cord. -/
  | hostAccess (r : HostReq)
  /-- MODULE_RESET (R376): mgctl.mrst restarts both dies at stage 1, optionally clearing the attempt count. -/
  | moduleReset (clr : Bool)
  /-- DIE1_REJOIN (R376): Die 1 finishes its stages and rejoins, setting d1up. -/
  | die1Rejoin (r : StartResult)
  /-- LIFECYCLE_CHANGE (R379): mgctl.lgo stores the requested life-cycle state, wipes and resets. -/
  | lifecycleChange (lreq : BitVec 2)
  /-- POWER_GOOD (R373): After power is applied the start stages run, wipe memory and set ready or minimal mode. -/
  | powerGood (r : StartResult)
  /-- TEMP_WARNING (R380): Junction temperature reaches 95 °C and interrupt entry 1 is raised. -/
  | tempWarning (die : Nat)
  /-- THERMAL_TRIP (R380): At 105 °C both dies stop and restart with cause 0x0A. -/
  | thermalTrip (die : Nat)
  /-- ACCUMULATOR_COMMAND (R124): An accumulator command (MZERO, MFLUSH, MLOAD, MSCA, or an MMA.ARM installing itself) reaches the head of the matrix command queue and is performed. -/
  | accumulatorCommand (t : Nat)
  /-- PEER_ACCESS_ARRIVAL (R210): An LDX, STX, tile-window access, forwarded-stream push or MCAST write reaches the named peer tile's scratchpad unit and is performed there, held, or refused because the peer is gone. -/
  | peerAccessArrival (id : Nat)
  /-- CLUSTER_ARRIVAL (R209): A CARRIVE arrival reaches the other cluster members once its released writes are performed, which may complete a generation and end a CWAIT. -/
  | clusterArrival (t id : Nat)
  /-- HOST_FREEZE_COMMAND (R325): A host command starts the freeze of one VF's pages. -/
  | hostFreezeCommand (vf : Nat)
  /-- NOP (R93): Occupies one issue slot. -/
  | nop
  /-- END (R31): Stops the issuing front. -/
  | endStrand
  /-- ERET (R337): Returns both fronts from the handler once both have issued it. -/
  | eret
  /-- LEHR_EPOCH_OPEN (R367): On phase completion the lehr opens an epoch and copies dirty blocks. -/
  | lehrEpochOpen
  /-- LEHR_EPOCH_CLOSE (R367): When every block is copied the epoch record is written and the epoch closes. -/
  | lehrEpochClose
  /-- LQD_WRITE (R175): Writing a launch queue descriptor registers and checks the queue. -/
  | lqdWrite
  /-- LQS_WI_WRITE (R176): The host advances a launch queue's write index. -/
  | lqsWiWrite
  /-- OVR_REGISTER (R180): Writing the overflow ring register registers the ring. -/
  | ovrRegister
  /-- OVR_RESUME (R195): The resume bit restarts spilling after an unmapped page. -/
  | ovrResume
  /-- FRR_REGISTER (R180): Writing the fault ring's upper doubleword registers it afresh. -/
  | frrRegister
  /-- FRR_RI_WRITE (R180): The host sets the fault ring's read index. -/
  | frrRiWrite
  /-- PAGES_RESIDENT (R315): Record control op 1 requeues a record parked by a page fault. -/
  | pagesResident
  /-- REQUEUE (R180): Record control op 2 requeues any parked record, clearing its abort count. -/
  | requeue
  /-- CANCEL_RECORD (R180): Record control op 3 cancels a record. -/
  | cancelRecord
  /-- FRAME_RELEASE (R226): Frame release invalidates, zeros and reports a freed frame range. -/
  | frameRelease
  /-- ACTIVATE (R182): Context command 1 reads the descriptor and makes the context live. -/
  | activate
  /-- DEACTIVATE (R182): Context command 2 cancels the job, stops queues, frees claims and flushes lines. -/
  | deactivate
  /-- RELOAD_RING (R182): Context command 3 rereads and restarts the eviction ring. -/
  | reloadRing
  /-- CLOSE_PHASE (R156): Context command 4 closes a phase. -/
  | closePhase
  /-- REOPEN_PHASE (R156): Context command 5 reopens a Complete phase. -/
  | reopenPhase
  /-- END_JOB (R156): Context command 6 ends the context's job. -/
  | endJob
  /-- PARTITION_WRITE (R323): A partition entry write is checked and applied or ignored with an error record. -/
  | partitionWrite
  /-- LATENCY_MONITOR_WRITE (R331): Writing a latency monitor empties its buckets. -/
  | latencyMonitorWrite
  /-- PROXY_PAIR_REGISTER (R359): Writing a proxy-pair entry registers the pair afresh. -/
  | proxyPairRegister
  /-- REGISTER_WRITE (R179): A write to a window register with no behaviour of its own. -/
  | registerWrite
  /-- DIE1_RESET (R376): mgctl.d1rst stops and wipes die 1 and retrains it. -/
  | die1Reset
  deriving DecidableEq, Repr

end Sys2Proof
end

