-- ==== Sys2Proof/WellFormed.lean ====
section
/-! DEFINITION. Which instructions have field values that the encoding assigns (R56, R61, R64): the values that a
reserved code would leave out are checked here, those of the closed field types of Syntax are assigned by their type. -/

namespace Sys2Proof

/-- Conversion format codes of FCVT and VCVT (R56). -/
def convCodeOk (t : BitVec 5) : Bool := decide (t.toNat ≤ 20) && t != 14 && t != 15

/-- Matrix operand formats (R56). -/
def formatOk (f : BitVec 4) : Bool := decide (f.toNat < 14)

/-- Target and source codes of MFLUSH and MLOAD (R141). -/
def accCodeOk (t : BitVec 5) : Bool := decide (t.toNat < 14) || t == 16 || t == 17

/-- The register pairs of HASH and CLAIM start at an even number (R61, R257). -/
def evenReg (d : Reg) : Bool := d.toNat % 2 == 0

/-- Port numbers of QSTAT and QDRAIN (R96): width 3 a scalar port, width 2 a vector port. -/
def portOk (w : BitVec 2) (a : Reg) : Bool :=
  (w == 3 && decide (24 ≤ a.toNat)) || (w == 2 && decide (28 ≤ a.toNat))

/-- Listed control and status registers (R338). -/
def csrListed (c : BitVec 12) : Bool :=
  let n := c.toNat
  decide (n ≤ 0x002) || (decide (0x010 ≤ n) && decide (n ≤ 0x016)) || (decide (0x020 ≤ n) && decide (n ≤ 0x025)) ||
    (decide (0x030 ≤ n) && decide (n ≤ 0x034)) || (decide (0x040 ≤ n) && decide (n ≤ 0x04F))

/-- Registers marked RO in R338: a write to one is an unassigned encoding. -/
def csrReadOnly (c : BitVec 12) : Bool :=
  let n := c.toNat
  (decide (0x010 ≤ n) && decide (n ≤ 0x016)) || n == 0x021 || n == 0x022 || n == 0x025 || n == 0x034

/-- Every field value of the instruction is assigned. -/
def Instr.wf : Instr → Bool
  | .add _ _ _ _ => true
  | .sub _ _ _ _ => true
  | .andd _ _ _ _ => true
  | .orr _ _ _ _ => true
  | .xorr _ _ _ _ => true
  | .andn _ _ _ _ => true
  | .sll _ _ _ _ => true
  | .srl _ _ _ _ => true
  | .sra _ _ _ _ => true
  | .slt _ _ _ _ => true
  | .sltu _ _ _ _ => true
  | .minn _ _ _ _ => true
  | .maxx _ _ _ _ => true
  | .minu _ _ _ _ => true
  | .maxu _ _ _ _ => true
  | .mul _ _ _ _ => true
  | .mulh _ _ _ _ => true
  | .mulhu _ _ _ _ => true
  | .div _ _ _ _ => true
  | .divu _ _ _ _ => true
  | .rem _ _ _ _ => true
  | .remu _ _ _ _ => true
  | .clz _ _ _ => true
  | .ffs _ _ _ => true
  | .popc _ _ _ => true
  | .brev _ _ _ => true
  | .bext _ _ _ _ => true
  | .bins _ _ _ _ => true
  | .sext _ _ _ _ => true
  | .addi _ _ _ => true
  | .andi _ _ _ => true
  | .ori _ _ _ => true
  | .xori _ _ _ => true
  | .slti _ _ _ => true
  | .sethi _ _ _ => true
  | .slli _ _ _ => true
  | .srli _ _ _ => true
  | .srai _ _ _ => true
  | .sel _ _ _ _ => true
  | .fadd _ _ _ _ => true
  | .fsub _ _ _ _ => true
  | .fmul _ _ _ _ => true
  | .fmin _ _ _ _ => true
  | .fmax _ _ _ _ => true
  | .fcmpEq _ _ _ _ => true
  | .fcmpNe _ _ _ _ => true
  | .fcmpLt _ _ _ _ => true
  | .fcmpLe _ _ _ _ => true
  | .fcmpUn _ _ _ _ => true
  | .ffma _ _ _ _ _ => true
  | .fcvt _ _ t s _ => convCodeOk t && convCodeOk s
  | .br _ _ _ _ => true
  | .jal _ => true
  | .jalr _ _ _ => true
  | .lds _ _ _ _ => true
  | .sts _ _ _ _ => true
  | .ld _ _ _ _ _ _ _ _ => true
  | .st _ _ _ _ _ _ _ => true
  | .amo _ _ _ _ _ _ _ => true
  | .cas _ _ _ _ _ _ => true
  | .red _ _ o _ _ _ => o != .swap
  | .fence a _ p => p == .rect || a == 0
  | .promote _ p => p == .die || p == .module || p == .pod
  | .hash d _ _ _ => evenReg d
  | .claim d a _ => evenReg d && evenReg a
  | .cfulfil _ _ _ => true
  | .cabandon _ _ => true
  | .cpin _ _ _ => true
  | .cunpin _ _ _ => true
  | .qstat _ a w => portOk w a
  | .qdrain _ a w => portOk w a
  | .signal _ _ => true
  | .waitch _ => true
  | .block _ => true
  | .unblock _ => true
  | .vadd _ _ _ _ _ => true
  | .vsub _ _ _ _ _ => true
  | .vmul _ _ _ _ _ => true
  | .vmulh _ _ _ _ _ => true
  | .vmin _ _ _ _ _ => true
  | .vmax _ _ _ _ _ => true
  | .vabs _ _ _ _ => true
  | .vneg _ _ _ _ => true
  | .vand _ _ _ _ _ => true
  | .vor _ _ _ _ _ => true
  | .vxor _ _ _ _ _ => true
  | .vsll _ _ _ _ _ => true
  | .vsrl _ _ _ _ _ => true
  | .vsra _ _ _ _ _ => true
  | .vclz _ _ _ _ => true
  | .vffs _ _ _ _ => true
  | .vpopc _ _ _ _ => true
  | .vaddF _ _ _ _ _ _ => true
  | .vsubF _ _ _ _ _ _ => true
  | .vmulF _ _ _ _ _ _ => true
  | .vminF _ _ _ _ _ _ => true
  | .vmaxF _ _ _ _ _ _ => true
  | .vabsF _ _ _ _ _ => true
  | .vnegF _ _ _ _ _ => true
  | .vfma _ _ _ _ _ _ => true
  | .vfms _ _ _ _ _ _ => true
  | .vcmp _ _ _ _ _ _ _ _ => true
  | .vsel _ _ _ _ _ => true
  | .vbcast _ _ _ _ => true
  | .vextr _ _ _ _ => true
  | .viota _ _ _ => true
  | .vperm _ _ _ _ _ => true
  | .vscl _ _ _ _ _ => true
  | .vcvt _ _ t s _ _ => convCodeOk t && convCodeOk s
  | .vred _ _ _ _ _ _ _ => true
  | .vscan _ _ _ _ _ _ _ => true
  | .vexp2 _ _ _ _ => true
  | .vlog2 _ _ _ _ => true
  | .vrcp _ _ _ _ => true
  | .vrsq _ _ _ _ => true
  | .vtanh _ _ _ _ => true
  | .kand _ _ _ => true
  | .kor _ _ _ => true
  | .knot _ _ => true
  | .kpopc _ _ => true
  | .vlds _ _ _ => true
  | .vldt _ _ _ _ => true
  | .vld _ _ _ _ _ _ => true
  | .vsts _ _ _ => true
  | .vst _ _ _ _ _ _ => true
  | .mma _ _ _ a b _ _ _ => formatOk a && formatOk b
  | .mmaArm _ _ _ a b _ _ _ => formatOk a && formatOk b
  | .mdis _ => true
  | .mzero _ => true
  | .mflush _ _ t _ _ _ => accCodeOk t
  | .mload _ _ t _ _ => accCodeOk t
  | .msca _ _ _ _ _ _ _ _ => true
  | .rset _ _ => true
  | .rpush _ _ => true
  | .rstat _ _ _ => true
  | .cset _ _ => true
  | .cgo _ => true
  | .cstat _ _ _ => true
  | .tswap _ _ _ => true
  | .copy _ _ => true
  | .copyc _ _ => true
  | .mcast _ _ => true
  | .sopen _ _ => true
  | .sclose _ => true
  | .scfg _ _ _ => true
  | .binit _ _ => true
  | .bexpect _ _ => true
  | .barrive _ => true
  | .bwait _ _ _ => true
  | .btest _ _ => true
  | .fcfg _ _ => true
  | .frun _ => true
  | .fstat _ => true
  | .instantiate _ _ => true
  | .decr _ _ => true
  | .gcancelJob _ => true
  | .gcancelPhase _ _ => true
  | .gcancelGraph _ _ => true
  | .gcancelTask _ _ => true
  | .fwpush _ a _ => decide (a.toNat < 16)
  | .fwpop _ a _ => decide (a.toNat < 16)
  | .carrive _ => true
  | .cwait _ => true
  | .ldx _ _ _ _ _ => true
  | .stx _ _ _ _ _ => true
  | .trap _ => true
  | .csrr _ c => csrListed c
  | .csrw _ c => csrListed c && !csrReadOnly c
  | .csrx _ _ c => csrListed c && !csrReadOnly c
  | .freeze _ => true
  | .scrub _ _ _ _ => true
  | .invpg _ _ _ _ => true
  | .waysetCw _ _ => true
  | .waysetShare _ _ => true
  | .lehrArm _ _ => true
  | .lehrStat _ => true
  | .lehrDisarm _ => true
  | .jcfg _ _ p => decide (p.toNat ≤ 16)
  | .perfsel _ _ => true
  | .himm _ => true
  | .hmod _ => true
  | .hpri _ => true
  | .unassignedEncoding _ => true
  | .decouplingDeadlock _ => true
  | .strandRetire _ => true
  | .localLoadFill _ _ => true
  | .fire _ _ => true
  | .tokenEmit _ _ => true
  | .fireRetire _ _ => true
  | .tswapExchange _ => true
  | .packetIntake _ => true
  | .spillRefill _ => true
  | .decrementApply _ _ => true
  | .placementPass _ => true
  | .operandToken _ _ => true
  | .strandStart _ _ _ => true
  | .taskDone _ _ _ => true
  | .graphWatchdog _ _ => true
  | .eventEntry _ => true
  | .eventRetire _ _ _ => true
  | .payloadArrival _ => true
  | .blockArrival _ => true
  | .globalRequest _ => true
  | .globalResponse _ => true
  | .retryReissue _ => true
  | .promoteRequest _ => true
  | .gatherSendHome _ _ => true
  | .claimResultDelivery _ => true
  | .leaseExpiry _ _ => true
  | .operationCompletion _ => true
  | .fibreFire _ _ => true
  | .fibreFault _ => true
  | .uncorrectableError _ => true
  | .crcRetransmit _ => true
  | .sliceEnd _ => true
  | .restore _ => true
  | .latencyWindowClose _ => true
  | .counterWrap _ _ => true
  | .recordDecrement _ _ => true
  | .phaseJoin _ => true
  | .phaseLeave _ => true
  | .gateOpen _ => true
  | .gateRefuse _ => true
  | .reservedKindMessage _ _ => true
  | .spanPacketForward _ => true
  | .predecrementRetry _ _ => true
  | .proxyForward _ _ => true
  | .proxyTimeout _ _ => true
  | .jackSwitch _ => true
  | .jackAdderFire _ _ => true
  | .ualinkRequest _ => true
  | .flitForward _ _ => true
  | .hostAccess _ => true
  | .moduleReset _ => true
  | .die1Rejoin _ => true
  | .lifecycleChange _ => true
  | .powerGood _ => true
  | .tempWarning _ => true
  | .thermalTrip _ => true
  | .accumulatorCommand _ => true
  | .peerAccessArrival _ => true
  | .clusterArrival _ _ => true
  | .hostFreezeCommand _ => true
  | .nop => true
  | .endStrand => true
  | .eret => true
  | .lehrEpochOpen => true
  | .lehrEpochClose => true
  | .lqdWrite => true
  | .lqsWiWrite => true
  | .ovrRegister => true
  | .ovrResume => true
  | .frrRegister => true
  | .frrRiWrite => true
  | .pagesResident => true
  | .requeue => true
  | .cancelRecord => true
  | .frameRelease => true
  | .activate => true
  | .deactivate => true
  | .reloadRing => true
  | .closePhase => true
  | .reopenPhase => true
  | .endJob => true
  | .partitionWrite => true
  | .latencyMonitorWrite => true
  | .proxyPairRegister => true
  | .registerWrite => true
  | .die1Reset => true

end Sys2Proof
end

