-- ==== Sys2Proof/Decode.lean ====
section
/-! DEFINITION. Decoding an instruction word (R52 to R64), total and refusing by name, and the encoder written
from the same tables. -/

namespace Sys2Proof

/-- Why a word is no instruction (R64). -/
inductive DecodeError | short | reservedMajor | reservedFunction | reservedField | reservedBits | reservedValue
  deriving DecidableEq, Repr

/-- The code of a Width field. -/
def Width.code : Width → Nat
  | .w8 => 0
  | .w16 => 1
  | .w32 => 2
  | .w64 => 3

/-- The Width a code names; none for a reserved code. -/
def Width.ofCode? : Nat → Option Width
  | 0 => some .w8
  | 1 => some .w16
  | 2 => some .w32
  | 3 => some .w64
  | _ => none

/-- The code of a FFmt field. -/
def FFmt.code : FFmt → Nat
  | .fp32 => 0
  | .fp16 => 1
  | .bf16 => 2

/-- The FFmt a code names; none for a reserved code. -/
def FFmt.ofCode? : Nat → Option FFmt
  | 0 => some .fp32
  | 1 => some .fp16
  | 2 => some .bf16
  | _ => none

/-- The code of a LoadSize field. -/
def LoadSize.code : LoadSize → Nat
  | .u8 => 0
  | .u16 => 1
  | .u32 => 2
  | .d64 => 3
  | .s8 => 4
  | .s16 => 5
  | .s32 => 6

/-- The LoadSize a code names; none for a reserved code. -/
def LoadSize.ofCode? : Nat → Option LoadSize
  | 0 => some .u8
  | 1 => some .u16
  | 2 => some .u32
  | 3 => some .d64
  | 4 => some .s8
  | 5 => some .s16
  | 6 => some .s32
  | _ => none

/-- The code of a Scope field. -/
def Scope.code : Scope → Nat
  | .tile => 0
  | .cluster => 1
  | .rect => 2
  | .die => 3
  | .module => 4
  | .pod => 5

/-- The Scope a code names; none for a reserved code. -/
def Scope.ofCode? : Nat → Option Scope
  | 0 => some .tile
  | 1 => some .cluster
  | 2 => some .rect
  | 3 => some .die
  | 4 => some .module
  | 5 => some .pod
  | _ => none

/-- The code of a BrCond field. -/
def BrCond.code : BrCond → Nat
  | .eq => 0
  | .ne => 1
  | .lt => 2
  | .ge => 3
  | .ltu => 4
  | .geu => 5
  | .al => 6

/-- The BrCond a code names; none for a reserved code. -/
def BrCond.ofCode? : Nat → Option BrCond
  | 0 => some .eq
  | 1 => some .ne
  | 2 => some .lt
  | 3 => some .ge
  | 4 => some .ltu
  | 5 => some .geu
  | 6 => some .al
  | _ => none

/-- The code of a AmoOp field. -/
def AmoOp.code : AmoOp → Nat
  | .add => 0
  | .and => 1
  | .or => 2
  | .xor => 3
  | .min => 4
  | .max => 5
  | .minu => 6
  | .maxu => 7
  | .swap => 8
  | .fadd => 9

/-- The AmoOp a code names; none for a reserved code. -/
def AmoOp.ofCode? : Nat → Option AmoOp
  | 0 => some .add
  | 1 => some .and
  | 2 => some .or
  | 3 => some .xor
  | 4 => some .min
  | 5 => some .max
  | 6 => some .minu
  | 7 => some .maxu
  | 8 => some .swap
  | 9 => some .fadd
  | _ => none

/-- The code of a VCond field. -/
def VCond.code : VCond → Nat
  | .eq => 0
  | .ne => 1
  | .lt => 2
  | .le => 3
  | .ltu => 4
  | .leu => 5
  | .un => 6

/-- The VCond a code names; none for a reserved code. -/
def VCond.ofCode? : Nat → Option VCond
  | 0 => some .eq
  | 1 => some .ne
  | 2 => some .lt
  | 3 => some .le
  | 4 => some .ltu
  | 5 => some .leu
  | 6 => some .un
  | _ => none

/-- The code of a ROp field. -/
def ROp.code : ROp → Nat
  | .add => 0
  | .min => 1
  | .max => 2
  | .and => 3
  | .or => 4
  | .xor => 5

/-- The ROp a code names; none for a reserved code. -/
def ROp.ofCode? : Nat → Option ROp
  | 0 => some .add
  | 1 => some .min
  | 2 => some .max
  | 3 => some .and
  | 4 => some .or
  | 5 => some .xor
  | _ => none

/-- The code of a Shape field. -/
def Shape.code : Shape → Nat
  | .s64x128 => 0
  | .s64x64 => 1
  | .s32x32 => 2
  | .s16x16 => 3
  | .s8x8 => 4

/-- The Shape a code names; none for a reserved code. -/
def Shape.ofCode? : Nat → Option Shape
  | 0 => some .s64x128
  | 1 => some .s64x64
  | 2 => some .s32x32
  | 3 => some .s16x16
  | 4 => some .s8x8
  | _ => none

/-- The code of a Sparsity field. -/
def Sparsity.code : Sparsity → Nat
  | .dense => 0
  | .sp24 => 1
  | .sp48 => 2

/-- The Sparsity a code names; none for a reserved code. -/
def Sparsity.ofCode? : Nat → Option Sparsity
  | 0 => some .dense
  | 1 => some .sp24
  | 2 => some .sp48
  | _ => none

/-- The code of a PageUnit field. -/
def PageUnit.code : PageUnit → Nat
  | .k64 => 0
  | .m2 => 1
  | .g1 => 2

/-- The PageUnit a code names; none for a reserved code. -/
def PageUnit.ofCode? : Nat → Option PageUnit
  | 0 => some .k64
  | 1 => some .m2
  | 2 => some .g1
  | _ => none

/-- One bit as a number. -/
def bitCode (b : Bool) : Nat := if b then 1 else 0

/-- A one-bit field. -/
def bitOf (n : Nat) : Bool := n == 1

/-- A field whose code must be assigned (R56). -/
def need {α : Type} : Option α → Except DecodeError α
  | some x => .ok x
  | none => .error .reservedField

/-- Reserved bits must be zero (R14). -/
def zeros (n : Nat) (k : Except DecodeError Instr) : Except DecodeError Instr :=
  if n = 0 then k else .error .reservedBits

/-- Major 0x01 (R60, R61). -/
def decodeMajor01 (w : Nat) : Except DecodeError Instr :=
  match fld w 8 0 with
  | 0 => (do let w_ ← need (Width.ofCode? (fld w 10 9)); .ok (.add (BitVec.ofNat 5 (fld w 25 21)) (BitVec.ofNat 5 (fld w 20 16)) (BitVec.ofNat 5 (fld w 15 11)) w_))
  | 1 => (do let w_ ← need (Width.ofCode? (fld w 10 9)); .ok (.sub (BitVec.ofNat 5 (fld w 25 21)) (BitVec.ofNat 5 (fld w 20 16)) (BitVec.ofNat 5 (fld w 15 11)) w_))
  | 2 => (do let w_ ← need (Width.ofCode? (fld w 10 9)); .ok (.andd (BitVec.ofNat 5 (fld w 25 21)) (BitVec.ofNat 5 (fld w 20 16)) (BitVec.ofNat 5 (fld w 15 11)) w_))
  | 3 => (do let w_ ← need (Width.ofCode? (fld w 10 9)); .ok (.orr (BitVec.ofNat 5 (fld w 25 21)) (BitVec.ofNat 5 (fld w 20 16)) (BitVec.ofNat 5 (fld w 15 11)) w_))
  | 4 => (do let w_ ← need (Width.ofCode? (fld w 10 9)); .ok (.xorr (BitVec.ofNat 5 (fld w 25 21)) (BitVec.ofNat 5 (fld w 20 16)) (BitVec.ofNat 5 (fld w 15 11)) w_))
  | 5 => (do let w_ ← need (Width.ofCode? (fld w 10 9)); .ok (.andn (BitVec.ofNat 5 (fld w 25 21)) (BitVec.ofNat 5 (fld w 20 16)) (BitVec.ofNat 5 (fld w 15 11)) w_))
  | 6 => (do let w_ ← need (Width.ofCode? (fld w 10 9)); .ok (.sll (BitVec.ofNat 5 (fld w 25 21)) (BitVec.ofNat 5 (fld w 20 16)) (BitVec.ofNat 5 (fld w 15 11)) w_))
  | 7 => (do let w_ ← need (Width.ofCode? (fld w 10 9)); .ok (.srl (BitVec.ofNat 5 (fld w 25 21)) (BitVec.ofNat 5 (fld w 20 16)) (BitVec.ofNat 5 (fld w 15 11)) w_))
  | 8 => (do let w_ ← need (Width.ofCode? (fld w 10 9)); .ok (.sra (BitVec.ofNat 5 (fld w 25 21)) (BitVec.ofNat 5 (fld w 20 16)) (BitVec.ofNat 5 (fld w 15 11)) w_))
  | 9 => (do let w_ ← need (Width.ofCode? (fld w 10 9)); .ok (.slt (BitVec.ofNat 5 (fld w 25 21)) (BitVec.ofNat 5 (fld w 20 16)) (BitVec.ofNat 5 (fld w 15 11)) w_))
  | 10 => (do let w_ ← need (Width.ofCode? (fld w 10 9)); .ok (.sltu (BitVec.ofNat 5 (fld w 25 21)) (BitVec.ofNat 5 (fld w 20 16)) (BitVec.ofNat 5 (fld w 15 11)) w_))
  | 11 => (do let w_ ← need (Width.ofCode? (fld w 10 9)); .ok (.minn (BitVec.ofNat 5 (fld w 25 21)) (BitVec.ofNat 5 (fld w 20 16)) (BitVec.ofNat 5 (fld w 15 11)) w_))
  | 12 => (do let w_ ← need (Width.ofCode? (fld w 10 9)); .ok (.maxx (BitVec.ofNat 5 (fld w 25 21)) (BitVec.ofNat 5 (fld w 20 16)) (BitVec.ofNat 5 (fld w 15 11)) w_))
  | 13 => (do let w_ ← need (Width.ofCode? (fld w 10 9)); .ok (.minu (BitVec.ofNat 5 (fld w 25 21)) (BitVec.ofNat 5 (fld w 20 16)) (BitVec.ofNat 5 (fld w 15 11)) w_))
  | 14 => (do let w_ ← need (Width.ofCode? (fld w 10 9)); .ok (.maxu (BitVec.ofNat 5 (fld w 25 21)) (BitVec.ofNat 5 (fld w 20 16)) (BitVec.ofNat 5 (fld w 15 11)) w_))
  | _ => .error .reservedFunction

/-- Major 0x02 (R60, R61). -/
def decodeMajor02 (w : Nat) : Except DecodeError Instr :=
  match fld w 8 0 with
  | 0 => (do let w_ ← need (Width.ofCode? (fld w 10 9)); .ok (.mul (BitVec.ofNat 5 (fld w 25 21)) (BitVec.ofNat 5 (fld w 20 16)) (BitVec.ofNat 5 (fld w 15 11)) w_))
  | 1 => (do let w_ ← need (Width.ofCode? (fld w 10 9)); .ok (.mulh (BitVec.ofNat 5 (fld w 25 21)) (BitVec.ofNat 5 (fld w 20 16)) (BitVec.ofNat 5 (fld w 15 11)) w_))
  | 2 => (do let w_ ← need (Width.ofCode? (fld w 10 9)); .ok (.mulhu (BitVec.ofNat 5 (fld w 25 21)) (BitVec.ofNat 5 (fld w 20 16)) (BitVec.ofNat 5 (fld w 15 11)) w_))
  | 3 => (do let w_ ← need (Width.ofCode? (fld w 10 9)); .ok (.div (BitVec.ofNat 5 (fld w 25 21)) (BitVec.ofNat 5 (fld w 20 16)) (BitVec.ofNat 5 (fld w 15 11)) w_))
  | 4 => (do let w_ ← need (Width.ofCode? (fld w 10 9)); .ok (.divu (BitVec.ofNat 5 (fld w 25 21)) (BitVec.ofNat 5 (fld w 20 16)) (BitVec.ofNat 5 (fld w 15 11)) w_))
  | 5 => (do let w_ ← need (Width.ofCode? (fld w 10 9)); .ok (.rem (BitVec.ofNat 5 (fld w 25 21)) (BitVec.ofNat 5 (fld w 20 16)) (BitVec.ofNat 5 (fld w 15 11)) w_))
  | 6 => (do let w_ ← need (Width.ofCode? (fld w 10 9)); .ok (.remu (BitVec.ofNat 5 (fld w 25 21)) (BitVec.ofNat 5 (fld w 20 16)) (BitVec.ofNat 5 (fld w 15 11)) w_))
  | _ => .error .reservedFunction

/-- Major 0x03 (R60, R61). -/
def decodeMajor03 (w : Nat) : Except DecodeError Instr :=
  match fld w 8 0 with
  | 0 => zeros (fld w 15 11) (do let w_ ← need (Width.ofCode? (fld w 10 9)); .ok (.clz (BitVec.ofNat 5 (fld w 25 21)) (BitVec.ofNat 5 (fld w 20 16)) w_))
  | 1 => zeros (fld w 15 11) (do let w_ ← need (Width.ofCode? (fld w 10 9)); .ok (.ffs (BitVec.ofNat 5 (fld w 25 21)) (BitVec.ofNat 5 (fld w 20 16)) w_))
  | 2 => zeros (fld w 15 11) (do let w_ ← need (Width.ofCode? (fld w 10 9)); .ok (.popc (BitVec.ofNat 5 (fld w 25 21)) (BitVec.ofNat 5 (fld w 20 16)) w_))
  | 3 => zeros (fld w 15 11) (do let w_ ← need (Width.ofCode? (fld w 10 9)); .ok (.brev (BitVec.ofNat 5 (fld w 25 21)) (BitVec.ofNat 5 (fld w 20 16)) w_))
  | 4 => (do let w_ ← need (Width.ofCode? (fld w 10 9)); .ok (.bext (BitVec.ofNat 5 (fld w 25 21)) (BitVec.ofNat 5 (fld w 20 16)) (BitVec.ofNat 5 (fld w 15 11)) w_))
  | 5 => (do let w_ ← need (Width.ofCode? (fld w 10 9)); .ok (.bins (BitVec.ofNat 5 (fld w 25 21)) (BitVec.ofNat 5 (fld w 20 16)) (BitVec.ofNat 5 (fld w 15 11)) w_))
  | 6 => (do let w_ ← need (Width.ofCode? (fld w 10 9)); .ok (.sext (BitVec.ofNat 5 (fld w 25 21)) (BitVec.ofNat 5 (fld w 20 16)) (BitVec.ofNat 5 (fld w 15 11)) w_))
  | _ => .error .reservedFunction

/-- Major 0x04 (R60, R61). -/
def decodeMajor04 (w : Nat) : Except DecodeError Instr :=
  .ok (.addi (BitVec.ofNat 5 (fld w 25 21)) (BitVec.ofNat 5 (fld w 20 16)) (BitVec.ofNat 16 (fld w 15 0)))

/-- Major 0x05 (R60, R61). -/
def decodeMajor05 (w : Nat) : Except DecodeError Instr :=
  .ok (.andi (BitVec.ofNat 5 (fld w 25 21)) (BitVec.ofNat 5 (fld w 20 16)) (BitVec.ofNat 16 (fld w 15 0)))

/-- Major 0x06 (R60, R61). -/
def decodeMajor06 (w : Nat) : Except DecodeError Instr :=
  .ok (.ori (BitVec.ofNat 5 (fld w 25 21)) (BitVec.ofNat 5 (fld w 20 16)) (BitVec.ofNat 16 (fld w 15 0)))

/-- Major 0x07 (R60, R61). -/
def decodeMajor07 (w : Nat) : Except DecodeError Instr :=
  .ok (.xori (BitVec.ofNat 5 (fld w 25 21)) (BitVec.ofNat 5 (fld w 20 16)) (BitVec.ofNat 16 (fld w 15 0)))

/-- Major 0x08 (R60, R61). -/
def decodeMajor08 (w : Nat) : Except DecodeError Instr :=
  .ok (.slti (BitVec.ofNat 5 (fld w 25 21)) (BitVec.ofNat 5 (fld w 20 16)) (BitVec.ofNat 16 (fld w 15 0)))

/-- Major 0x09 (R60, R61). -/
def decodeMajor09 (w : Nat) : Except DecodeError Instr :=
  .ok (.sethi (BitVec.ofNat 5 (fld w 25 21)) (BitVec.ofNat 5 (fld w 20 16)) (BitVec.ofNat 16 (fld w 15 0)))

/-- Major 0x0A (R60, R61). -/
def decodeMajor0A (w : Nat) : Except DecodeError Instr :=
  match fld w 15 14 with
  | 0 => zeros (fld w 13 6) (.ok (.slli (BitVec.ofNat 5 (fld w 25 21)) (BitVec.ofNat 5 (fld w 20 16)) (BitVec.ofNat 6 (fld w 5 0))))
  | 1 => zeros (fld w 13 6) (.ok (.srli (BitVec.ofNat 5 (fld w 25 21)) (BitVec.ofNat 5 (fld w 20 16)) (BitVec.ofNat 6 (fld w 5 0))))
  | 2 => zeros (fld w 13 6) (.ok (.srai (BitVec.ofNat 5 (fld w 25 21)) (BitVec.ofNat 5 (fld w 20 16)) (BitVec.ofNat 6 (fld w 5 0))))
  | _ => .error .reservedFunction

/-- Major 0x0D (R60, R61). -/
def decodeMajor0D (w : Nat) : Except DecodeError Instr :=
  zeros (fld w 5 0) (.ok (.sel (BitVec.ofNat 5 (fld w 25 21)) (BitVec.ofNat 5 (fld w 20 16)) (BitVec.ofNat 5 (fld w 15 11)) (BitVec.ofNat 5 (fld w 10 6))))

/-- Major 0x0E (R60, R61). -/
def decodeMajor0E (w : Nat) : Except DecodeError Instr :=
  match fld w 7 0 with
  | 0 => zeros (fld w 10 10) (do let f_ ← need (FFmt.ofCode? (fld w 9 8)); .ok (.fadd (BitVec.ofNat 5 (fld w 25 21)) (BitVec.ofNat 5 (fld w 20 16)) (BitVec.ofNat 5 (fld w 15 11)) f_))
  | 1 => zeros (fld w 10 10) (do let f_ ← need (FFmt.ofCode? (fld w 9 8)); .ok (.fsub (BitVec.ofNat 5 (fld w 25 21)) (BitVec.ofNat 5 (fld w 20 16)) (BitVec.ofNat 5 (fld w 15 11)) f_))
  | 2 => zeros (fld w 10 10) (do let f_ ← need (FFmt.ofCode? (fld w 9 8)); .ok (.fmul (BitVec.ofNat 5 (fld w 25 21)) (BitVec.ofNat 5 (fld w 20 16)) (BitVec.ofNat 5 (fld w 15 11)) f_))
  | 3 => zeros (fld w 10 10) (do let f_ ← need (FFmt.ofCode? (fld w 9 8)); .ok (.fmin (BitVec.ofNat 5 (fld w 25 21)) (BitVec.ofNat 5 (fld w 20 16)) (BitVec.ofNat 5 (fld w 15 11)) f_))
  | 4 => zeros (fld w 10 10) (do let f_ ← need (FFmt.ofCode? (fld w 9 8)); .ok (.fmax (BitVec.ofNat 5 (fld w 25 21)) (BitVec.ofNat 5 (fld w 20 16)) (BitVec.ofNat 5 (fld w 15 11)) f_))
  | 16 => zeros (fld w 10 10) (do let f_ ← need (FFmt.ofCode? (fld w 9 8)); .ok (.fcmpEq (BitVec.ofNat 5 (fld w 25 21)) (BitVec.ofNat 5 (fld w 20 16)) (BitVec.ofNat 5 (fld w 15 11)) f_))
  | 17 => zeros (fld w 10 10) (do let f_ ← need (FFmt.ofCode? (fld w 9 8)); .ok (.fcmpNe (BitVec.ofNat 5 (fld w 25 21)) (BitVec.ofNat 5 (fld w 20 16)) (BitVec.ofNat 5 (fld w 15 11)) f_))
  | 18 => zeros (fld w 10 10) (do let f_ ← need (FFmt.ofCode? (fld w 9 8)); .ok (.fcmpLt (BitVec.ofNat 5 (fld w 25 21)) (BitVec.ofNat 5 (fld w 20 16)) (BitVec.ofNat 5 (fld w 15 11)) f_))
  | 19 => zeros (fld w 10 10) (do let f_ ← need (FFmt.ofCode? (fld w 9 8)); .ok (.fcmpLe (BitVec.ofNat 5 (fld w 25 21)) (BitVec.ofNat 5 (fld w 20 16)) (BitVec.ofNat 5 (fld w 15 11)) f_))
  | 20 => zeros (fld w 10 10) (do let f_ ← need (FFmt.ofCode? (fld w 9 8)); .ok (.fcmpUn (BitVec.ofNat 5 (fld w 25 21)) (BitVec.ofNat 5 (fld w 20 16)) (BitVec.ofNat 5 (fld w 15 11)) f_))
  | _ => .error .reservedFunction

/-- Major 0x0F (R60, R61). -/
def decodeMajor0F (w : Nat) : Except DecodeError Instr :=
  match fld w 3 0 with
  | 0 => (do let f_ ← need (FFmt.ofCode? (fld w 5 4)); .ok (.ffma (BitVec.ofNat 5 (fld w 25 21)) (BitVec.ofNat 5 (fld w 20 16)) (BitVec.ofNat 5 (fld w 15 11)) (BitVec.ofNat 5 (fld w 10 6)) f_))
  | 1 => zeros (fld w 4 4) (.ok (.fcvt (BitVec.ofNat 5 (fld w 25 21)) (BitVec.ofNat 5 (fld w 20 16)) (BitVec.ofNat 5 (fld w 15 11)) (BitVec.ofNat 5 (fld w 10 6)) (bitOf (fld w 5 5))))
  | _ => .error .reservedFunction

/-- Major 0x10 (R60, R61). -/
def decodeMajor10 (w : Nat) : Except DecodeError Instr :=
  (do let c_ ← need (BrCond.ofCode? (fld w 15 13)); .ok (.br (BitVec.ofNat 5 (fld w 25 21)) (BitVec.ofNat 5 (fld w 20 16)) c_ (BitVec.ofNat 13 (fld w 12 0))))

/-- Major 0x11 (R60, R61). -/
def decodeMajor11 (w : Nat) : Except DecodeError Instr :=
  .ok (.jal (BitVec.ofNat 26 (fld w 25 0)))

/-- Major 0x12 (R60, R61). -/
def decodeMajor12 (w : Nat) : Except DecodeError Instr :=
  .ok (.jalr (BitVec.ofNat 5 (fld w 25 21)) (BitVec.ofNat 5 (fld w 20 16)) (BitVec.ofNat 16 (fld w 15 0)))

/-- Major 0x13 (R60, R61). -/
def decodeMajor13 (w : Nat) : Except DecodeError Instr :=
  match fld w 25 0 with
  | 0 => .ok .nop
  | 1 => .ok .endStrand
  | _ => .error .reservedFunction

/-- Major 0x14 (R60, R61). -/
def decodeMajor14 (w : Nat) : Except DecodeError Instr :=
  zeros (fld w 15 13) (do let s_ ← need (LoadSize.ofCode? (fld w 12 10)); .ok (.lds (BitVec.ofNat 5 (fld w 25 21)) (BitVec.ofNat 5 (fld w 20 16)) s_ (BitVec.ofNat 10 (fld w 9 0))))

/-- Major 0x15 (R60, R61). -/
def decodeMajor15 (w : Nat) : Except DecodeError Instr :=
  zeros (fld w 15 13) (do let s_ ← need (Width.ofCode? (fld w 12 10)); .ok (.sts (BitVec.ofNat 5 (fld w 25 21)) (BitVec.ofNat 5 (fld w 20 16)) s_ (BitVec.ofNat 10 (fld w 9 0))))

/-- Major 0x16 (R60, R61). -/
def decodeMajor16 (w : Nat) : Except DecodeError Instr :=
  (do let p_ ← need (Scope.ofCode? (fld w 12 10)); let z_ ← need (Width.ofCode? (fld w 9 8)); .ok (.ld (BitVec.ofNat 5 (fld w 25 21)) (BitVec.ofNat 5 (fld w 20 16)) (BitVec.ofNat 3 (fld w 15 13)) p_ z_ (bitOf (fld w 7 7)) (bitOf (fld w 6 6)) (BitVec.ofNat 6 (fld w 5 0))))

/-- Major 0x17 (R60, R61). -/
def decodeMajor17 (w : Nat) : Except DecodeError Instr :=
  zeros (fld w 7 7) (do let p_ ← need (Scope.ofCode? (fld w 12 10)); let z_ ← need (Width.ofCode? (fld w 9 8)); .ok (.st (BitVec.ofNat 5 (fld w 25 21)) (BitVec.ofNat 5 (fld w 20 16)) (BitVec.ofNat 3 (fld w 15 13)) p_ z_ (bitOf (fld w 6 6)) (BitVec.ofNat 6 (fld w 5 0))))

/-- Major 0x18 (R60, R61). -/
def decodeMajor18 (w : Nat) : Except DecodeError Instr :=
  (do let o_ ← need (AmoOp.ofCode? (fld w 10 7)); let p_ ← need (Scope.ofCode? (fld w 2 0)); .ok (.amo (BitVec.ofNat 5 (fld w 25 21)) (BitVec.ofNat 5 (fld w 20 16)) (BitVec.ofNat 5 (fld w 15 11)) o_ (bitOf (fld w 6 6)) (BitVec.ofNat 3 (fld w 5 3)) p_))

/-- Major 0x19 (R60, R61). -/
def decodeMajor19 (w : Nat) : Except DecodeError Instr :=
  zeros (fld w 10 7) (do let p_ ← need (Scope.ofCode? (fld w 2 0)); .ok (.cas (BitVec.ofNat 5 (fld w 25 21)) (BitVec.ofNat 5 (fld w 20 16)) (BitVec.ofNat 5 (fld w 15 11)) (bitOf (fld w 6 6)) (BitVec.ofNat 3 (fld w 5 3)) p_))

/-- Major 0x1A (R60, R61). -/
def decodeMajor1A (w : Nat) : Except DecodeError Instr :=
  zeros (fld w 25 21) (do let o_ ← need (AmoOp.ofCode? (fld w 10 7)); let p_ ← need (Scope.ofCode? (fld w 2 0)); .ok (.red (BitVec.ofNat 5 (fld w 20 16)) (BitVec.ofNat 5 (fld w 15 11)) o_ (bitOf (fld w 6 6)) (BitVec.ofNat 3 (fld w 5 3)) p_))

/-- Major 0x1B (R60, R61). -/
def decodeMajor1B (w : Nat) : Except DecodeError Instr :=
  match fld w 25 21 with
  | 0 => zeros (fld w 4 0) (do let p_ ← need (Scope.ofCode? (fld w 7 5)); .ok (.fence (BitVec.ofNat 5 (fld w 20 16)) (BitVec.ofNat 8 (fld w 15 8)) p_))
  | 1 => zeros (fld w 4 0) (zeros (fld w 15 8) (do let p_ ← need (Scope.ofCode? (fld w 7 5)); .ok (.promote (BitVec.ofNat 5 (fld w 20 16)) p_)))
  | _ => .error .reservedFunction

/-- Major 0x1C (R60, R61). -/
def decodeMajor1C (w : Nat) : Except DecodeError Instr :=
  zeros (fld w 5 0) (.ok (.hash (BitVec.ofNat 5 (fld w 25 21)) (BitVec.ofNat 5 (fld w 20 16)) (BitVec.ofNat 5 (fld w 15 11)) (BitVec.ofNat 5 (fld w 10 6))))

/-- Major 0x1D (R60, R61). -/
def decodeMajor1D (w : Nat) : Except DecodeError Instr :=
  match fld w 10 6 with
  | 0 => zeros (fld w 5 0) (.ok (.claim (BitVec.ofNat 5 (fld w 25 21)) (BitVec.ofNat 5 (fld w 20 16)) (BitVec.ofNat 5 (fld w 15 11))))
  | 1 => zeros (fld w 5 0) (.ok (.cfulfil (BitVec.ofNat 5 (fld w 25 21)) (BitVec.ofNat 5 (fld w 20 16)) (BitVec.ofNat 5 (fld w 15 11))))
  | 2 => zeros (fld w 5 0) (zeros (fld w 15 11) (.ok (.cabandon (BitVec.ofNat 5 (fld w 25 21)) (BitVec.ofNat 5 (fld w 20 16)))))
  | 3 => zeros (fld w 5 0) (.ok (.cpin (BitVec.ofNat 5 (fld w 25 21)) (BitVec.ofNat 5 (fld w 20 16)) (BitVec.ofNat 5 (fld w 15 11))))
  | 4 => zeros (fld w 5 0) (.ok (.cunpin (BitVec.ofNat 5 (fld w 25 21)) (BitVec.ofNat 5 (fld w 20 16)) (BitVec.ofNat 5 (fld w 15 11))))
  | _ => .error .reservedFunction

/-- Major 0x1E (R60, R61). -/
def decodeMajor1E (w : Nat) : Except DecodeError Instr :=
  match fld w 10 0 with
  | 0 => zeros (fld w 15 13) (.ok (.qstat (BitVec.ofNat 5 (fld w 25 21)) (BitVec.ofNat 5 (fld w 20 16)) (BitVec.ofNat 2 (fld w 12 11))))
  | 1 => zeros (fld w 15 13) (.ok (.qdrain (BitVec.ofNat 5 (fld w 25 21)) (BitVec.ofNat 5 (fld w 20 16)) (BitVec.ofNat 2 (fld w 12 11))))
  | _ => .error .reservedFunction

/-- Major 0x1F (R60, R61). -/
def decodeMajor1F (w : Nat) : Except DecodeError Instr :=
  match fld w 10 0 with
  | 0 => zeros (fld w 25 21) (.ok (.signal (BitVec.ofNat 5 (fld w 20 16)) (BitVec.ofNat 5 (fld w 15 11))))
  | 1 => zeros (fld w 20 11) (.ok (.waitch (BitVec.ofNat 5 (fld w 25 21))))
  | 2 => zeros (fld w 15 11) (zeros (fld w 25 21) (.ok (.block (BitVec.ofNat 5 (fld w 20 16)))))
  | 3 => zeros (fld w 15 11) (zeros (fld w 25 21) (.ok (.unblock (BitVec.ofNat 5 (fld w 20 16)))))
  | _ => .error .reservedFunction

/-- Major 0x20 (R60, R61). -/
def decodeMajor20 (w : Nat) : Except DecodeError Instr :=
  match fld w 5 0 with
  | 0 => (do let w_ ← need (Width.ofCode? (fld w 7 6)); .ok (.vadd (BitVec.ofNat 5 (fld w 25 21)) (BitVec.ofNat 5 (fld w 20 16)) (BitVec.ofNat 5 (fld w 15 11)) (BitVec.ofNat 3 (fld w 10 8)) w_))
  | 1 => (do let w_ ← need (Width.ofCode? (fld w 7 6)); .ok (.vsub (BitVec.ofNat 5 (fld w 25 21)) (BitVec.ofNat 5 (fld w 20 16)) (BitVec.ofNat 5 (fld w 15 11)) (BitVec.ofNat 3 (fld w 10 8)) w_))
  | 2 => (do let w_ ← need (Width.ofCode? (fld w 7 6)); .ok (.vmul (BitVec.ofNat 5 (fld w 25 21)) (BitVec.ofNat 5 (fld w 20 16)) (BitVec.ofNat 5 (fld w 15 11)) (BitVec.ofNat 3 (fld w 10 8)) w_))
  | 3 => (do let w_ ← need (Width.ofCode? (fld w 7 6)); .ok (.vmulh (BitVec.ofNat 5 (fld w 25 21)) (BitVec.ofNat 5 (fld w 20 16)) (BitVec.ofNat 5 (fld w 15 11)) (BitVec.ofNat 3 (fld w 10 8)) w_))
  | 4 => (do let w_ ← need (Width.ofCode? (fld w 7 6)); .ok (.vmin (BitVec.ofNat 5 (fld w 25 21)) (BitVec.ofNat 5 (fld w 20 16)) (BitVec.ofNat 5 (fld w 15 11)) (BitVec.ofNat 3 (fld w 10 8)) w_))
  | 5 => (do let w_ ← need (Width.ofCode? (fld w 7 6)); .ok (.vmax (BitVec.ofNat 5 (fld w 25 21)) (BitVec.ofNat 5 (fld w 20 16)) (BitVec.ofNat 5 (fld w 15 11)) (BitVec.ofNat 3 (fld w 10 8)) w_))
  | 6 => zeros (fld w 15 11) (do let w_ ← need (Width.ofCode? (fld w 7 6)); .ok (.vabs (BitVec.ofNat 5 (fld w 25 21)) (BitVec.ofNat 5 (fld w 20 16)) (BitVec.ofNat 3 (fld w 10 8)) w_))
  | 7 => zeros (fld w 15 11) (do let w_ ← need (Width.ofCode? (fld w 7 6)); .ok (.vneg (BitVec.ofNat 5 (fld w 25 21)) (BitVec.ofNat 5 (fld w 20 16)) (BitVec.ofNat 3 (fld w 10 8)) w_))
  | _ => .error .reservedFunction

/-- Major 0x21 (R60, R61). -/
def decodeMajor21 (w : Nat) : Except DecodeError Instr :=
  match fld w 5 0 with
  | 0 => (do let w_ ← need (Width.ofCode? (fld w 7 6)); .ok (.vand (BitVec.ofNat 5 (fld w 25 21)) (BitVec.ofNat 5 (fld w 20 16)) (BitVec.ofNat 5 (fld w 15 11)) (BitVec.ofNat 3 (fld w 10 8)) w_))
  | 1 => (do let w_ ← need (Width.ofCode? (fld w 7 6)); .ok (.vor (BitVec.ofNat 5 (fld w 25 21)) (BitVec.ofNat 5 (fld w 20 16)) (BitVec.ofNat 5 (fld w 15 11)) (BitVec.ofNat 3 (fld w 10 8)) w_))
  | 2 => (do let w_ ← need (Width.ofCode? (fld w 7 6)); .ok (.vxor (BitVec.ofNat 5 (fld w 25 21)) (BitVec.ofNat 5 (fld w 20 16)) (BitVec.ofNat 5 (fld w 15 11)) (BitVec.ofNat 3 (fld w 10 8)) w_))
  | 3 => (do let w_ ← need (Width.ofCode? (fld w 7 6)); .ok (.vsll (BitVec.ofNat 5 (fld w 25 21)) (BitVec.ofNat 5 (fld w 20 16)) (BitVec.ofNat 5 (fld w 15 11)) (BitVec.ofNat 3 (fld w 10 8)) w_))
  | 4 => (do let w_ ← need (Width.ofCode? (fld w 7 6)); .ok (.vsrl (BitVec.ofNat 5 (fld w 25 21)) (BitVec.ofNat 5 (fld w 20 16)) (BitVec.ofNat 5 (fld w 15 11)) (BitVec.ofNat 3 (fld w 10 8)) w_))
  | 5 => (do let w_ ← need (Width.ofCode? (fld w 7 6)); .ok (.vsra (BitVec.ofNat 5 (fld w 25 21)) (BitVec.ofNat 5 (fld w 20 16)) (BitVec.ofNat 5 (fld w 15 11)) (BitVec.ofNat 3 (fld w 10 8)) w_))
  | 6 => zeros (fld w 15 11) (do let w_ ← need (Width.ofCode? (fld w 7 6)); .ok (.vclz (BitVec.ofNat 5 (fld w 25 21)) (BitVec.ofNat 5 (fld w 20 16)) (BitVec.ofNat 3 (fld w 10 8)) w_))
  | 7 => zeros (fld w 15 11) (do let w_ ← need (Width.ofCode? (fld w 7 6)); .ok (.vffs (BitVec.ofNat 5 (fld w 25 21)) (BitVec.ofNat 5 (fld w 20 16)) (BitVec.ofNat 3 (fld w 10 8)) w_))
  | 8 => zeros (fld w 15 11) (do let w_ ← need (Width.ofCode? (fld w 7 6)); .ok (.vpopc (BitVec.ofNat 5 (fld w 25 21)) (BitVec.ofNat 5 (fld w 20 16)) (BitVec.ofNat 3 (fld w 10 8)) w_))
  | _ => .error .reservedFunction

/-- Major 0x22 (R60, R61). -/
def decodeMajor22 (w : Nat) : Except DecodeError Instr :=
  match fld w 4 0 with
  | 0 => (do let w_ ← need (Width.ofCode? (fld w 7 6)); .ok (.vaddF (BitVec.ofNat 5 (fld w 25 21)) (BitVec.ofNat 5 (fld w 20 16)) (BitVec.ofNat 5 (fld w 15 11)) (BitVec.ofNat 3 (fld w 10 8)) w_ (bitOf (fld w 5 5))))
  | 1 => (do let w_ ← need (Width.ofCode? (fld w 7 6)); .ok (.vsubF (BitVec.ofNat 5 (fld w 25 21)) (BitVec.ofNat 5 (fld w 20 16)) (BitVec.ofNat 5 (fld w 15 11)) (BitVec.ofNat 3 (fld w 10 8)) w_ (bitOf (fld w 5 5))))
  | 2 => (do let w_ ← need (Width.ofCode? (fld w 7 6)); .ok (.vmulF (BitVec.ofNat 5 (fld w 25 21)) (BitVec.ofNat 5 (fld w 20 16)) (BitVec.ofNat 5 (fld w 15 11)) (BitVec.ofNat 3 (fld w 10 8)) w_ (bitOf (fld w 5 5))))
  | 3 => (do let w_ ← need (Width.ofCode? (fld w 7 6)); .ok (.vminF (BitVec.ofNat 5 (fld w 25 21)) (BitVec.ofNat 5 (fld w 20 16)) (BitVec.ofNat 5 (fld w 15 11)) (BitVec.ofNat 3 (fld w 10 8)) w_ (bitOf (fld w 5 5))))
  | 4 => (do let w_ ← need (Width.ofCode? (fld w 7 6)); .ok (.vmaxF (BitVec.ofNat 5 (fld w 25 21)) (BitVec.ofNat 5 (fld w 20 16)) (BitVec.ofNat 5 (fld w 15 11)) (BitVec.ofNat 3 (fld w 10 8)) w_ (bitOf (fld w 5 5))))
  | 5 => zeros (fld w 15 11) (do let w_ ← need (Width.ofCode? (fld w 7 6)); .ok (.vabsF (BitVec.ofNat 5 (fld w 25 21)) (BitVec.ofNat 5 (fld w 20 16)) (BitVec.ofNat 3 (fld w 10 8)) w_ (bitOf (fld w 5 5))))
  | 6 => zeros (fld w 15 11) (do let w_ ← need (Width.ofCode? (fld w 7 6)); .ok (.vnegF (BitVec.ofNat 5 (fld w 25 21)) (BitVec.ofNat 5 (fld w 20 16)) (BitVec.ofNat 3 (fld w 10 8)) w_ (bitOf (fld w 5 5))))
  | 7 => (do let w_ ← need (Width.ofCode? (fld w 7 6)); .ok (.vfma (BitVec.ofNat 5 (fld w 25 21)) (BitVec.ofNat 5 (fld w 20 16)) (BitVec.ofNat 5 (fld w 15 11)) (BitVec.ofNat 3 (fld w 10 8)) w_ (bitOf (fld w 5 5))))
  | 8 => (do let w_ ← need (Width.ofCode? (fld w 7 6)); .ok (.vfms (BitVec.ofNat 5 (fld w 25 21)) (BitVec.ofNat 5 (fld w 20 16)) (BitVec.ofNat 5 (fld w 15 11)) (BitVec.ofNat 3 (fld w 10 8)) w_ (bitOf (fld w 5 5))))
  | _ => .error .reservedFunction

/-- Major 0x23 (R60, R61). -/
def decodeMajor23 (w : Nat) : Except DecodeError Instr :=
  zeros (fld w 25 24) (do let w_ ← need (Width.ofCode? (fld w 7 6)); let c_ ← need (VCond.ofCode? (fld w 3 0)); .ok (.vcmp (BitVec.ofNat 3 (fld w 23 21)) (BitVec.ofNat 5 (fld w 20 16)) (BitVec.ofNat 5 (fld w 15 11)) (BitVec.ofNat 3 (fld w 10 8)) w_ (bitOf (fld w 5 5)) (bitOf (fld w 4 4)) c_))

/-- Major 0x24 (R60, R61). -/
def decodeMajor24 (w : Nat) : Except DecodeError Instr :=
  match fld w 5 0 with
  | 0 => (do let w_ ← need (Width.ofCode? (fld w 7 6)); .ok (.vsel (BitVec.ofNat 5 (fld w 25 21)) (BitVec.ofNat 5 (fld w 20 16)) (BitVec.ofNat 5 (fld w 15 11)) (BitVec.ofNat 3 (fld w 10 8)) w_))
  | 1 => zeros (fld w 15 11) (do let w_ ← need (Width.ofCode? (fld w 7 6)); .ok (.vbcast (BitVec.ofNat 5 (fld w 25 21)) (BitVec.ofNat 5 (fld w 20 16)) (BitVec.ofNat 3 (fld w 10 8)) w_))
  | 2 => zeros (fld w 10 8) (do let w_ ← need (Width.ofCode? (fld w 7 6)); .ok (.vextr (BitVec.ofNat 5 (fld w 25 21)) (BitVec.ofNat 5 (fld w 20 16)) (BitVec.ofNat 5 (fld w 15 11)) w_))
  | 3 => zeros (fld w 20 11) (do let w_ ← need (Width.ofCode? (fld w 7 6)); .ok (.viota (BitVec.ofNat 5 (fld w 25 21)) (BitVec.ofNat 3 (fld w 10 8)) w_))
  | 4 => (do let w_ ← need (Width.ofCode? (fld w 7 6)); .ok (.vperm (BitVec.ofNat 5 (fld w 25 21)) (BitVec.ofNat 5 (fld w 20 16)) (BitVec.ofNat 5 (fld w 15 11)) (BitVec.ofNat 3 (fld w 10 8)) w_))
  | 5 => (do let w_ ← need (Width.ofCode? (fld w 7 6)); .ok (.vscl (BitVec.ofNat 5 (fld w 25 21)) (BitVec.ofNat 5 (fld w 20 16)) (BitVec.ofNat 5 (fld w 15 11)) (BitVec.ofNat 3 (fld w 10 8)) w_))
  | _ => .error .reservedFunction

/-- Major 0x25 (R60, R61). -/
def decodeMajor25 (w : Nat) : Except DecodeError Instr :=
  zeros (fld w 1 0) (.ok (.vcvt (BitVec.ofNat 5 (fld w 25 21)) (BitVec.ofNat 5 (fld w 20 16)) (BitVec.ofNat 5 (fld w 15 11)) (BitVec.ofNat 5 (fld w 10 6)) (bitOf (fld w 5 5)) (BitVec.ofNat 3 (fld w 4 2))))

/-- Major 0x26 (R60, R61). -/
def decodeMajor26 (w : Nat) : Except DecodeError Instr :=
  match fld w 3 3 with
  | 0 => zeros (fld w 15 11) (do let w_ ← need (Width.ofCode? (fld w 7 6)); let o_ ← need (ROp.ofCode? (fld w 2 0)); .ok (.vred (BitVec.ofNat 5 (fld w 25 21)) (BitVec.ofNat 5 (fld w 20 16)) (BitVec.ofNat 3 (fld w 10 8)) w_ (bitOf (fld w 5 5)) (bitOf (fld w 4 4)) o_))
  | 1 => zeros (fld w 15 11) (do let w_ ← need (Width.ofCode? (fld w 7 6)); let o_ ← need (ROp.ofCode? (fld w 2 0)); .ok (.vscan (BitVec.ofNat 5 (fld w 25 21)) (BitVec.ofNat 5 (fld w 20 16)) (BitVec.ofNat 3 (fld w 10 8)) w_ (bitOf (fld w 5 5)) (bitOf (fld w 4 4)) o_))
  | _ => .error .reservedFunction

/-- Major 0x27 (R60, R61). -/
def decodeMajor27 (w : Nat) : Except DecodeError Instr :=
  match fld w 5 0 with
  | 0 => zeros (fld w 15 11) (do let w_ ← need (Width.ofCode? (fld w 7 6)); .ok (.vexp2 (BitVec.ofNat 5 (fld w 25 21)) (BitVec.ofNat 5 (fld w 20 16)) (BitVec.ofNat 3 (fld w 10 8)) w_))
  | 1 => zeros (fld w 15 11) (do let w_ ← need (Width.ofCode? (fld w 7 6)); .ok (.vlog2 (BitVec.ofNat 5 (fld w 25 21)) (BitVec.ofNat 5 (fld w 20 16)) (BitVec.ofNat 3 (fld w 10 8)) w_))
  | 2 => zeros (fld w 15 11) (do let w_ ← need (Width.ofCode? (fld w 7 6)); .ok (.vrcp (BitVec.ofNat 5 (fld w 25 21)) (BitVec.ofNat 5 (fld w 20 16)) (BitVec.ofNat 3 (fld w 10 8)) w_))
  | 3 => zeros (fld w 15 11) (do let w_ ← need (Width.ofCode? (fld w 7 6)); .ok (.vrsq (BitVec.ofNat 5 (fld w 25 21)) (BitVec.ofNat 5 (fld w 20 16)) (BitVec.ofNat 3 (fld w 10 8)) w_))
  | 4 => zeros (fld w 15 11) (do let w_ ← need (Width.ofCode? (fld w 7 6)); .ok (.vtanh (BitVec.ofNat 5 (fld w 25 21)) (BitVec.ofNat 5 (fld w 20 16)) (BitVec.ofNat 3 (fld w 10 8)) w_))
  | _ => .error .reservedFunction

/-- Major 0x28 (R60, R61). -/
def decodeMajor28 (w : Nat) : Except DecodeError Instr :=
  match fld w 5 0 with
  | 0 => zeros (fld w 10 6) (zeros (fld w 15 14) (zeros (fld w 20 19) (zeros (fld w 25 24) (.ok (.kand (BitVec.ofNat 3 (fld w 23 21)) (BitVec.ofNat 3 (fld w 18 16)) (BitVec.ofNat 3 (fld w 13 11)))))))
  | 1 => zeros (fld w 10 6) (zeros (fld w 15 14) (zeros (fld w 20 19) (zeros (fld w 25 24) (.ok (.kor (BitVec.ofNat 3 (fld w 23 21)) (BitVec.ofNat 3 (fld w 18 16)) (BitVec.ofNat 3 (fld w 13 11)))))))
  | 2 => zeros (fld w 15 6) (zeros (fld w 20 19) (zeros (fld w 25 24) (.ok (.knot (BitVec.ofNat 3 (fld w 23 21)) (BitVec.ofNat 3 (fld w 18 16))))))
  | 3 => zeros (fld w 15 6) (zeros (fld w 20 19) (.ok (.kpopc (BitVec.ofNat 5 (fld w 25 21)) (BitVec.ofNat 3 (fld w 18 16)))))
  | _ => .error .reservedFunction

/-- Major 0x2E (R60, R61). -/
def decodeMajor2E (w : Nat) : Except DecodeError Instr :=
  match fld w 9 8 with
  | 0 => zeros (fld w 7 6) (zeros (fld w 15 10) (.ok (.vlds (BitVec.ofNat 5 (fld w 25 21)) (BitVec.ofNat 5 (fld w 20 16)) (BitVec.ofNat 6 (fld w 5 0)))))
  | 1 => zeros (fld w 15 10) (do let w_ ← need (Width.ofCode? (fld w 7 6)); .ok (.vldt (BitVec.ofNat 5 (fld w 25 21)) (BitVec.ofNat 5 (fld w 20 16)) w_ (BitVec.ofNat 6 (fld w 5 0))))
  | 2 => zeros (fld w 7 6) (do let p_ ← need (Scope.ofCode? (fld w 12 10)); .ok (.vld (BitVec.ofNat 5 (fld w 25 21)) (BitVec.ofNat 5 (fld w 20 16)) (BitVec.ofNat 3 (fld w 15 13)) p_ (bitOf (fld w 8 8)) (BitVec.ofNat 6 (fld w 5 0))))
  | 3 => zeros (fld w 7 6) (do let p_ ← need (Scope.ofCode? (fld w 12 10)); .ok (.vld (BitVec.ofNat 5 (fld w 25 21)) (BitVec.ofNat 5 (fld w 20 16)) (BitVec.ofNat 3 (fld w 15 13)) p_ (bitOf (fld w 8 8)) (BitVec.ofNat 6 (fld w 5 0))))
  | _ => .error .reservedFunction

/-- Major 0x2F (R60, R61). -/
def decodeMajor2F (w : Nat) : Except DecodeError Instr :=
  match fld w 9 8 with
  | 0 => zeros (fld w 7 6) (zeros (fld w 15 10) (.ok (.vsts (BitVec.ofNat 5 (fld w 25 21)) (BitVec.ofNat 5 (fld w 20 16)) (BitVec.ofNat 6 (fld w 5 0)))))
  | 2 => zeros (fld w 7 6) (do let p_ ← need (Scope.ofCode? (fld w 12 10)); .ok (.vst (BitVec.ofNat 5 (fld w 25 21)) (BitVec.ofNat 5 (fld w 20 16)) (BitVec.ofNat 3 (fld w 15 13)) p_ (bitOf (fld w 8 8)) (BitVec.ofNat 6 (fld w 5 0))))
  | 3 => zeros (fld w 7 6) (do let p_ ← need (Scope.ofCode? (fld w 12 10)); .ok (.vst (BitVec.ofNat 5 (fld w 25 21)) (BitVec.ofNat 5 (fld w 20 16)) (BitVec.ofNat 3 (fld w 15 13)) p_ (bitOf (fld w 8 8)) (BitVec.ofNat 6 (fld w 5 0))))
  | _ => .error .reservedFunction

/-- Major 0x30 (R60, R61). -/
def decodeMajor30 (w : Nat) : Except DecodeError Instr :=
  zeros (fld w 4 3) (do let s_ ← need (Shape.ofCode? (fld w 9 7)); let p_ ← need (Sparsity.ofCode? (fld w 6 5)); .ok (.mma (BitVec.ofNat 3 (fld w 25 23)) (BitVec.ofNat 3 (fld w 22 20)) (BitVec.ofNat 2 (fld w 19 18)) (BitVec.ofNat 4 (fld w 17 14)) (BitVec.ofNat 4 (fld w 13 10)) s_ p_ (BitVec.ofNat 3 (fld w 2 0))))

/-- Major 0x31 (R60, R61). -/
def decodeMajor31 (w : Nat) : Except DecodeError Instr :=
  zeros (fld w 4 3) (do let s_ ← need (Shape.ofCode? (fld w 9 7)); let p_ ← need (Sparsity.ofCode? (fld w 6 5)); .ok (.mmaArm (BitVec.ofNat 3 (fld w 25 23)) (BitVec.ofNat 3 (fld w 22 20)) (BitVec.ofNat 2 (fld w 19 18)) (BitVec.ofNat 4 (fld w 17 14)) (BitVec.ofNat 4 (fld w 13 10)) s_ p_ (BitVec.ofNat 3 (fld w 2 0))))

/-- Major 0x32 (R60, R61). -/
def decodeMajor32 (w : Nat) : Except DecodeError Instr :=
  match fld w 25 21 with
  | 0 => zeros (fld w 3 0) (zeros (fld w 20 6) (.ok (.mdis (BitVec.ofNat 2 (fld w 5 4)))))
  | 1 => zeros (fld w 3 0) (zeros (fld w 20 6) (.ok (.mzero (BitVec.ofNat 2 (fld w 5 4)))))
  | 2 => (do let s_ ← need (Shape.ofCode? (fld w 2 0)); .ok (.mflush (BitVec.ofNat 5 (fld w 20 16)) (BitVec.ofNat 5 (fld w 15 11)) (BitVec.ofNat 5 (fld w 10 6)) (BitVec.ofNat 2 (fld w 5 4)) (bitOf (fld w 3 3)) s_))
  | 3 => zeros (fld w 3 3) (do let s_ ← need (Shape.ofCode? (fld w 2 0)); .ok (.mload (BitVec.ofNat 5 (fld w 20 16)) (BitVec.ofNat 5 (fld w 15 11)) (BitVec.ofNat 5 (fld w 10 6)) (BitVec.ofNat 2 (fld w 5 4)) s_))
  | 4 => zeros (fld w 3 3) (do let h_ ← need (Shape.ofCode? (fld w 2 0)); .ok (.msca (BitVec.ofNat 5 (fld w 20 16)) (BitVec.ofNat 5 (fld w 15 11)) (BitVec.ofNat 2 (fld w 10 9)) (bitOf (fld w 8 8)) (bitOf (fld w 7 7)) (bitOf (fld w 6 6)) (BitVec.ofNat 2 (fld w 5 4)) h_))
  | _ => .error .reservedFunction

/-- Major 0x33 (R60, R61). -/
def decodeMajor33 (w : Nat) : Except DecodeError Instr :=
  match fld w 10 0 with
  | 0 => zeros (fld w 15 11) (zeros (fld w 25 24) (.ok (.rset (BitVec.ofNat 3 (fld w 23 21)) (BitVec.ofNat 5 (fld w 20 16)))))
  | 1 => zeros (fld w 15 11) (zeros (fld w 25 24) (.ok (.rpush (BitVec.ofNat 3 (fld w 23 21)) (BitVec.ofNat 5 (fld w 20 16)))))
  | 2 => zeros (fld w 20 19) (.ok (.rstat (BitVec.ofNat 5 (fld w 25 21)) (BitVec.ofNat 3 (fld w 18 16)) (BitVec.ofNat 5 (fld w 15 11))))
  | _ => .error .reservedFunction

/-- Major 0x34 (R60, R61). -/
def decodeMajor34 (w : Nat) : Except DecodeError Instr :=
  match fld w 10 0 with
  | 0 => zeros (fld w 15 11) (zeros (fld w 25 23) (.ok (.cset (BitVec.ofNat 2 (fld w 22 21)) (BitVec.ofNat 5 (fld w 20 16)))))
  | 1 => zeros (fld w 20 11) (zeros (fld w 25 23) (.ok (.cgo (BitVec.ofNat 2 (fld w 22 21)))))
  | 2 => zeros (fld w 20 18) (.ok (.cstat (BitVec.ofNat 5 (fld w 25 21)) (BitVec.ofNat 2 (fld w 17 16)) (BitVec.ofNat 5 (fld w 15 11))))
  | _ => .error .reservedFunction

/-- Major 0x35 (R60, R61). -/
def decodeMajor35 (w : Nat) : Except DecodeError Instr :=
  match fld w 10 0 with
  | 0 => .ok (.tswap (BitVec.ofNat 5 (fld w 25 21)) (BitVec.ofNat 5 (fld w 20 16)) (BitVec.ofNat 5 (fld w 15 11)))
  | _ => .error .reservedFunction

/-- Major 0x36 (R60, R61). -/
def decodeMajor36 (w : Nat) : Except DecodeError Instr :=
  match fld w 10 0 with
  | 0 => zeros (fld w 25 21) (.ok (.copy (BitVec.ofNat 5 (fld w 20 16)) (BitVec.ofNat 5 (fld w 15 11))))
  | 1 => zeros (fld w 25 21) (.ok (.copyc (BitVec.ofNat 5 (fld w 20 16)) (BitVec.ofNat 5 (fld w 15 11))))
  | 2 => zeros (fld w 25 21) (.ok (.mcast (BitVec.ofNat 5 (fld w 20 16)) (BitVec.ofNat 5 (fld w 15 11))))
  | _ => .error .reservedFunction

/-- Major 0x37 (R60, R61). -/
def decodeMajor37 (w : Nat) : Except DecodeError Instr :=
  match fld w 10 0 with
  | 0 => zeros (fld w 15 11) (.ok (.sopen (BitVec.ofNat 5 (fld w 25 21)) (BitVec.ofNat 5 (fld w 20 16))))
  | 1 => zeros (fld w 15 11) (zeros (fld w 25 21) (.ok (.sclose (BitVec.ofNat 5 (fld w 20 16)))))
  | 2 => .ok (.scfg (BitVec.ofNat 5 (fld w 25 21)) (BitVec.ofNat 5 (fld w 20 16)) (BitVec.ofNat 5 (fld w 15 11)))
  | _ => .error .reservedFunction

/-- Major 0x38 (R60, R61). -/
def decodeMajor38 (w : Nat) : Except DecodeError Instr :=
  match fld w 10 0 with
  | 0 => zeros (fld w 25 21) (.ok (.binit (BitVec.ofNat 5 (fld w 20 16)) (BitVec.ofNat 5 (fld w 15 11))))
  | 1 => zeros (fld w 25 21) (.ok (.bexpect (BitVec.ofNat 5 (fld w 20 16)) (BitVec.ofNat 5 (fld w 15 11))))
  | 2 => zeros (fld w 15 11) (zeros (fld w 25 21) (.ok (.barrive (BitVec.ofNat 5 (fld w 20 16)))))
  | 3 => .ok (.bwait (BitVec.ofNat 5 (fld w 25 21)) (BitVec.ofNat 5 (fld w 20 16)) (BitVec.ofNat 5 (fld w 15 11)))
  | 4 => zeros (fld w 15 11) (.ok (.btest (BitVec.ofNat 5 (fld w 25 21)) (BitVec.ofNat 5 (fld w 20 16))))
  | _ => .error .reservedFunction

/-- Major 0x39 (R60, R61). -/
def decodeMajor39 (w : Nat) : Except DecodeError Instr :=
  match fld w 10 0 with
  | 0 => zeros (fld w 15 11) (.ok (.fcfg (BitVec.ofNat 5 (fld w 25 21)) (BitVec.ofNat 5 (fld w 20 16))))
  | 1 => zeros (fld w 15 11) (zeros (fld w 25 21) (.ok (.frun (BitVec.ofNat 5 (fld w 20 16)))))
  | 2 => zeros (fld w 20 11) (.ok (.fstat (BitVec.ofNat 5 (fld w 25 21))))
  | _ => .error .reservedFunction

/-- Major 0x3B (R60, R61). -/
def decodeMajor3B (w : Nat) : Except DecodeError Instr :=
  match fld w 10 0 with
  | 0 => zeros (fld w 15 11) (.ok (.instantiate (BitVec.ofNat 5 (fld w 25 21)) (BitVec.ofNat 5 (fld w 20 16))))
  | 1 => zeros (fld w 15 11) (.ok (.decr (BitVec.ofNat 5 (fld w 25 21)) (BitVec.ofNat 5 (fld w 20 16))))
  | 16 => zeros (fld w 20 11) (.ok (.gcancelJob (BitVec.ofNat 5 (fld w 25 21))))
  | 17 => zeros (fld w 15 11) (.ok (.gcancelPhase (BitVec.ofNat 5 (fld w 25 21)) (BitVec.ofNat 5 (fld w 20 16))))
  | 18 => zeros (fld w 15 11) (.ok (.gcancelGraph (BitVec.ofNat 5 (fld w 25 21)) (BitVec.ofNat 5 (fld w 20 16))))
  | 19 => zeros (fld w 15 11) (.ok (.gcancelTask (BitVec.ofNat 5 (fld w 25 21)) (BitVec.ofNat 5 (fld w 20 16))))
  | _ => .error .reservedFunction

/-- Major 0x3C (R60, R61). -/
def decodeMajor3C (w : Nat) : Except DecodeError Instr :=
  match fld w 10 6 with
  | 0 => zeros (fld w 5 0) (.ok (.fwpush (BitVec.ofNat 5 (fld w 25 21)) (BitVec.ofNat 5 (fld w 20 16)) (BitVec.ofNat 5 (fld w 15 11))))
  | 1 => zeros (fld w 5 0) (.ok (.fwpop (BitVec.ofNat 5 (fld w 25 21)) (BitVec.ofNat 5 (fld w 20 16)) (BitVec.ofNat 5 (fld w 15 11))))
  | 2 => zeros (fld w 5 0) (zeros (fld w 20 11) (.ok (.carrive (BitVec.ofNat 5 (fld w 25 21)))))
  | 3 => zeros (fld w 5 0) (zeros (fld w 15 11) (zeros (fld w 25 21) (.ok (.cwait (BitVec.ofNat 5 (fld w 20 16))))))
  | 4 => zeros (fld w 0 0) (do let z_ ← need (Width.ofCode? (fld w 2 1)); .ok (.ldx (BitVec.ofNat 5 (fld w 25 21)) (BitVec.ofNat 5 (fld w 20 16)) (BitVec.ofNat 5 (fld w 15 11)) (BitVec.ofNat 3 (fld w 5 3)) z_))
  | 5 => zeros (fld w 0 0) (do let z_ ← need (Width.ofCode? (fld w 2 1)); .ok (.stx (BitVec.ofNat 5 (fld w 25 21)) (BitVec.ofNat 5 (fld w 20 16)) (BitVec.ofNat 5 (fld w 15 11)) (BitVec.ofNat 3 (fld w 5 3)) z_))
  | _ => .error .reservedFunction

/-- Major 0x3D (R60, R61). -/
def decodeMajor3D (w : Nat) : Except DecodeError Instr :=
  match fld w 15 12 with
  | 0 => zeros (fld w 25 16) (.ok (.trap (BitVec.ofNat 12 (fld w 11 0))))
  | 1 => zeros (fld w 11 0) (zeros (fld w 25 16) (.ok .eret))
  | 2 => zeros (fld w 20 16) (.ok (.csrr (BitVec.ofNat 5 (fld w 25 21)) (BitVec.ofNat 12 (fld w 11 0))))
  | 3 => zeros (fld w 25 21) (.ok (.csrw (BitVec.ofNat 5 (fld w 20 16)) (BitVec.ofNat 12 (fld w 11 0))))
  | 4 => .ok (.csrx (BitVec.ofNat 5 (fld w 25 21)) (BitVec.ofNat 5 (fld w 20 16)) (BitVec.ofNat 12 (fld w 11 0)))
  | 5 => zeros (fld w 11 0) (zeros (fld w 20 16) (.ok (.freeze (BitVec.ofNat 5 (fld w 25 21)))))
  | 6 => (do let u_ ← need (PageUnit.ofCode? (fld w 11 10)); .ok (.scrub (BitVec.ofNat 5 (fld w 25 21)) (BitVec.ofNat 5 (fld w 20 16)) u_ (BitVec.ofNat 10 (fld w 9 0))))
  | 7 => (do let u_ ← need (PageUnit.ofCode? (fld w 11 10)); .ok (.invpg (BitVec.ofNat 5 (fld w 25 21)) (BitVec.ofNat 5 (fld w 20 16)) u_ (BitVec.ofNat 10 (fld w 9 0))))
  | 8 => (match fld w 11 8 with
      | 0 => zeros (fld w 7 0) (.ok (.waysetCw (BitVec.ofNat 5 (fld w 25 21)) (BitVec.ofNat 5 (fld w 20 16))))
      | 1 => zeros (fld w 7 0) (.ok (.waysetShare (BitVec.ofNat 5 (fld w 25 21)) (BitVec.ofNat 5 (fld w 20 16))))
      | _ => .error .reservedFunction)
  | 9 => (match fld w 11 8 with
      | 0 => zeros (fld w 7 0) (.ok (.lehrArm (BitVec.ofNat 5 (fld w 25 21)) (BitVec.ofNat 5 (fld w 20 16))))
      | 1 => zeros (fld w 7 0) (zeros (fld w 20 16) (.ok (.lehrStat (BitVec.ofNat 5 (fld w 25 21)))))
      | 2 => zeros (fld w 7 0) (zeros (fld w 20 16) (.ok (.lehrDisarm (BitVec.ofNat 5 (fld w 25 21)))))
      | _ => .error .reservedFunction)
  | 10 => zeros (fld w 11 5) (.ok (.jcfg (BitVec.ofNat 5 (fld w 25 21)) (BitVec.ofNat 5 (fld w 20 16)) (BitVec.ofNat 5 (fld w 4 0))))
  | 11 => zeros (fld w 11 2) (zeros (fld w 25 21) (.ok (.perfsel (BitVec.ofNat 5 (fld w 20 16)) (BitVec.ofNat 2 (fld w 1 0)))))
  | _ => .error .reservedFunction

/-- Major 0x3F (R60, R61). -/
def decodeMajor3F (w : Nat) : Except DecodeError Instr :=
  match fld w 25 22 with
  | 0 => .ok (.himm (BitVec.ofNat 22 (fld w 21 0)))
  | 1 => .ok (.hmod (BitVec.ofNat 22 (fld w 21 0)))
  | 2 => zeros (fld w 21 3) (.ok (.hpri (BitVec.ofNat 3 (fld w 2 0))))
  | _ => .error .reservedFunction

/-- The word read by the opcode map (R60); field values are checked afterwards. -/
def rawDecode (w : Nat) : Except DecodeError Instr :=
  match fld w 31 26 with
  | 1 => decodeMajor01 w
  | 2 => decodeMajor02 w
  | 3 => decodeMajor03 w
  | 4 => decodeMajor04 w
  | 5 => decodeMajor05 w
  | 6 => decodeMajor06 w
  | 7 => decodeMajor07 w
  | 8 => decodeMajor08 w
  | 9 => decodeMajor09 w
  | 10 => decodeMajor0A w
  | 13 => decodeMajor0D w
  | 14 => decodeMajor0E w
  | 15 => decodeMajor0F w
  | 16 => decodeMajor10 w
  | 17 => decodeMajor11 w
  | 18 => decodeMajor12 w
  | 19 => decodeMajor13 w
  | 20 => decodeMajor14 w
  | 21 => decodeMajor15 w
  | 22 => decodeMajor16 w
  | 23 => decodeMajor17 w
  | 24 => decodeMajor18 w
  | 25 => decodeMajor19 w
  | 26 => decodeMajor1A w
  | 27 => decodeMajor1B w
  | 28 => decodeMajor1C w
  | 29 => decodeMajor1D w
  | 30 => decodeMajor1E w
  | 31 => decodeMajor1F w
  | 32 => decodeMajor20 w
  | 33 => decodeMajor21 w
  | 34 => decodeMajor22 w
  | 35 => decodeMajor23 w
  | 36 => decodeMajor24 w
  | 37 => decodeMajor25 w
  | 38 => decodeMajor26 w
  | 39 => decodeMajor27 w
  | 40 => decodeMajor28 w
  | 46 => decodeMajor2E w
  | 47 => decodeMajor2F w
  | 48 => decodeMajor30 w
  | 49 => decodeMajor31 w
  | 50 => decodeMajor32 w
  | 51 => decodeMajor33 w
  | 52 => decodeMajor34 w
  | 53 => decodeMajor35 w
  | 54 => decodeMajor36 w
  | 55 => decodeMajor37 w
  | 56 => decodeMajor38 w
  | 57 => decodeMajor39 w
  | 59 => decodeMajor3B w
  | 60 => decodeMajor3C w
  | 61 => decodeMajor3D w
  | 63 => decodeMajor3F w
  | _ => .error .reservedMajor

/-- The instruction a 32-bit word stands for; every other word is an unassigned encoding (R64). -/
def decodeWord (w : Nat) : Except DecodeError Instr :=
  match rawDecode w with
  | .ok i => if i.wf then .ok i else .error .reservedValue
  | .error e => .error e

/-- Four bytes of the code store, little-endian (R11, R52). -/
def wordOfBytes (b0 b1 b2 b3 : Byte) : Nat :=
  b0.toNat + b1.toNat * 2 ^ 8 + b2.toNat * 2 ^ 16 + b3.toNat * 2 ^ 24

/-- Decoding, total on any bytes: the instruction and the bytes behind it. -/
def decode : List Byte → Except DecodeError (Instr × List Byte)
  | b0 :: b1 :: b2 :: b3 :: rest =>
    match decodeWord (wordOfBytes b0 b1 b2 b3) with
    | .ok i => .ok (i, rest)
    | .error e => .error e
  | _ => .error .short

/-- A number laid out as four bytes, little-endian. -/
def bytesOfWord (w : Nat) : List Byte :=
  [BitVec.ofNat 8 w, BitVec.ofNat 8 (w / 2 ^ 8), BitVec.ofNat 8 (w / 2 ^ 16), BitVec.ofNat 8 (w / 2 ^ 24)]

/-- The instruction that the decoder reads from a table word (the host's question). -/
def decodeTableWord (nbits w : Nat) : Option Instr :=
  match decode (bytesOfWord (w % 2 ^ nbits)) with
  | .ok (i, _) => some i
  | .error _ => none

/-- The fixed bits of a word and its field values, each with its lowest bit. -/
def pack (m : Nat) (fs : List (Nat × Nat)) : Nat := fs.foldl (fun acc f => acc + f.1 * 2 ^ f.2) m

/-- The word of an instruction, as a number (R54, R61); a step that has no word gives 0, a reserved-trap word. -/
def encodeWord : Instr → Nat
  | .add d a b w => pack 0x04000000 [(d.toNat, 21), (a.toNat, 16), (b.toNat, 11), (w.code, 9)]
  | .sub d a b w => pack 0x04000001 [(d.toNat, 21), (a.toNat, 16), (b.toNat, 11), (w.code, 9)]
  | .andd d a b w => pack 0x04000002 [(d.toNat, 21), (a.toNat, 16), (b.toNat, 11), (w.code, 9)]
  | .orr d a b w => pack 0x04000003 [(d.toNat, 21), (a.toNat, 16), (b.toNat, 11), (w.code, 9)]
  | .xorr d a b w => pack 0x04000004 [(d.toNat, 21), (a.toNat, 16), (b.toNat, 11), (w.code, 9)]
  | .andn d a b w => pack 0x04000005 [(d.toNat, 21), (a.toNat, 16), (b.toNat, 11), (w.code, 9)]
  | .sll d a b w => pack 0x04000006 [(d.toNat, 21), (a.toNat, 16), (b.toNat, 11), (w.code, 9)]
  | .srl d a b w => pack 0x04000007 [(d.toNat, 21), (a.toNat, 16), (b.toNat, 11), (w.code, 9)]
  | .sra d a b w => pack 0x04000008 [(d.toNat, 21), (a.toNat, 16), (b.toNat, 11), (w.code, 9)]
  | .slt d a b w => pack 0x04000009 [(d.toNat, 21), (a.toNat, 16), (b.toNat, 11), (w.code, 9)]
  | .sltu d a b w => pack 0x0400000A [(d.toNat, 21), (a.toNat, 16), (b.toNat, 11), (w.code, 9)]
  | .minn d a b w => pack 0x0400000B [(d.toNat, 21), (a.toNat, 16), (b.toNat, 11), (w.code, 9)]
  | .maxx d a b w => pack 0x0400000C [(d.toNat, 21), (a.toNat, 16), (b.toNat, 11), (w.code, 9)]
  | .minu d a b w => pack 0x0400000D [(d.toNat, 21), (a.toNat, 16), (b.toNat, 11), (w.code, 9)]
  | .maxu d a b w => pack 0x0400000E [(d.toNat, 21), (a.toNat, 16), (b.toNat, 11), (w.code, 9)]
  | .mul d a b w => pack 0x08000000 [(d.toNat, 21), (a.toNat, 16), (b.toNat, 11), (w.code, 9)]
  | .mulh d a b w => pack 0x08000001 [(d.toNat, 21), (a.toNat, 16), (b.toNat, 11), (w.code, 9)]
  | .mulhu d a b w => pack 0x08000002 [(d.toNat, 21), (a.toNat, 16), (b.toNat, 11), (w.code, 9)]
  | .div d a b w => pack 0x08000003 [(d.toNat, 21), (a.toNat, 16), (b.toNat, 11), (w.code, 9)]
  | .divu d a b w => pack 0x08000004 [(d.toNat, 21), (a.toNat, 16), (b.toNat, 11), (w.code, 9)]
  | .rem d a b w => pack 0x08000005 [(d.toNat, 21), (a.toNat, 16), (b.toNat, 11), (w.code, 9)]
  | .remu d a b w => pack 0x08000006 [(d.toNat, 21), (a.toNat, 16), (b.toNat, 11), (w.code, 9)]
  | .clz d a w => pack 0x0C000000 [(d.toNat, 21), (a.toNat, 16), (w.code, 9)]
  | .ffs d a w => pack 0x0C000001 [(d.toNat, 21), (a.toNat, 16), (w.code, 9)]
  | .popc d a w => pack 0x0C000002 [(d.toNat, 21), (a.toNat, 16), (w.code, 9)]
  | .brev d a w => pack 0x0C000003 [(d.toNat, 21), (a.toNat, 16), (w.code, 9)]
  | .bext d a b w => pack 0x0C000004 [(d.toNat, 21), (a.toNat, 16), (b.toNat, 11), (w.code, 9)]
  | .bins d a b w => pack 0x0C000005 [(d.toNat, 21), (a.toNat, 16), (b.toNat, 11), (w.code, 9)]
  | .sext d a b w => pack 0x0C000006 [(d.toNat, 21), (a.toNat, 16), (b.toNat, 11), (w.code, 9)]
  | .addi d a i => pack 0x10000000 [(d.toNat, 21), (a.toNat, 16), (i.toNat, 0)]
  | .andi d a i => pack 0x14000000 [(d.toNat, 21), (a.toNat, 16), (i.toNat, 0)]
  | .ori d a i => pack 0x18000000 [(d.toNat, 21), (a.toNat, 16), (i.toNat, 0)]
  | .xori d a i => pack 0x1C000000 [(d.toNat, 21), (a.toNat, 16), (i.toNat, 0)]
  | .slti d a i => pack 0x20000000 [(d.toNat, 21), (a.toNat, 16), (i.toNat, 0)]
  | .sethi d a i => pack 0x24000000 [(d.toNat, 21), (a.toNat, 16), (i.toNat, 0)]
  | .slli d a s => pack 0x28000000 [(d.toNat, 21), (a.toNat, 16), (s.toNat, 0)]
  | .srli d a s => pack 0x28004000 [(d.toNat, 21), (a.toNat, 16), (s.toNat, 0)]
  | .srai d a s => pack 0x28008000 [(d.toNat, 21), (a.toNat, 16), (s.toNat, 0)]
  | .sel d a b c => pack 0x34000000 [(d.toNat, 21), (a.toNat, 16), (b.toNat, 11), (c.toNat, 6)]
  | .fadd d a b f => pack 0x38000000 [(d.toNat, 21), (a.toNat, 16), (b.toNat, 11), (f.code, 8)]
  | .fsub d a b f => pack 0x38000001 [(d.toNat, 21), (a.toNat, 16), (b.toNat, 11), (f.code, 8)]
  | .fmul d a b f => pack 0x38000002 [(d.toNat, 21), (a.toNat, 16), (b.toNat, 11), (f.code, 8)]
  | .fmin d a b f => pack 0x38000003 [(d.toNat, 21), (a.toNat, 16), (b.toNat, 11), (f.code, 8)]
  | .fmax d a b f => pack 0x38000004 [(d.toNat, 21), (a.toNat, 16), (b.toNat, 11), (f.code, 8)]
  | .fcmpEq d a b f => pack 0x38000010 [(d.toNat, 21), (a.toNat, 16), (b.toNat, 11), (f.code, 8)]
  | .fcmpNe d a b f => pack 0x38000011 [(d.toNat, 21), (a.toNat, 16), (b.toNat, 11), (f.code, 8)]
  | .fcmpLt d a b f => pack 0x38000012 [(d.toNat, 21), (a.toNat, 16), (b.toNat, 11), (f.code, 8)]
  | .fcmpLe d a b f => pack 0x38000013 [(d.toNat, 21), (a.toNat, 16), (b.toNat, 11), (f.code, 8)]
  | .fcmpUn d a b f => pack 0x38000014 [(d.toNat, 21), (a.toNat, 16), (b.toNat, 11), (f.code, 8)]
  | .ffma d a b c f => pack 0x3C000000 [(d.toNat, 21), (a.toNat, 16), (b.toNat, 11), (c.toNat, 6), (f.code, 4)]
  | .fcvt d a t s r => pack 0x3C000001 [(d.toNat, 21), (a.toNat, 16), (t.toNat, 11), (s.toNat, 6), (bitCode r, 5)]
  | .br a b c o => pack 0x40000000 [(a.toNat, 21), (b.toNat, 16), (c.code, 13), (o.toNat, 0)]
  | .jal o => pack 0x44000000 [(o.toNat, 0)]
  | .jalr d a i => pack 0x48000000 [(d.toNat, 21), (a.toNat, 16), (i.toNat, 0)]
  | .lds d b s o => pack 0x50000000 [(d.toNat, 21), (b.toNat, 16), (s.code, 10), (o.toNat, 0)]
  | .sts d b s o => pack 0x54000000 [(d.toNat, 21), (b.toNat, 16), (s.code, 10), (o.toNat, 0)]
  | .ld d b c p z x q o => pack 0x58000000 [(d.toNat, 21), (b.toNat, 16), (c.toNat, 13), (p.code, 10), (z.code, 8), (bitCode x, 7), (bitCode q, 6), (o.toNat, 0)]
  | .st d b c p z q o => pack 0x5C000000 [(d.toNat, 21), (b.toNat, 16), (c.toNat, 13), (p.code, 10), (z.code, 8), (bitCode q, 6), (o.toNat, 0)]
  | .amo d a b o z c p => pack 0x60000000 [(d.toNat, 21), (a.toNat, 16), (b.toNat, 11), (o.code, 7), (bitCode z, 6), (c.toNat, 3), (p.code, 0)]
  | .cas d a b z c p => pack 0x64000000 [(d.toNat, 21), (a.toNat, 16), (b.toNat, 11), (bitCode z, 6), (c.toNat, 3), (p.code, 0)]
  | .red a b o z c p => pack 0x68000000 [(a.toNat, 16), (b.toNat, 11), (o.code, 7), (bitCode z, 6), (c.toNat, 3), (p.code, 0)]
  | .fence a m p => pack 0x6C000000 [(a.toNat, 16), (m.toNat, 8), (p.code, 5)]
  | .promote a p => pack 0x6C200000 [(a.toNat, 16), (p.code, 5)]
  | .hash d a b c => pack 0x70000000 [(d.toNat, 21), (a.toNat, 16), (b.toNat, 11), (c.toNat, 6)]
  | .claim d a b => pack 0x74000000 [(d.toNat, 21), (a.toNat, 16), (b.toNat, 11)]
  | .cfulfil d a b => pack 0x74000040 [(d.toNat, 21), (a.toNat, 16), (b.toNat, 11)]
  | .cabandon d a => pack 0x74000080 [(d.toNat, 21), (a.toNat, 16)]
  | .cpin d a b => pack 0x740000C0 [(d.toNat, 21), (a.toNat, 16), (b.toNat, 11)]
  | .cunpin d a b => pack 0x74000100 [(d.toNat, 21), (a.toNat, 16), (b.toNat, 11)]
  | .qstat d a w => pack 0x78000000 [(d.toNat, 21), (a.toNat, 16), (w.toNat, 11)]
  | .qdrain d a w => pack 0x78000001 [(d.toNat, 21), (a.toNat, 16), (w.toNat, 11)]
  | .signal a b => pack 0x7C000000 [(a.toNat, 16), (b.toNat, 11)]
  | .waitch d => pack 0x7C000001 [(d.toNat, 21)]
  | .block a => pack 0x7C000002 [(a.toNat, 16)]
  | .unblock a => pack 0x7C000003 [(a.toNat, 16)]
  | .vadd d a b k w => pack 0x80000000 [(d.toNat, 21), (a.toNat, 16), (b.toNat, 11), (k.toNat, 8), (w.code, 6)]
  | .vsub d a b k w => pack 0x80000001 [(d.toNat, 21), (a.toNat, 16), (b.toNat, 11), (k.toNat, 8), (w.code, 6)]
  | .vmul d a b k w => pack 0x80000002 [(d.toNat, 21), (a.toNat, 16), (b.toNat, 11), (k.toNat, 8), (w.code, 6)]
  | .vmulh d a b k w => pack 0x80000003 [(d.toNat, 21), (a.toNat, 16), (b.toNat, 11), (k.toNat, 8), (w.code, 6)]
  | .vmin d a b k w => pack 0x80000004 [(d.toNat, 21), (a.toNat, 16), (b.toNat, 11), (k.toNat, 8), (w.code, 6)]
  | .vmax d a b k w => pack 0x80000005 [(d.toNat, 21), (a.toNat, 16), (b.toNat, 11), (k.toNat, 8), (w.code, 6)]
  | .vabs d a k w => pack 0x80000006 [(d.toNat, 21), (a.toNat, 16), (k.toNat, 8), (w.code, 6)]
  | .vneg d a k w => pack 0x80000007 [(d.toNat, 21), (a.toNat, 16), (k.toNat, 8), (w.code, 6)]
  | .vand d a b k w => pack 0x84000000 [(d.toNat, 21), (a.toNat, 16), (b.toNat, 11), (k.toNat, 8), (w.code, 6)]
  | .vor d a b k w => pack 0x84000001 [(d.toNat, 21), (a.toNat, 16), (b.toNat, 11), (k.toNat, 8), (w.code, 6)]
  | .vxor d a b k w => pack 0x84000002 [(d.toNat, 21), (a.toNat, 16), (b.toNat, 11), (k.toNat, 8), (w.code, 6)]
  | .vsll d a b k w => pack 0x84000003 [(d.toNat, 21), (a.toNat, 16), (b.toNat, 11), (k.toNat, 8), (w.code, 6)]
  | .vsrl d a b k w => pack 0x84000004 [(d.toNat, 21), (a.toNat, 16), (b.toNat, 11), (k.toNat, 8), (w.code, 6)]
  | .vsra d a b k w => pack 0x84000005 [(d.toNat, 21), (a.toNat, 16), (b.toNat, 11), (k.toNat, 8), (w.code, 6)]
  | .vclz d a k w => pack 0x84000006 [(d.toNat, 21), (a.toNat, 16), (k.toNat, 8), (w.code, 6)]
  | .vffs d a k w => pack 0x84000007 [(d.toNat, 21), (a.toNat, 16), (k.toNat, 8), (w.code, 6)]
  | .vpopc d a k w => pack 0x84000008 [(d.toNat, 21), (a.toNat, 16), (k.toNat, 8), (w.code, 6)]
  | .vaddF d a b k w f => pack 0x88000000 [(d.toNat, 21), (a.toNat, 16), (b.toNat, 11), (k.toNat, 8), (w.code, 6), (bitCode f, 5)]
  | .vsubF d a b k w f => pack 0x88000001 [(d.toNat, 21), (a.toNat, 16), (b.toNat, 11), (k.toNat, 8), (w.code, 6), (bitCode f, 5)]
  | .vmulF d a b k w f => pack 0x88000002 [(d.toNat, 21), (a.toNat, 16), (b.toNat, 11), (k.toNat, 8), (w.code, 6), (bitCode f, 5)]
  | .vminF d a b k w f => pack 0x88000003 [(d.toNat, 21), (a.toNat, 16), (b.toNat, 11), (k.toNat, 8), (w.code, 6), (bitCode f, 5)]
  | .vmaxF d a b k w f => pack 0x88000004 [(d.toNat, 21), (a.toNat, 16), (b.toNat, 11), (k.toNat, 8), (w.code, 6), (bitCode f, 5)]
  | .vabsF d a k w f => pack 0x88000005 [(d.toNat, 21), (a.toNat, 16), (k.toNat, 8), (w.code, 6), (bitCode f, 5)]
  | .vnegF d a k w f => pack 0x88000006 [(d.toNat, 21), (a.toNat, 16), (k.toNat, 8), (w.code, 6), (bitCode f, 5)]
  | .vfma d a b k w f => pack 0x88000007 [(d.toNat, 21), (a.toNat, 16), (b.toNat, 11), (k.toNat, 8), (w.code, 6), (bitCode f, 5)]
  | .vfms d a b k w f => pack 0x88000008 [(d.toNat, 21), (a.toNat, 16), (b.toNat, 11), (k.toNat, 8), (w.code, 6), (bitCode f, 5)]
  | .vcmp k a b m w f t c => pack 0x8C000000 [(k.toNat, 21), (a.toNat, 16), (b.toNat, 11), (m.toNat, 8), (w.code, 6), (bitCode f, 5), (bitCode t, 4), (c.code, 0)]
  | .vsel d a b k w => pack 0x90000000 [(d.toNat, 21), (a.toNat, 16), (b.toNat, 11), (k.toNat, 8), (w.code, 6)]
  | .vbcast d a k w => pack 0x90000001 [(d.toNat, 21), (a.toNat, 16), (k.toNat, 8), (w.code, 6)]
  | .vextr d a b w => pack 0x90000002 [(d.toNat, 21), (a.toNat, 16), (b.toNat, 11), (w.code, 6)]
  | .viota d k w => pack 0x90000003 [(d.toNat, 21), (k.toNat, 8), (w.code, 6)]
  | .vperm d a b k w => pack 0x90000004 [(d.toNat, 21), (a.toNat, 16), (b.toNat, 11), (k.toNat, 8), (w.code, 6)]
  | .vscl d a b k w => pack 0x90000005 [(d.toNat, 21), (a.toNat, 16), (b.toNat, 11), (k.toNat, 8), (w.code, 6)]
  | .vcvt d a t s r k => pack 0x94000000 [(d.toNat, 21), (a.toNat, 16), (t.toNat, 11), (s.toNat, 6), (bitCode r, 5), (k.toNat, 2)]
  | .vred d a k w f t o => pack 0x98000000 [(d.toNat, 21), (a.toNat, 16), (k.toNat, 8), (w.code, 6), (bitCode f, 5), (bitCode t, 4), (o.code, 0)]
  | .vscan d a k w f t o => pack 0x98000008 [(d.toNat, 21), (a.toNat, 16), (k.toNat, 8), (w.code, 6), (bitCode f, 5), (bitCode t, 4), (o.code, 0)]
  | .vexp2 d a k w => pack 0x9C000000 [(d.toNat, 21), (a.toNat, 16), (k.toNat, 8), (w.code, 6)]
  | .vlog2 d a k w => pack 0x9C000001 [(d.toNat, 21), (a.toNat, 16), (k.toNat, 8), (w.code, 6)]
  | .vrcp d a k w => pack 0x9C000002 [(d.toNat, 21), (a.toNat, 16), (k.toNat, 8), (w.code, 6)]
  | .vrsq d a k w => pack 0x9C000003 [(d.toNat, 21), (a.toNat, 16), (k.toNat, 8), (w.code, 6)]
  | .vtanh d a k w => pack 0x9C000004 [(d.toNat, 21), (a.toNat, 16), (k.toNat, 8), (w.code, 6)]
  | .kand d a b => pack 0xA0000000 [(d.toNat, 21), (a.toNat, 16), (b.toNat, 11)]
  | .kor d a b => pack 0xA0000001 [(d.toNat, 21), (a.toNat, 16), (b.toNat, 11)]
  | .knot d a => pack 0xA0000002 [(d.toNat, 21), (a.toNat, 16)]
  | .kpopc d a => pack 0xA0000003 [(d.toNat, 21), (a.toNat, 16)]
  | .vlds d b o => pack 0xB8000000 [(d.toNat, 21), (b.toNat, 16), (o.toNat, 0)]
  | .vldt d b w o => pack 0xB8000100 [(d.toNat, 21), (b.toNat, 16), (w.code, 6), (o.toNat, 0)]
  | .vld d b c p q o => pack 0xB8000200 [(d.toNat, 21), (b.toNat, 16), (c.toNat, 13), (p.code, 10), (bitCode q, 8), (o.toNat, 0)]
  | .vsts d b o => pack 0xBC000000 [(d.toNat, 21), (b.toNat, 16), (o.toNat, 0)]
  | .vst d b c p q o => pack 0xBC000200 [(d.toNat, 21), (b.toNat, 16), (c.toNat, 13), (p.code, 10), (bitCode q, 8), (o.toNat, 0)]
  | .mma x y c a b s p f => pack 0xC0000000 [(x.toNat, 23), (y.toNat, 20), (c.toNat, 18), (a.toNat, 14), (b.toNat, 10), (s.code, 7), (p.code, 5), (f.toNat, 0)]
  | .mmaArm x y c a b s p f => pack 0xC4000000 [(x.toNat, 23), (y.toNat, 20), (c.toNat, 18), (a.toNat, 14), (b.toNat, 10), (s.code, 7), (p.code, 5), (f.toNat, 0)]
  | .mdis c => pack 0xC8000000 [(c.toNat, 4)]
  | .mzero c => pack 0xC8200000 [(c.toNat, 4)]
  | .mflush a b t c r s => pack 0xC8400000 [(a.toNat, 16), (b.toNat, 11), (t.toNat, 6), (c.toNat, 4), (bitCode r, 3), (s.code, 0)]
  | .mload a b t c s => pack 0xC8600000 [(a.toNat, 16), (b.toNat, 11), (t.toNat, 6), (c.toNat, 4), (s.code, 0)]
  | .msca a b u f r l c h => pack 0xC8800000 [(a.toNat, 16), (b.toNat, 11), (u.toNat, 9), (bitCode f, 8), (bitCode r, 7), (bitCode l, 6), (c.toNat, 4), (h.code, 0)]
  | .rset g a => pack 0xCC000000 [(g.toNat, 21), (a.toNat, 16)]
  | .rpush g a => pack 0xCC000001 [(g.toNat, 21), (a.toNat, 16)]
  | .rstat d g b => pack 0xCC000002 [(d.toNat, 21), (g.toNat, 16), (b.toNat, 11)]
  | .cset c a => pack 0xD0000000 [(c.toNat, 21), (a.toNat, 16)]
  | .cgo c => pack 0xD0000001 [(c.toNat, 21)]
  | .cstat d c b => pack 0xD0000002 [(d.toNat, 21), (c.toNat, 16), (b.toNat, 11)]
  | .tswap d a b => pack 0xD4000000 [(d.toNat, 21), (a.toNat, 16), (b.toNat, 11)]
  | .copy a b => pack 0xD8000000 [(a.toNat, 16), (b.toNat, 11)]
  | .copyc a b => pack 0xD8000001 [(a.toNat, 16), (b.toNat, 11)]
  | .mcast a b => pack 0xD8000002 [(a.toNat, 16), (b.toNat, 11)]
  | .sopen d a => pack 0xDC000000 [(d.toNat, 21), (a.toNat, 16)]
  | .sclose a => pack 0xDC000001 [(a.toNat, 16)]
  | .scfg d a b => pack 0xDC000002 [(d.toNat, 21), (a.toNat, 16), (b.toNat, 11)]
  | .binit a b => pack 0xE0000000 [(a.toNat, 16), (b.toNat, 11)]
  | .bexpect a b => pack 0xE0000001 [(a.toNat, 16), (b.toNat, 11)]
  | .barrive a => pack 0xE0000002 [(a.toNat, 16)]
  | .bwait d a b => pack 0xE0000003 [(d.toNat, 21), (a.toNat, 16), (b.toNat, 11)]
  | .btest d a => pack 0xE0000004 [(d.toNat, 21), (a.toNat, 16)]
  | .fcfg d a => pack 0xE4000000 [(d.toNat, 21), (a.toNat, 16)]
  | .frun a => pack 0xE4000001 [(a.toNat, 16)]
  | .fstat d => pack 0xE4000002 [(d.toNat, 21)]
  | .instantiate d a => pack 0xEC000000 [(d.toNat, 21), (a.toNat, 16)]
  | .decr d a => pack 0xEC000001 [(d.toNat, 21), (a.toNat, 16)]
  | .gcancelJob d => pack 0xEC000010 [(d.toNat, 21)]
  | .gcancelPhase d a => pack 0xEC000011 [(d.toNat, 21), (a.toNat, 16)]
  | .gcancelGraph d a => pack 0xEC000012 [(d.toNat, 21), (a.toNat, 16)]
  | .gcancelTask d a => pack 0xEC000013 [(d.toNat, 21), (a.toNat, 16)]
  | .fwpush d a b => pack 0xF0000000 [(d.toNat, 21), (a.toNat, 16), (b.toNat, 11)]
  | .fwpop d a b => pack 0xF0000040 [(d.toNat, 21), (a.toNat, 16), (b.toNat, 11)]
  | .carrive d => pack 0xF0000080 [(d.toNat, 21)]
  | .cwait a => pack 0xF00000C0 [(a.toNat, 16)]
  | .ldx d a b c z => pack 0xF0000100 [(d.toNat, 21), (a.toNat, 16), (b.toNat, 11), (c.toNat, 3), (z.code, 1)]
  | .stx d a b c z => pack 0xF0000140 [(d.toNat, 21), (a.toNat, 16), (b.toNat, 11), (c.toNat, 3), (z.code, 1)]
  | .trap n => pack 0xF4000000 [(n.toNat, 0)]
  | .csrr d c => pack 0xF4002000 [(d.toNat, 21), (c.toNat, 0)]
  | .csrw a c => pack 0xF4003000 [(a.toNat, 16), (c.toNat, 0)]
  | .csrx d a c => pack 0xF4004000 [(d.toNat, 21), (a.toNat, 16), (c.toNat, 0)]
  | .freeze d => pack 0xF4005000 [(d.toNat, 21)]
  | .scrub d a u n => pack 0xF4006000 [(d.toNat, 21), (a.toNat, 16), (u.code, 10), (n.toNat, 0)]
  | .invpg d a u n => pack 0xF4007000 [(d.toNat, 21), (a.toNat, 16), (u.code, 10), (n.toNat, 0)]
  | .waysetCw d a => pack 0xF4008000 [(d.toNat, 21), (a.toNat, 16)]
  | .waysetShare d a => pack 0xF4008100 [(d.toNat, 21), (a.toNat, 16)]
  | .lehrArm d a => pack 0xF4009000 [(d.toNat, 21), (a.toNat, 16)]
  | .lehrStat d => pack 0xF4009100 [(d.toNat, 21)]
  | .lehrDisarm d => pack 0xF4009200 [(d.toNat, 21)]
  | .jcfg d a p => pack 0xF400A000 [(d.toNat, 21), (a.toNat, 16), (p.toNat, 0)]
  | .perfsel a n => pack 0xF400B000 [(a.toNat, 16), (n.toNat, 0)]
  | .himm p => pack 0xFC000000 [(p.toNat, 0)]
  | .hmod p => pack 0xFC400000 [(p.toNat, 0)]
  | .hpri p => pack 0xFC800000 [(p.toNat, 0)]
  | .nop => pack 0x4C000000 []
  | .endStrand => pack 0x4C000001 []
  | .eret => pack 0xF4001000 []
  | .unassignedEncoding w => w.toNat
  | _ => 0

/-- The words of an instruction, one word of 32 bits. -/
def encode (i : Instr) : List IWord := [BitVec.ofNat 32 (encodeWord i)]

/-- The constructors that stand for instruction words. -/
def Instr.isWord : Instr → Bool
  | .add _ _ _ _ => true
  | .sub _ _ _ _ => true
  | .andd _ _ _ _ => true
  | .orr _ _ _ _ => true
  | .xorr _ _ _ _ => true
  | .andn _ _ _ _ => true
  | .sll _ _ _ _ => true
  | .srl _ _ _ _ => true
  | .sra _ _ _ _ => true
  | .slt _ _ _ _ => true
  | .sltu _ _ _ _ => true
  | .minn _ _ _ _ => true
  | .maxx _ _ _ _ => true
  | .minu _ _ _ _ => true
  | .maxu _ _ _ _ => true
  | .mul _ _ _ _ => true
  | .mulh _ _ _ _ => true
  | .mulhu _ _ _ _ => true
  | .div _ _ _ _ => true
  | .divu _ _ _ _ => true
  | .rem _ _ _ _ => true
  | .remu _ _ _ _ => true
  | .clz _ _ _ => true
  | .ffs _ _ _ => true
  | .popc _ _ _ => true
  | .brev _ _ _ => true
  | .bext _ _ _ _ => true
  | .bins _ _ _ _ => true
  | .sext _ _ _ _ => true
  | .addi _ _ _ => true
  | .andi _ _ _ => true
  | .ori _ _ _ => true
  | .xori _ _ _ => true
  | .slti _ _ _ => true
  | .sethi _ _ _ => true
  | .slli _ _ _ => true
  | .srli _ _ _ => true
  | .srai _ _ _ => true
  | .sel _ _ _ _ => true
  | .fadd _ _ _ _ => true
  | .fsub _ _ _ _ => true
  | .fmul _ _ _ _ => true
  | .fmin _ _ _ _ => true
  | .fmax _ _ _ _ => true
  | .fcmpEq _ _ _ _ => true
  | .fcmpNe _ _ _ _ => true
  | .fcmpLt _ _ _ _ => true
  | .fcmpLe _ _ _ _ => true
  | .fcmpUn _ _ _ _ => true
  | .ffma _ _ _ _ _ => true
  | .fcvt _ _ _ _ _ => true
  | .br _ _ _ _ => true
  | .jal _ => true
  | .jalr _ _ _ => true
  | .lds _ _ _ _ => true
  | .sts _ _ _ _ => true
  | .ld _ _ _ _ _ _ _ _ => true
  | .st _ _ _ _ _ _ _ => true
  | .amo _ _ _ _ _ _ _ => true
  | .cas _ _ _ _ _ _ => true
  | .red _ _ _ _ _ _ => true
  | .fence _ _ _ => true
  | .promote _ _ => true
  | .hash _ _ _ _ => true
  | .claim _ _ _ => true
  | .cfulfil _ _ _ => true
  | .cabandon _ _ => true
  | .cpin _ _ _ => true
  | .cunpin _ _ _ => true
  | .qstat _ _ _ => true
  | .qdrain _ _ _ => true
  | .signal _ _ => true
  | .waitch _ => true
  | .block _ => true
  | .unblock _ => true
  | .vadd _ _ _ _ _ => true
  | .vsub _ _ _ _ _ => true
  | .vmul _ _ _ _ _ => true
  | .vmulh _ _ _ _ _ => true
  | .vmin _ _ _ _ _ => true
  | .vmax _ _ _ _ _ => true
  | .vabs _ _ _ _ => true
  | .vneg _ _ _ _ => true
  | .vand _ _ _ _ _ => true
  | .vor _ _ _ _ _ => true
  | .vxor _ _ _ _ _ => true
  | .vsll _ _ _ _ _ => true
  | .vsrl _ _ _ _ _ => true
  | .vsra _ _ _ _ _ => true
  | .vclz _ _ _ _ => true
  | .vffs _ _ _ _ => true
  | .vpopc _ _ _ _ => true
  | .vaddF _ _ _ _ _ _ => true
  | .vsubF _ _ _ _ _ _ => true
  | .vmulF _ _ _ _ _ _ => true
  | .vminF _ _ _ _ _ _ => true
  | .vmaxF _ _ _ _ _ _ => true
  | .vabsF _ _ _ _ _ => true
  | .vnegF _ _ _ _ _ => true
  | .vfma _ _ _ _ _ _ => true
  | .vfms _ _ _ _ _ _ => true
  | .vcmp _ _ _ _ _ _ _ _ => true
  | .vsel _ _ _ _ _ => true
  | .vbcast _ _ _ _ => true
  | .vextr _ _ _ _ => true
  | .viota _ _ _ => true
  | .vperm _ _ _ _ _ => true
  | .vscl _ _ _ _ _ => true
  | .vcvt _ _ _ _ _ _ => true
  | .vred _ _ _ _ _ _ _ => true
  | .vscan _ _ _ _ _ _ _ => true
  | .vexp2 _ _ _ _ => true
  | .vlog2 _ _ _ _ => true
  | .vrcp _ _ _ _ => true
  | .vrsq _ _ _ _ => true
  | .vtanh _ _ _ _ => true
  | .kand _ _ _ => true
  | .kor _ _ _ => true
  | .knot _ _ => true
  | .kpopc _ _ => true
  | .vlds _ _ _ => true
  | .vldt _ _ _ _ => true
  | .vld _ _ _ _ _ _ => true
  | .vsts _ _ _ => true
  | .vst _ _ _ _ _ _ => true
  | .mma _ _ _ _ _ _ _ _ => true
  | .mmaArm _ _ _ _ _ _ _ _ => true
  | .mdis _ => true
  | .mzero _ => true
  | .mflush _ _ _ _ _ _ => true
  | .mload _ _ _ _ _ => true
  | .msca _ _ _ _ _ _ _ _ => true
  | .rset _ _ => true
  | .rpush _ _ => true
  | .rstat _ _ _ => true
  | .cset _ _ => true
  | .cgo _ => true
  | .cstat _ _ _ => true
  | .tswap _ _ _ => true
  | .copy _ _ => true
  | .copyc _ _ => true
  | .mcast _ _ => true
  | .sopen _ _ => true
  | .sclose _ => true
  | .scfg _ _ _ => true
  | .binit _ _ => true
  | .bexpect _ _ => true
  | .barrive _ => true
  | .bwait _ _ _ => true
  | .btest _ _ => true
  | .fcfg _ _ => true
  | .frun _ => true
  | .fstat _ => true
  | .instantiate _ _ => true
  | .decr _ _ => true
  | .gcancelJob _ => true
  | .gcancelPhase _ _ => true
  | .gcancelGraph _ _ => true
  | .gcancelTask _ _ => true
  | .fwpush _ _ _ => true
  | .fwpop _ _ _ => true
  | .carrive _ => true
  | .cwait _ => true
  | .ldx _ _ _ _ _ => true
  | .stx _ _ _ _ _ => true
  | .trap _ => true
  | .csrr _ _ => true
  | .csrw _ _ => true
  | .csrx _ _ _ => true
  | .freeze _ => true
  | .scrub _ _ _ _ => true
  | .invpg _ _ _ _ => true
  | .waysetCw _ _ => true
  | .waysetShare _ _ => true
  | .lehrArm _ _ => true
  | .lehrStat _ => true
  | .lehrDisarm _ => true
  | .jcfg _ _ _ => true
  | .perfsel _ _ => true
  | .himm _ => true
  | .hmod _ => true
  | .hpri _ => true
  | .unassignedEncoding _ => false
  | .decouplingDeadlock _ => false
  | .strandRetire _ => false
  | .localLoadFill _ _ => false
  | .fire _ _ => false
  | .tokenEmit _ _ => false
  | .fireRetire _ _ => false
  | .tswapExchange _ => false
  | .packetIntake _ => false
  | .spillRefill _ => false
  | .decrementApply _ _ => false
  | .placementPass _ => false
  | .operandToken _ _ => false
  | .strandStart _ _ _ => false
  | .taskDone _ _ _ => false
  | .graphWatchdog _ _ => false
  | .eventEntry _ => false
  | .eventRetire _ _ _ => false
  | .payloadArrival _ => false
  | .blockArrival _ => false
  | .globalRequest _ => false
  | .globalResponse _ => false
  | .retryReissue _ => false
  | .promoteRequest _ => false
  | .gatherSendHome _ _ => false
  | .claimResultDelivery _ => false
  | .leaseExpiry _ _ => false
  | .operationCompletion _ => false
  | .fibreFire _ _ => false
  | .fibreFault _ => false
  | .uncorrectableError _ => false
  | .crcRetransmit _ => false
  | .sliceEnd _ => false
  | .restore _ => false
  | .latencyWindowClose _ => false
  | .counterWrap _ _ => false
  | .recordDecrement _ _ => false
  | .phaseJoin _ => false
  | .phaseLeave _ => false
  | .gateOpen _ => false
  | .gateRefuse _ => false
  | .reservedKindMessage _ _ => false
  | .spanPacketForward _ => false
  | .predecrementRetry _ _ => false
  | .proxyForward _ _ => false
  | .proxyTimeout _ _ => false
  | .jackSwitch _ => false
  | .jackAdderFire _ _ => false
  | .ualinkRequest _ => false
  | .flitForward _ _ => false
  | .hostAccess _ => false
  | .moduleReset _ => false
  | .die1Rejoin _ => false
  | .lifecycleChange _ => false
  | .powerGood _ => false
  | .tempWarning _ => false
  | .thermalTrip _ => false
  | .accumulatorCommand _ => false
  | .peerAccessArrival _ => false
  | .clusterArrival _ _ => false
  | .hostFreezeCommand _ => false
  | .nop => true
  | .endStrand => true
  | .eret => true
  | .lehrEpochOpen => false
  | .lehrEpochClose => false
  | .lqdWrite => false
  | .lqsWiWrite => false
  | .ovrRegister => false
  | .ovrResume => false
  | .frrRegister => false
  | .frrRiWrite => false
  | .pagesResident => false
  | .requeue => false
  | .cancelRecord => false
  | .frameRelease => false
  | .activate => false
  | .deactivate => false
  | .reloadRing => false
  | .closePhase => false
  | .reopenPhase => false
  | .endJob => false
  | .partitionWrite => false
  | .latencyMonitorWrite => false
  | .proxyPairRegister => false
  | .registerWrite => false
  | .die1Reset => false

end Sys2Proof
end

