-- ==== Sys2Proof/Config.lean ====
section
/-! DEFINITION. What the spec leaves to the implementation or leaves open: constants and FREE VALUES.
A free value has no body, so nothing can be proved of the number it stands for. -/

namespace Sys2Proof.Config

/-- FREE VALUE (log 1): module cycles that pass in one step; the argument is State's counter. -/
opaque stepCycles : Nat → Nat

/-- FREE VALUE (log 9): which of the equally allowed ways a slice replaces on a miss. -/
opaque victimWay : Nat → Nat

/-- FREE VALUE (log 10): a byte that the spec says holds no defined value. -/
opaque undefinedByte : Nat → BitVec 8

/-- Graph-table entries of one die: the graph field of R158 has eight bits (log 6, DEDUCED). -/
def graphEntries : Nat := 256

/-- What an outcome the spec calls not defined is (log 10): one free bit per occurrence. -/
opaque undefinedBit : Nat → Bool

/-- FREE VALUE (log 47): bytes that an access moves over the die link, the UALink or the Cord, as R333's events 16 to 18
count them; the arguments are State's counter and the access's address. -/
opaque fabricBytes : Nat → Nat → Nat

end Sys2Proof.Config
end

