-- ==== Sys2Proof/Machine/State.lean ====
section
/-! DEFINITION. The state of the module as plain data: everything the spec gives it (INVENTORY.md, "State"), the
model's own scheduling fields, the reasons a step can stop, and the state after reset. -/

namespace Sys2Proof.Machine

/-- Sparse data by key, in canonical form: keys strictly rising, no entry equal to the default. -/
abbrev Sparse (α : Type) := List (Nat × α)

/-- The two fronts of a strand (R22). -/
inductive Front | a | x
  deriving DecidableEq, Repr

/-- A slot of a queue port: filled, or reserved for the operation with that serial number (R28). -/
inductive QSlot (n : Nat) | filled (v : BitVec n) | pending (id : Nat)
  deriving DecidableEq, Repr

/-- Pending hints of a front and the address of the group's first hint (R57). -/
structure Hints where
  himm  : Option (BitVec 22) := none
  hmod  : Option (BitVec 22) := none
  hpri  : Option (BitVec 3) := none
  first : Pc := 0
  deriving DecidableEq, Repr

/-- Why a front's next instruction has not issued (R32): `ports` waits on those queue ports (bit numbers as in
tval of R33); `other` waits on anything else. -/
inductive Wait | none | ports (bits : List Nat) | other
  deriving DecidableEq, Repr

/-- What each front owns a copy of (R26). `pend` lists the scalar registers an operation has still to write. -/
structure FrontState where
  pc     : Pc
  regs   : Vector Word 24
  pend   : List (Nat × Nat)
  rmode  : BitVec 3
  sgen   : Word
  hints  : Hints
  ended  : Bool
  endPc  : Pc
  inEret : Bool
  wait   : Wait
  deriving DecidableEq, Repr

/-- Where an arriving value goes: nowhere, a scalar register, a reserved slot of a scalar or vector port. -/
inductive Dest | none | sreg (r : Nat) | sport (q : Nat) | vport (q : Nat)
  deriving DecidableEq, Repr

/-- A value on its way to a destination of a front (R28). -/
structure Fill where
  id    : Nat
  front : Front
  dest  : Dest
  val   : Vec
  deriving DecidableEq, Repr

/-- A matrix accumulator: elements by 128 x row + column, default zero, and the mode tag (R41). -/
structure Acc where
  elems : Sparse (BitVec 96)
  int   : Bool
  deriving DecidableEq, Repr

/-- An operand ring (R126, R127); `count` 0 for an unset ring. Sizes in bytes. -/
structure Ring where
  base : Nat
  slot : Nat
  count : Nat
  head : Nat
  tail : Nat
  filled : Nat
  claimed : Nat
  deriving DecidableEq, Repr

/-- State of a counter chain (R137). -/
inductive ChainState | unconfigured | ready | running | done
  deriving DecidableEq, Repr

/-- A counter chain (R136 to R141). -/
structure Chain where
  desc    : BitVec 512
  st      : ChainState
  cnt     : List Nat
  t       : Nat
  done    : Nat
  err     : Bool
  stopped : Bool
  deriving DecidableEq, Repr

/-- The operation of an MMA or MMA.ARM with what it sampled at issue (R44, R133, R134). `null` takes the null fire. -/
structure MmaOp where
  ringA : Nat
  ringB : Nat
  acc   : Nat
  fa    : Nat
  fb    : Nat
  shape : Shape
  sp    : Sparsity
  ovw   : Bool
  neg   : Bool
  tb    : Bool
  arm   : Bool
  null  : Bool
  mode  : BitVec 3
  seed  : Word
  deriving DecidableEq, Repr

/-- A command in the matrix unit's queue (R124), with its scoreboard entry. -/
inductive MCmd
  | mma (op : MmaOp)
  | mdis (acc : Nat)
  | mzero (acc : Nat)
  | mflush (acc : Nat) (shape : Shape) (addr pitch code : Nat) (sat : Bool) (mode : BitVec 3) (seed : Word) (sb : Nat)
  | mload (acc : Nat) (shape : Shape) (addr pitch code : Nat) (sb : Nat)
  | msca (accd accs : Nat) (shape : Shape) (f32 norow nocol : Bool) (ra ca : Nat) (mode : BitVec 3) (seed : Word) (sb : Nat)
  deriving DecidableEq, Repr

/-- An armed firing slot (R124, R135): fires since arming, and whether MDIS has stopped it. -/
structure Armed where
  op   : MmaOp
  t    : Nat
  stop : Bool
  deriving DecidableEq, Repr

/-- A fire in progress (R133, R140); slots of its rings once claimed. -/
structure Fire where
  id    : Nat
  op    : MmaOp
  chain : Option Nat
  first : Bool
  last  : Bool
  isEnd : Bool
  seed  : Word
  slots : Option (Nat × Nat)
  faddr : Nat
  sbIn  : Nat
  sbOut : Nat
  performed : Bool
  deriving DecidableEq, Repr

/-- An engine command that entered the range-overlap scoreboard and is not yet performed (R149). -/
structure SbEntry where
  id     : Nat
  ranges : List (Nat × Nat)
  writes : Bool
  deriving DecidableEq, Repr

/-- A TSWAP that waits for its partner (R148). -/
structure TswapReq where
  id   : Nat
  addr : Nat
  len  : Nat
  deriving DecidableEq, Repr

/-- An update-only line of the gather cache (R227): operands by byte offset in the line. -/
structure GatherLine where
  ctx  : Nat
  line : Nat
  op   : AmoOp
  size : Nat
  mode : BitVec 3
  ops  : List (Nat × Nat)
  seed : Word
  scope : Nat
  cls  : Nat
  ipc  : Pc
  user : Bool
  deriving DecidableEq, Repr

/-- A mailbox payload; `claim` marks a READY result, whose taking acquires (R266). -/
structure Payload where
  data : BitVec 32
  deriving DecidableEq, Repr

/-- A mailbox channel (R169). -/
structure Chan where
  xe   : Pc
  ae   : Pc
  val  : Bool
  cpri : BitVec 3
  blk  : Bool
  payloads : List Payload
  deriving DecidableEq, Repr

/-- The consumer's counts of one pipe (R206). -/
structure Pipe where
  head : Nat
  filled : Nat
  held : Nat
  deriving DecidableEq, Repr

/-- A claim slot of a tile (R259). -/
structure ClaimSlot where
  make : Bool
  die  : Nat
  key  : Nat
  tkt  : BitVec 32
  chan : Nat
  recd : Nat
  lease : Nat
  deriving DecidableEq, Repr

/-- An open stream handle (R276). -/
structure Handle where
  slot  : Nat
  write : Bool
  deriving DecidableEq, Repr

/-- A fibre token (R278): the 40 bits. -/
abbrev Token := BitVec 40

/-- One input edge of a fibre unit (R282): its tokens in order, the index of the oldest, the coordinate of the last element
of its level-0 fibre, and whether the stream's final stop has been consumed. -/
structure InPort where
  q    : List Token
  n    : Nat
  last : Option Nat
  top  : Bool
  deriving DecidableEq, Repr

/-- Run state of one fibre unit (R280 to R304): a decoupler's tokens `buf`; a scanner's fibre under way `cur` (next and end)
with its reference, and the stop it holds back; a repeater's reference `ref` when `cur` is some; what the last token was
`prev` (0 the start or a stop of level 1 up, 1 an element, 2 a STOP 0); a reducer's sum and fibre number; rounded results
`nr`; a writer's elements, stops, bytes and shortfall. -/
structure UnitState where
  in0   : InPort
  in1   : InPort
  buf   : List Token
  fin   : Bool
  held  : Bool
  cur   : Option (Nat × Nat)
  ref   : Nat
  prev  : Nat
  acc   : Option Nat
  k     : Nat
  nr    : Nat
  go    : Bool
  elems : Nat
  stops : Nat
  bytes : Nat
  short : Bool
  deriving DecidableEq, Repr

/-- Fibre status (R302). -/
inductive FibreSt | unconfigured | idle | running | faulted
  deriving DecidableEq, Repr

/-- The fibre units of an F-tile: configuration image (34 entries of 128 bits), run and status (R283 to R302). -/
structure Fibre where
  cfg    : List (BitVec 128)
  st     : FibreSt
  units  : List UnitState
  bar    : Nat
  mode   : BitVec 3
  seed   : Word
  opId   : Nat
  sb     : Nat
  ipc    : Pc
  trunc  : Bool
  fault  : Nat
  funit  : Nat
  ftok   : Nat
  deriving DecidableEq, Repr

/-- Life of the strand on a tile: none, placed and not yet started (R381), running, waiting in event mode
(R170), retired, or stopped by an abort, a cancel or a die that stopped. -/
inductive Phase | idle | placed | running | waiting | retired
  deriving DecidableEq, Repr

/-- A failed response held until user level (R310). -/
structure HeldTrap where
  cause : Nat
  front : Front
  ipc   : Pc
  val   : Word
  deriving DecidableEq, Repr

/-- A tile with its strand (R19, R26). Ports s24 to s31 and v28 to v31 are `sq` and `vq`. -/
structure Tile where
  phase : Phase
  frozen : Bool
  vf    : Nat
  inst  : Nat
  tidx  : Nat
  fa    : FrontState
  fx    : FrontState
  sq    : Vector (List (QSlot 64)) 8
  vq    : Vector (List (QSlot 2048)) 4
  vregs : Vector Vec 28
  kregs : Vector Word 8
  warn  : Word
  tid   : Word
  rank  : Word
  crect : Word
  ctx   : Word
  tvec  : Word
  tcause : Word
  tval  : Word
  epca  : Pc
  epcx  : Pc
  slv   : Bool
  held  : List HeldTrap
  accs  : Vector Acc 4
  rings : Vector Ring 8
  chains : Vector Chain 4
  mq    : List MCmd
  slots : Vector (Option Armed) 4
  fires : List Fire
  sb    : List SbEntry
  fills : List Fill
  tswaps : List TswapReq
  spad  : List Host.Cell
  code  : List Host.Cell
  gather : List GatherLine
  chans : Vector Chan 16
  arrivals : Nat
  seen  : Sparse Nat
  pipes : Sparse Pipe
  cslots : Vector (Option ClaimSlot) 16
  handles : Vector (Option Handle) 8
  fibre : Fibre
  tiles : Nat
  events : Bool
  deriving DecidableEq, Repr

/-- What an outstanding transaction or engine operation does (R248, R268). Addresses are virtual unless said; a peer is
`ownPeer` or template index × 256 + rank of the named strand (R197). -/
inductive TxnKind
  | ld (va n : Nat) (sx : Bool)
  | st (va n data : Nat)
  | vld (va : Nat)
  | vst (va : Nat) (data : Vec)
  | amo (va n : Nat) (op : AmoOp) (b : Nat) (ret : Bool)
  | cas (va n cmp new : Nat)
  | promote (va : Nat) (owner : Option (Nat × Nat))
  | ldx (peer addr n : Nat) (sx : Bool)
  | stx (peer addr n data : Nat)
  | twAmo (peer addr n : Nat) (op : AmoOp) (b : Nat) (ret : Bool)
  | twCas (peer addr n cmp new : Nat)
  | twVld (peer addr : Nat)
  | twVst (peer addr : Nat) (data : Vec)
  | fwpush (peer pipe dst size : Nat) (data : List Byte) (sb : Nat)
  | mcastWrite (peer addr n bar : Nat) (data : List (Nat × Byte)) (bytes parent err : Nat)
  | signal (peer chan : Nat) (payload : BitVec 32)
  | block (peer chan : Nat) (set : Bool)
  | copy (desc : BitVec 512) (conv : Bool) (bar sb : Nat) (slot : Option Nat)
  | mcast (desc : BitVec 512) (bar sb : Nat)
  | complete (bar bytes err : Nat) (close : Bool)
  | fibreRun
  | claimResult (slot : Nat) (status : Word) (handle : Word)
  | promoteSelf
  | scrub (va n : Nat)
  | arrive (rank : Nat)
  | reply
  deriving DecidableEq, Repr

/-- How a home answers (R248, R311, R312). -/
inductive Resp
  | pending
  | data (v : Vec)
  | retry
  | pageFault (va : Nat)
  | error (cause : Nat)
  | poisoned
  | gone
  deriving DecidableEq, Repr

/-- An outstanding transaction, message or engine operation of a strand; `tries` counts the CRC mismatches it met (R319). -/
structure Txn where
  id    : Nat
  tile  : Nat
  inst  : Nat
  tidx  : Nat
  front : Front
  ipc   : Pc
  user  : Bool
  ctx   : Nat
  kind  : TxnKind
  dest  : Dest
  places : Nat
  cls   : Nat
  scope : Nat
  acq   : Bool
  rel   : Bool
  mode  : BitVec 3
  seed  : Word
  resp  : Resp
  tval  : Word
  tries : Nat := 0
  deriving DecidableEq, Repr

/-- A FENCE of a strand whose earlier masked accesses are not all performed (R255). -/
structure Fence where
  tile  : Nat
  mask  : BitVec 8
  before : Nat
  deriving DecidableEq, Repr

/-- A line of a last-level cache slice (R218): 128 bytes, address of its first byte, physical line recorded. -/
structure Line where
  ctx   : Nat
  line  : Nat
  pa    : Nat
  way   : Nat
  dirty : Bool
  data  : List Byte
  poison : Bool
  deriving DecidableEq, Repr

/-- A translation-cache entry (R224). -/
structure TlbEntry where
  slice : Nat
  ctx  : Nat
  page : Nat
  size : Nat
  pa   : Nat
  r    : Bool
  w    : Bool
  uc   : Bool
  deriving DecidableEq, Repr

/-- A pinned line (R243): owner tile, scope of its region (0 or 1), and the owner's task. -/
structure Pin where
  ctx   : Nat
  line  : Nat
  owner : Nat
  scope : Nat
  inst  : Nat
  tidx  : Nat
  deriving DecidableEq, Repr

/-- State of a claim-table entry (R260). -/
inductive ClaimSt | free | making | ready | evicting
  deriving DecidableEq, Repr

/-- A waiter (R260) and the lease code of its own name word. -/
structure Waiter where
  pin  : Bool
  tile : Nat
  slot : Nat
  lease : Nat
  deriving DecidableEq, Repr

/-- A claim-table entry (R260). -/
structure Claim where
  dg    : BitVec 128
  fid   : BitVec 16
  ver   : BitVec 16
  ctx   : Nat
  st    : ClaimSt
  mtile : Nat
  mslot : Nat
  lease : Nat
  lst   : BitVec 30
  tkt   : BitVec 32
  wl    : List Waiter
  handle : Word
  pins  : Nat
  last  : BitVec 46
  hold  : Bool
  deriving DecidableEq, Repr

/-- An operand descriptor (R159). -/
structure OpDesc where
  mode : Nat
  sen  : Bool
  sl   : Nat
  len  : Nat
  dst  : Nat
  va   : Nat
  deriving DecidableEq, Repr

/-- State of a task record (R161). -/
inductive RecSt | free | waiting | fetching | runnable | running | done | parked | cancelled
  deriving DecidableEq, Repr

/-- A task record (R158) with what the dispatcher keeps about it: strands not retired, tiles by rank, aborts
so far, kind of the fault it is parked with, cycle its strands started, and its spill slot. -/
structure Rec where
  ctx   : Nat
  inst  : Nat
  tidx  : Nat
  gang  : Nat
  st    : RecSt
  pri   : Nat
  chk   : Bool
  kind  : Nat
  ev    : Bool
  dep   : Nat
  opend : Nat
  tiles : Nat
  aent  : Nat
  xent  : Nat
  nsx   : Nat
  sxva  : Nat
  succ  : List Nat
  op0   : OpDesc
  op1   : OpDesc
  op2   : OpDesc
  seed  : Word
  arg1  : Word
  arg0  : Word
  slen  : Nat
  sva   : Nat
  cm1   : Nat
  cva   : Nat
  left  : Nat
  place : List Nat
  crect : Nat
  aborts : Nat
  parkKind : Nat
  started : Word
  joined : Word
  spill : Option Nat
  reserve : Bool
  deriving DecidableEq, Repr

/-- Gate of a share on die 1 (R351). -/
inductive Gate | opened | waiting
  deriving DecidableEq, Repr

/-- A graph-table entry (R155): one share of a graph. -/
structure Graph where
  ctx   : Nat
  inst  : Nat
  phase : Nat
  wdog  : Nat
  left  : Nat
  nrec  : Nat
  span  : Bool
  gate  : Gate
  reply : Option Nat
  src  : Option (Nat × Nat)
  spl   : Bool
  prog  : Word
  deriving DecidableEq, Repr

/-- A unit waiting for placement (R185), named by the task or the gang head. -/
structure RUnit where
  pri  : Nat
  inst : Nat
  tidx : Nat
  byp  : Nat
  deriving DecidableEq, Repr

/-- Which transfer an operand token ends (R190). -/
inductive XferKind | code | image | op (k : Nat)
  deriving DecidableEq, Repr

/-- An operand transfer under way to one tile (R190); `bytes` holds what its transfer unit has read, once the unit has
started (R191). -/
structure Xfer where
  id   : Nat
  inst : Nat
  tidx : Nat
  rank : Nat
  what : XferKind
  bytes : Option (List Byte)
  deriving DecidableEq, Repr

/-- A launch queue (R174). -/
structure LaunchQ where
  lqd : BitVec 128
  ri  : Nat
  wi  : Nat
  err : Nat
  st  : Nat
  deriving DecidableEq, Repr

/-- An entry of the pre-decrement buffer (R354). -/
structure PreDec where
  ctx  : Nat
  inst : Nat
  tidx : Nat
  cnt  : Nat
  deriving DecidableEq, Repr

/-- A packet with a spanning sequence number that the other die has still to take (R352). -/
structure SpanPkt where
  q     : Nat
  ctx   : Nat
  inst  : Nat
  bytes : List Byte
  reply : Option Nat
  spl   : Bool
  deriving DecidableEq, Repr

/-- A proxy pair (R180, R359): its register, and the pushes held for room. -/
structure Proxy where
  reg  : BitVec 512
  held : List Nat
  timed : Bool
  since : Word
  deriving DecidableEq, Repr

/-- One die's dispatcher (R174 to R195, R351 to R360). -/
structure Die where
  lq     : Sparse LaunchQ
  turn   : Nat
  lastq  : Nat
  deficit : Sparse Int
  recs   : List Rec
  graphs : List Graph
  ready  : List RUnit
  resv   : Option (Nat × Nat × List Nat)
  xfers  : List Xfer
  ovr    : BitVec 128
  nspill : Nat
  frr    : BitVec 128
  frBuf  : List (BitVec 256)
  rcc    : BitVec 128
  irq0   : BitVec 128
  irq1   : BitVec 128
  predec : List PreDec
  nextInst : Nat
  prox   : Sparse Proxy
  route  : Sparse (BitVec 8)
  hold   : Sparse Word
  cw     : Nat
  stopped : Bool
  deriving DecidableEq, Repr

/-- A context (R156, R181, R182, R265): phases by number hold (state, counter). -/
structure Ctx where
  live  : Bool
  root  : Nat
  vf    : Nat
  sys   : Bool
  tv    : Word
  evb   : Nat
  evm   : Nat
  evwi  : Nat
  evri  : Nat
  evStop : Bool
  phases : Sparse (Nat × Nat)
  jobCnt : Nat
  ended : Bool
  jobDone : Bool
  cancelled : Bool
  deriving DecidableEq, Repr

/-- A virtual function (R221, R323, R330 to R334). `image` lists the tiles of a frozen one: the former tile and the key
under which the tile's whole state is kept among `tiles` (R326, log 13). -/
structure Vf where
  part   : BitVec 128
  mon    : Word
  buckets : Sparse Nat
  nstart : Nat
  perf   : Vector (BitVec 48) 4
  cfg    : Word
  share  : BitVec 16
  irq    : BitVec 128
  frozen : Bool
  image  : List (Nat × Nat)
  since  : Word
  sched  : Bool
  deriving DecidableEq, Repr

/-- Owner of a marver slot (R292). -/
inductive Owner | free | ctx (c : Nat) | everyone
  deriving DecidableEq, Repr

/-- A marver configuration slot: its owner and its 448-byte image (R293). -/
structure MSlot where
  owner : Owner
  image : BitVec 3584
  loaded : Bool
  deriving DecidableEq, Repr

/-- A token of a jack channel: 32-bit container and epoch bit (R362). -/
structure JTok where
  v : BitVec 32
  epoch : Bool
  deriving DecidableEq, Repr

/-- A jack (R361, R362): graph in force, the graph kept for the old epoch, the pending image, context of each, inbound
channels, adder outputs by consumer, outbound channels, element counts, and the flits sent on through it. Its port core is the pseudo-tile 0x1000 + port. -/
structure Jack where
  graph : Option (Nat × BitVec 8192)
  old   : Option (Nat × BitVec 8192)
  pend  : Option (Nat × BitVec 8192)
  epoch : Bool
  inq   : Sparse (List JTok)
  addq  : Sparse (List JTok)
  outq  : Sparse (List JTok)
  cnt   : Sparse Nat
  sent  : List Flit
  deriving DecidableEq, Repr

/-- State of the lehr (R344). -/
inductive LehrSt | idle | armed | opened | stopped
  deriving DecidableEq, Repr

/-- The checkpoint engine (R366, R367). -/
structure Lehr where
  desc  : BitVec 512
  st    : LehrSt
  epoch : BitVec 32
  dirty : List Nat
  todo  : List Nat
  count : Nat
  opened : Word
  disarm : List Nat
  due   : Bool
  deriving DecidableEq, Repr

/-- Management window and flash (R373 to R379, R382). -/
structure Mg where
  ready : Bool
  min   : Bool
  d1up  : Bool
  stage : Nat
  lcs   : BitVec 2
  att   : Nat
  cause : Nat
  unit  : Nat
  mod   : BitVec 9
  deriving DecidableEq, Repr

/-- The window-register write that the Cord interface presents (R179): die of the window, index of the register,
offset in the aperture, width of the access and the register's whole new value. -/
structure Bus where
  die : Nat
  idx : Nat
  off : Nat
  n   : Nat
  val : BitVec 512
  deriving DecidableEq, Repr

/-- Who moves next (log 2): a front of a tile, an item of the agenda, or an enabled step of the part itself. -/
inductive Mover
  | front (t : Nat) (f : Front)
  | event (k : Nat)
  | own (k : Nat)
  deriving DecidableEq, Repr

/-- The whole module. -/
structure State where
  cyc    : Word
  free   : Nat
  tape   : List Mover
  agenda : List Instr
  focus  : Nat × Front
  nextId : Nat
  tiles  : Sparse Tile
  pmem   : List Host.Cell
  poison : List Nat
  llc    : List Line
  tlb    : List TlbEntry
  pins   : List Pin
  txns   : List Txn
  fences : List Fence
  claims : Sparse Claim
  die0   : Die
  die1   : Die
  ctxs   : Sparse Ctx
  ctb    : Word
  cxc    : Word
  frc    : BitVec 128
  spanQ  : Nat
  spanIn : List SpanPkt
  vfs    : Sparse Vf
  mslots : Sparse MSlot
  jacks  : Sparse Jack
  lehr   : Lehr
  mg     : Mg
  bus    : Bus
  hostRead : Word
  hostErr : Bool
  ualReply : Vec
  ualErr : Bool
  deriving DecidableEq, Repr

/-- Why a step stops for good. -/
inductive Fault
  /-- Raised by no meaning of this model: every fault of the spec is a trap, an abort or a fault record, which are next
  states. Kept so that the type has a named reason; safe. -/
  | unreachable
  deriving DecidableEq, Repr

/-- Why an instruction has no meaning. -/
inductive Refusal
  /-- Raised by an arm of exec that has no meaning yet; safe. -/
  | notModelled (mnemonic : String)
  deriving DecidableEq, Repr

/-! ### Reset -/

/-- A front at strand start (R26). -/
def FrontState.reset : FrontState :=
  { pc := 0, regs := Vector.replicate 24 0, pend := [], rmode := 0, sgen := 0, hints := {}, ended := false, endPc := 0,
    inEret := false, wait := .none }

/-- An accumulator after reset: +0 in every element, tag XF96 (R41). -/
def Acc.reset : Acc := { elems := [], int := false }

/-- An unset ring (R26). -/
def Ring.reset : Ring := { base := 0, slot := 0, count := 0, head := 0, tail := 0, filled := 0, claimed := 0 }

/-- An unconfigured chain (R137). -/
def Chain.reset : Chain := { desc := 0, st := .unconfigured, cnt := [0, 0, 0, 0], t := 0, done := 0, err := false, stopped := false }

/-- A closed channel (R169). -/
def Chan.reset : Chan := { xe := 0, ae := 0, val := false, cpri := 0, blk := false, payloads := [] }

/-- Unconfigured fibre units (R302). -/
def Fibre.reset : Fibre :=
  { cfg := [], st := .unconfigured, units := [], bar := 0, mode := 0, seed := 0, opId := 0, sb := 0, ipc := 0, trunc := false,
    fault := 0, funit := 0, ftok := 0 }

/-- A tile after a wipe (R375): no strand, every memory and register at its Reset column; masks all ones (R26). -/
def Tile.reset : Tile :=
  { phase := .idle, frozen := false, vf := 0, inst := 0, tidx := 0, fa := .reset, fx := .reset,
    sq := Vector.replicate 8 [], vq := Vector.replicate 4 [], vregs := Vector.replicate 28 0,
    kregs := Vector.replicate 8 (BitVec.allOnes 64), warn := 0, tid := 0, rank := 0, crect := 0, ctx := 0, tvec := 0, tcause := 0, tval := 0,
    epca := 0, epcx := 0, slv := false, held := [], accs := Vector.replicate 4 .reset, rings := Vector.replicate 8 .reset,
    chains := Vector.replicate 4 .reset, mq := [], slots := Vector.replicate 4 none, fires := [], sb := [], fills := [],
    tswaps := [], spad := [], code := [], gather := [], chans := Vector.replicate 16 .reset, arrivals := 0, seen := [],
    pipes := [], cslots := Vector.replicate 16 none, handles := Vector.replicate 8 none, fibre := .reset, tiles := 0, events := false }

/-- A dispatcher after reset (R174 to R180); its carve-out count is log 5. -/
def Die.reset : Die :=
  { lq := [], turn := 0, lastq := 0, deficit := [], recs := [], graphs := [], ready := [], resv := none, xfers := [], ovr := 0, nspill := 0, frr := 0,
    frBuf := [], rcc := 0, irq0 := 0, irq1 := 0, predec := [], nextInst := 0, prox := [], route := [], hold := [], cw := 8,
    stopped := false }

/-- A free claim-table entry (R260). -/
def Claim.reset : Claim :=
  { dg := 0, fid := 0, ver := 0, ctx := 0, st := .free, mtile := 0, mslot := 0, lease := 0, lst := 0, tkt := 0, wl := [], handle := 0,
    pins := 0, last := 0, hold := false }

/-- A context that is not live (R182). -/
def Ctx.reset : Ctx :=
  { live := false, root := 0, vf := 0, sys := false, tv := 0, evb := 0, evm := 0, evwi := 0, evri := 0, evStop := false, phases := [],
    jobCnt := 0, ended := false, jobDone := false, cancelled := false }

/-- A virtual function after reset (R323, R331, R332); no way is its own (log 5). -/
def Vf.reset : Vf :=
  { part := 0, mon := 0, buckets := [], nstart := 0, perf := Vector.replicate 4 0, cfg := 0, share := 0, irq := 0, frozen := false,
    image := [], since := 0, sched := true }

/-- A free marver slot (R292). -/
def MSlot.reset : MSlot := { owner := .free, image := 0, loaded := false }

/-- A jack with no graph (R361). -/
def Jack.reset : Jack :=
  { graph := none, old := none, pend := none, epoch := false, inq := [], addq := [], outq := [], cnt := [], sent := [] }

/-- The idle lehr (R344). -/
def Lehr.reset : Lehr :=
  { desc := 0, st := .idle, epoch := 0, dirty := [], todo := [], count := 0, opened := 0, disarm := [], due := false }

/-- The management registers when power comes up (R379); the flash's contents are log 8. -/
def Mg.reset : Mg :=
  { ready := false, min := false, d1up := false, stage := 1, lcs := 1, att := 0, cause := 0, unit := 0, mod := 0 }

/-- The module right after reset: every memory wiped, no strand, not ready; the start (R373) stands on the agenda. -/
def State.reset : State :=
  { cyc := 0, free := 0, tape := [], agenda := [.powerGood (.ready none)], focus := (0, .a), nextId := 0, tiles := [],
    pmem := [], poison := [], llc := [], tlb := [], pins := [], txns := [], fences := [], claims := [], die0 := .reset, die1 := .reset,
    ctxs := [], ctb := 0, cxc := 0, frc := 0, spanQ := 0, spanIn := [], vfs := [], mslots := [], jacks := [], lehr := .reset,
    mg := .reset, bus := { die := 0, idx := 0, off := 0, n := 0, val := 0 }, hostRead := 0, hostErr := false, ualReply := 0, ualErr := false }

end Sys2Proof.Machine
end

