-- ==== Sys2Proof/Machine/Ops.lean ====
section
/-! DEFINITION. The named operations over the state: sparse data, memory bytes, tiles, fronts, the agenda, fault
records and interrupts, the claim table's hand-over, task abort, taking a trap and returning from one. -/

namespace Sys2Proof.Machine

/-- What a step answers. -/
abbrev Out := Host.Outcome State Fault Refusal

/-! ### Sparse data -/

/-- The value at a key; the default where none is listed. -/
def Sparse.get {α : Type} (d : α) : Sparse α → Nat → α
  | [], _ => d
  | (j, v) :: r, k => if j = k then v else Sparse.get d r k

/-- Writes a key, keeping the canonical form: writing the default removes the entry. -/
def Sparse.set {α : Type} [DecidableEq α] (d : α) : Sparse α → Nat → α → Sparse α
  | [], k, v => if v = d then [] else [(k, v)]
  | (j, u) :: r, k, v =>
    if k < j then (if v = d then (j, u) :: r else (k, v) :: (j, u) :: r)
    else if k = j then (if v = d then r else (k, v) :: r)
    else (j, u) :: Sparse.set d r k v

/-- The canonical form: keys strictly rising from `lo` on, no entry equal to the default. -/
def Sparse.wfFrom {α : Type} [DecidableEq α] (d : α) : Nat → Sparse α → Bool
  | _, [] => true
  | lo, (j, v) :: r => decide (lo ≤ j) && decide (v ≠ d) && Sparse.wfFrom d (j + 1) r

/-! ### Memory bytes. An unlisted byte reads as zero: every memory is wiped (R375). -/

/-- What a byte that nothing has written reads as (R375; log 4 for host and pod memory). -/
def unlisted : Byte := 0

/-- The canonical form of a memory (R375). -/
def Memory.wf (m : List Host.Cell) : Bool := Sparse.wfFrom unlisted 0 m

/-- One byte. -/
def memGet (m : List Host.Cell) (a : Nat) : Byte := Sparse.get unlisted m a

/-- One byte written. -/
def memSet (m : List Host.Cell) (a : Nat) (v : Byte) : List Host.Cell := Sparse.set unlisted m a v

/-- The bytes a to a + n − 1, lowest first. -/
def memBytes (m : List Host.Cell) (a : Nat) : Nat → List Byte
  | 0 => []
  | n + 1 => memGet m a :: memBytes m (a + 1) n

/-- Bytes written from a upwards. -/
def memPut (m : List Host.Cell) (a : Nat) : List Byte → List Host.Cell
  | [] => m
  | b :: bs => memPut (memSet m a b) (a + 1) bs

/-- Bytes as one little-endian number (R11). -/
def leNat : List Byte → Nat
  | [] => 0
  | b :: bs => b.toNat + 256 * leNat bs

/-- A number as n little-endian bytes (R11). -/
def leBytes : Nat → Nat → List Byte
  | 0, _ => []
  | n + 1, v => BitVec.ofNat 8 v :: leBytes n (v / 256)

/-- n bytes at a as a number. -/
def memNat (m : List Host.Cell) (a n : Nat) : Nat := leNat (memBytes m a n)

/-- The n low bytes of v written at a. -/
def memPutNat (m : List Host.Cell) (a n v : Nat) : List Host.Cell := memPut m a (leBytes n v)

/-! ### Bits -/

/-- Bits [hi:lo] of a bit string as a number (R15). -/
def bits {w : Nat} (x : BitVec w) (hi lo : Nat) : Nat := fld x.toNat hi lo

/-- Bits [hi:lo] of x replaced by the low bits of v. -/
def setBits {w : Nat} (x : BitVec w) (hi lo v : Nat) : BitVec w :=
  let m := 2 ^ (hi - lo + 1)
  BitVec.ofNat w (x.toNat - fld x.toNat hi lo * 2 ^ lo + v % m * 2 ^ lo)

/-- A w-bit two's-complement number (R80). -/
def signedOf (w n : Nat) : Int := if n % 2 ^ w < 2 ^ (w - 1) then ((n % 2 ^ w : Nat) : Int) else ((n % 2 ^ w : Nat) : Int) - 2 ^ w

/-- An integer modulo 2^w (R16). -/
def wrapInt (w : Nat) (x : Int) : Nat := (x % (2 ^ w : Int)).toNat

/-- Sign extension of the low n bits to w bits (R15). -/
def sext (n w v : Nat) : Nat := wrapInt w (signedOf n v)

/-! ### Tiles and fronts -/

/-- Highest local addresses (R21). -/
def spadEnd : Nat := 0x100000
def codeEnd : Nat := 0x110000

/-- The die of a tile id (R3). -/
def dieOf (t : Nat) : Nat := t / 256 % 2
def xOf (t : Nat) : Nat := t % 16
def yOf (t : Nat) : Nat := t / 16 % 16

/-- The page that holds a tile (R3). -/
def pageOf (t : Nat) : Nat := yOf t / 2 * 4 + xOf t / 4

/-- An F-tile: column 3 of its page (R3). -/
def isF (t : Nat) : Bool := t % 4 == 3

/-- The key of a jack's port core among the tiles (R361). -/
def jackTile (p : Nat) : Nat := 0x1000 + p

/-- The key names a port core. -/
def isJack (t : Nat) : Bool := t / 0x1000 == 1

/-- The key under which the state of a frozen tile of a virtual function is kept (R326, log 13), and a key of that kind. -/
def frozenKey (v t : Nat) : Nat := 0x10000 * (v + 1) + t
def isFrozenKey (t : Nat) : Bool := decide (0x10000 ≤ t)

def State.tile (s : State) (t : Nat) : Tile := Sparse.get Tile.reset s.tiles t
def State.setTile (s : State) (t : Nat) (T : Tile) : State := { s with tiles := Sparse.set Tile.reset s.tiles t T }
def State.modTile (s : State) (t : Nat) (f : Tile → Tile) : State := s.setTile t (f (s.tile t))

def Tile.front (T : Tile) : Front → FrontState
  | .a => T.fa
  | .x => T.fx

def Tile.setFront (T : Tile) : Front → FrontState → Tile
  | .a, F => { T with fa := F }
  | .x, F => { T with fx := F }

def Tile.modFront (T : Tile) (f : Front) (g : FrontState → FrontState) : Tile := T.setFront f (g (T.front f))

def Front.other : Front → Front
  | .a => .x
  | .x => .a

/-- Code of a front in tcause (R308). -/
def Front.code : Front → Nat
  | .a => 0
  | .x => 1

/-- The tile and the front that issue now. -/
def State.cur (s : State) : Tile := s.tile s.focus.1

/-- Sticky bits of warn (R339), by bit number. -/
def Tile.warnBit (T : Tile) (b : Nat) : Tile := { T with warn := T.warn ||| (1#64 <<< b) }

/-- Sets a sticky bit when a condition holds. -/
def Tile.warnIf (T : Tile) (b : Nat) (c : Bool) : Tile := if c then T.warnBit b else T

/-- A front issues only while its strand runs, is not frozen, has not ended and does not wait in ERET (R23, R31, R337). -/
def Tile.runs (T : Tile) (f : Front) : Bool :=
  T.phase == .running && !T.frozen && !(T.front f).ended && !(T.front f).inEret

/-! ### Dies, contexts, virtual functions -/

def State.die (s : State) (d : Nat) : Die := if d = 0 then s.die0 else s.die1
def State.setDie (s : State) (d : Nat) (D : Die) : State := if d = 0 then { s with die0 := D } else { s with die1 := D }
def State.modDie (s : State) (d : Nat) (f : Die → Die) : State := s.setDie d (f (s.die d))

def State.ctx (s : State) (c : Nat) : Ctx := Sparse.get Ctx.reset s.ctxs c
def State.setCtx (s : State) (c : Nat) (C : Ctx) : State := { s with ctxs := Sparse.set Ctx.reset s.ctxs c C }

def State.vf (s : State) (v : Nat) : Vf := Sparse.get Vf.reset s.vfs v
def State.setVf (s : State) (v : Nat) (V : Vf) : State := { s with vfs := Sparse.set Vf.reset s.vfs v V }

/-- A fresh serial number. -/
def State.fresh (s : State) : Nat × State := (s.nextId, { s with nextId := s.nextId + 1 })

/-- The argument of a free value for use k of this step. -/
def State.freeAt (s : State) (k : Nat) : Nat := s.free * 2 ^ 64 + k

/-- A message joins the agenda behind all others. -/
def State.post (s : State) (e : Instr) : State := { s with agenda := s.agenda ++ [e] }

/-- An outstanding transaction enters, with the step that carries it on. -/
def State.launch (s : State) (x : Txn) (e : Nat → Instr) : State :=
  let (id, s) := s.fresh
  { s with txns := s.txns ++ [{ x with id := id }] }.post (e id)

def State.txn? (s : State) (id : Nat) : Option Txn := s.txns.find? (fun x => x.id == id)
def State.modTxn (s : State) (id : Nat) (f : Txn → Txn) : State :=
  { s with txns := s.txns.map (fun x => if x.id == id then f x else x) }
def State.dropTxn (s : State) (id : Nat) : State := { s with txns := s.txns.filter (fun x => x.id != id) }

/-! ### Performance counters (R332 to R334) -/

/-- Adds an event to the selected counters of a scheduled VF; a wrap is carried on by its own step. -/
def perfAddOne (s : State) (v code n k : Nat) : State :=
  let V := s.vf v
  let sel := bits V.cfg (16 * k + 5) (16 * k)
  if sel = code ∧ V.sched then
    let c := (V.perf.toList.getD k 0).toNat + n
    let s := s.setVf v { V with perf := V.perf.setIfInBounds k (BitVec.ofNat 48 c) }
    if c ≥ 2 ^ 48 then s.post (.counterWrap v k) else s
  else s

def State.count (s : State) (v code n : Nat) : State :=
  if n = 0 then s else [0, 1, 2, 3].foldl (fun s k => perfAddOne s v code n k) s

/-! ### Interrupts and fault records (R180, R314) -/

/-- Physical base of host memory (R216). -/
def hostBase : Nat := 0x4000000000000

/-- An interrupt: a 4-byte write over the Cord, bits [3:0] of data replaced by the source code (R180). -/
def State.interrupt (s : State) (entry : BitVec 128) (code : Nat) : State :=
  if bits entry 64 64 = 1 then
    { s with pmem := memPutNat s.pmem (hostBase + bits entry 127 78) 4 (bits entry 31 4 * 16 + code % 16) }
  else s

/-- A fault or error record, 32 bytes (R314). -/
structure FaultRec where
  va : Nat := 0
  kind : Nat
  aborts : Nat := 0
  ctx : Nat := 0
  inst : Nat := 0
  tidx : Nat := 0
  die : Nat := 0
  tile : Nat := 0
  cls : Nat := 7
  info : Nat := 0
  deriving DecidableEq, Repr

def FaultRec.bits (r : FaultRec) (cyc : Word) : BitVec 256 :=
  BitVec.ofNat 256 (r.va % 2 ^ 56 * 2 ^ 200 + r.kind % 2 ^ 8 * 2 ^ 192 + r.aborts % 2 ^ 8 * 2 ^ 184 + r.ctx % 2 ^ 10 * 2 ^ 174 +
    r.inst % 2 ^ 16 * 2 ^ 158 + r.tidx % 2 ^ 11 * 2 ^ 147 + r.die % 2 * 2 ^ 146 + r.tile % 2 ^ 9 * 2 ^ 137 + r.cls % 2 ^ 3 * 2 ^ 134 +
    cyc.toNat * 2 ^ 64 + r.info % 2 ^ 64)

/-- Whether the fault ring is registered and has room (R180). -/
def frrRoom (v : BitVec 128) : Bool :=
  decide (4 ≤ bits v 77 73) && decide (bits v 77 73 ≤ 20) && decide ((bits v 47 24 + 2 ^ 24 - bits v 23 0) % 2 ^ 24 < 2 ^ bits v 77 73)

/-- One record written into the ring: record wi, then wi + 1, then die interrupt entry 0 (R180). -/
def frrWrite (s : State) (d : Nat) (r : BitVec 256) : State :=
  let v := (s.die d).frr
  let i := bits v 47 24 % 2 ^ bits v 77 73
  let s := { s with pmem := memPutNat s.pmem (hostBase + bits v 127 78 + 32 * i) 32 r.toNat }
  (s.modDie d (fun D => { D with frr := setBits v 47 24 (bits v 47 24 + 1) })).interrupt (s.die d).irq0 0

/-- A record goes to the die's fault ring, to its on-die buffer of 256 records, or is counted as lost (R180). -/
def State.record (s : State) (d : Nat) (r : FaultRec) : State :=
  let b := r.bits s.cyc
  let D := s.die d
  if frrRoom D.frr && D.frBuf.isEmpty then frrWrite s d b
  else if D.frBuf.length < 256 then s.setDie d { D with frBuf := D.frBuf ++ [b] }
  else s.setDie d { D with frr := setBits D.frr 63 48 (min 65535 (bits D.frr 63 48 + 1)) }

/-- Records waiting on the die enter the ring while it has room. -/
def drainFaults (s : State) (d : Nat) : Nat → State
  | 0 => s
  | k + 1 =>
    match (s.die d).frBuf with
    | [] => s
    | b :: rest => if frrRoom (s.die d).frr then drainFaults (frrWrite (s.modDie d (fun D => { D with frBuf := rest })) d b) d k else s

/-! ### The claim table's home: hand-over and withdrawal (R259 to R263) -/

def State.claim (s : State) (k : Nat) : Claim := Sparse.get Claim.reset s.claims k
def State.setClaim (s : State) (k : Nat) (c : Claim) : State := { s with claims := Sparse.set Claim.reset s.claims k c }

/-- Key of an entry: die, set and way. -/
def claimKey (die set way : Nat) : Nat := die * 2 ^ 21 + set * 8 + way

/-- A claim status word (R261). -/
def claimStatus (code key pos : Nat) (tkt : Nat) : Word :=
  BitVec.ofNat 64 (tkt % 2 ^ 32 * 2 ^ 32 + key / 2 ^ 21 % 2 * 2 ^ 29 + key / 8 % 2 ^ 18 * 2 ^ 11 + key % 8 * 2 ^ 8 + pos % 16 * 2 ^ 4 + code)

/-- A result for a waiter sets out to its tile (R264). -/
def sendClaimResult (s : State) (tile slot : Nat) (status handle : Word) : State :=
  let T := s.tile tile
  s.launch { id := 0, tile := tile, inst := T.inst, tidx := T.tidx, front := .a, ipc := 0, user := true, ctx := T.ctx.toNat,
             kind := .claimResult slot status handle, dest := .none, places := 0, cls := 0, scope := 4, acq := false, rel := false,
             mode := 0, seed := 0, resp := .pending, tval := 0 } .claimResultDelivery

/-- The entry passes to its oldest waiter, or becomes Free; its ticket stays (R260, R263). -/
def handOver (s : State) (k : Nat) : State :=
  let e := s.claim k
  match e.wl with
  | w :: rest =>
    let t := e.tkt + 1
    let s := s.setClaim k { e with mtile := w.tile, mslot := w.slot, lease := w.lease, tkt := t, lst := BitVec.ofNat 30 (bits s.cyc 45 16),
                                   wl := rest, hold := false }
    sendClaimResult s w.tile w.slot (claimStatus 0 k 0 t.toNat) 0
  | [] => s.setClaim k { Claim.reset with tkt := e.tkt }

/-- One claim slot of a tile is released: a make is abandoned, a wait withdrawn (R259); a waiter whose MAKER result is on
its way abandons as well. -/
def releaseSlot (s : State) (t j : Nat) (c : ClaimSlot) : State :=
  let e := s.claim c.key
  if e.st != .making then s
  else if e.mtile = t ∧ e.mslot = j ∧ (c.make = false ∨ e.tkt = c.tkt) then handOver s c.key
  else if c.make then s
  else s.setClaim c.key { e with wl := e.wl.filter (fun w => !(w.tile == t && w.slot == j)) }

/-- Every claim slot of a tile is released (R259). -/
def releaseSlots (s : State) (t : Nat) : State :=
  ((s.tile t).cslots.toList.zipIdx).foldl (fun s c => match c.1 with | some c' => releaseSlot s t c.2 c' | none => s) s

/-! ### Records of the dispatcher -/

def State.rec? (s : State) (d inst tidx : Nat) : Option Rec := (s.die d).recs.find? (fun r => r.inst == inst && r.tidx == tidx)
def State.modRec (s : State) (d inst tidx : Nat) (f : Rec → Rec) : State :=
  s.modDie d (fun D => { D with recs := D.recs.map (fun r => if r.inst == inst && r.tidx == tidx then f r else r) })

def State.graph? (s : State) (d inst : Nat) : Option Graph := (s.die d).graphs.find? (fun g => g.inst == inst)
def State.modGraph (s : State) (d inst : Nat) (f : Graph → Graph) : State :=
  s.modDie d (fun D => { D with graphs := D.graphs.map (fun g => if g.inst == inst then f g else g) })

/-- Progress of a graph, for its watchdog (R173). -/
def State.progress (s : State) (d inst : Nat) : State := s.modGraph d inst (fun g => { g with prog := s.cyc })

/-- Members of a record's gang on its die (R167). -/
def State.gang (s : State) (d : Nat) (r : Rec) : List Rec := (s.die d).recs.filter (fun q => q.inst == r.inst && q.gang == r.gang)

/-- States 2 to 4 (R313). -/
def RecSt.inFlight : RecSt → Bool
  | .fetching | .runnable | .running => true
  | _ => false

/-- A task joins its queue's tail on entering state 2; a gang when its last member does (R185). -/
def enqueue (s : State) (d inst tidx : Nat) : State :=
  match s.rec? d inst tidx with
  | none => s
  | some r =>
    let rest := (s.gang d r).filter (fun q => q.st != .free && q.st != .done && q.st != .cancelled)
    if rest.all (fun q => q.st == .fetching) then
      let pri := match s.rec? d inst r.gang with | some h => h.pri | none => r.pri
      let s := s.modDie d (fun D => { D with ready := D.ready ++ [{ pri := pri, inst := inst, tidx := r.gang, byp := 0 }] })
      (rest.foldl (fun s q => s.modRec d inst q.tidx (fun q => { q with joined := s.cyc })) s).progress d inst
    else s.progress d inst

/-- Charge of a task that leaves state 4 (R183), clamped at −2^47. -/
def charge (s : State) (d : Nat) (r : Rec) : State :=
  if r.st == .running then
    let used : Int := ((s.cyc - r.started).toNat * r.tiles : Nat)
    s.modDie d (fun D => { D with deficit := Sparse.set 0 D.deficit r.ctx (max (-(2 ^ 47)) (Sparse.get 0 D.deficit r.ctx - used)) })
  else s

/-- The strand of a tile stops for good (R157, R313): queues, hints, held responses, commands and fills are
discarded; its registers and memories stay until the next start clears them. -/
def Tile.stopStrand (T : Tile) : Tile :=
  { T with phase := .idle, sq := Vector.replicate 8 [], vq := Vector.replicate 4 [], held := [], mq := [], slots := Vector.replicate 4 none,
           fires := [], sb := [], fills := [], tswaps := [], gather := [], cslots := Vector.replicate 16 none,
           handles := Vector.replicate 8 none,
           fibre := { T.fibre with st := (if T.fibre.st == .running then .idle else T.fibre.st), units := [] },
           fa := { T.fa with hints := {}, pend := [], wait := .none, inEret := false },
           fx := { T.fx with hints := {}, pend := [], wait := .none, inEret := false }, slv := false }

/-- A frozen tile is dropped from its image (R327). -/
def dropImage (s : State) (k : Nat) : State :=
  let v := k / 0x10000 - 1
  let s := s.setTile k Tile.reset
  s.setVf v { s.vf v with image := (s.vf v).image.filter (fun p => p.2 != k) }

/-- A tile is taken from its strand by an abort or a cancel: claim slots released, lines unpinned without a
release (R245), its accesses discarded (R157, R313). -/
def dropStrand (s : State) (t : Nat) : State :=
  let s := releaseSlots s t
  let s := { s with pins := s.pins.filter (fun p => p.owner != t), fences := s.fences.filter (fun f => f.tile != t),
                    txns := s.txns.filter (fun x => x.tile != t || (match x.kind with | .claimResult .. => true | _ => false)) }
  if isFrozenKey t then dropImage s t else s.modTile t Tile.stopStrand

/-- The tiles a placed record holds are freed. -/
def dropTiles (s : State) (r : Rec) : State := r.place.foldl dropStrand s

/-- A record leaves its placement: tiles, transfers and its place in the ready queues. -/
def unplace (s : State) (d : Nat) (r : Rec) : State :=
  let s := dropTiles (charge s d r) r
  s.modDie d (fun D => { D with xfers := D.xfers.filter (fun x => !(x.inst == r.inst && x.tidx == r.tidx)),
                                ready := D.ready.filter (fun u => !(u.inst == r.inst && u.tidx == r.gang)),
                                resv := match D.resv with | some (i, j, _) => if i = r.inst ∧ j = r.gang then none else D.resv | none => none })

/-- Task abort of a record, and of its whole gang (R313 to R315). -/
def abortRecord (s : State) (d inst tidx tile kind va info cls : Nat) : State :=
  match s.rec? d inst tidx with
  | none => s
  | some r =>
    let counts := kind = 0x41 ∨ kind = 0x42
    let n := if counts then r.aborts + 1 else r.aborts
    let others := (s.gang d r).filter (fun q => q.tidx != tidx && q.st.inFlight)
    let s := others.foldl (fun s q => (unplace s d q).modRec d inst q.tidx (fun q => { q with st := .fetching, opend := 0, place := [], left := 0 })) s
    let s := (unplace s d r).modRec d inst tidx
      (fun q => { q with st := .parked, opend := 0, place := [], left := 0, aborts := n, parkKind := kind })
    let s := (s.record d { va := va, kind := kind, aborts := n, ctx := r.ctx, inst := inst, tidx := tidx, die := d, tile := tile, cls := cls,
                           info := info }).progress d inst
    if counts ∧ n < 3 then enqueue (s.modRec d inst tidx (fun q => { q with st := .fetching })) d inst tidx else s

/-- Task abort of the strand on a tile (R313). A port core has no task: it stops. -/
def taskAbort (s : State) (t kind va info : Nat) : State :=
  let T := s.tile t
  if isJack t then s.modTile t (fun T => { T with phase := .retired })
  else abortRecord s (dieOf t) T.inst T.tidx t kind va info 2

/-! ### Taking a trap and returning (R308 to R310, R337) -/

/-- tcause (R308). -/
def tcauseOf (ipc : Pc) (cls : Nat) (f : Front) (code : Nat) : Word :=
  BitVec.ofNat 64 (ipc.toNat * 2 ^ 32 + cls * 2 ^ 12 + f.code * 2 ^ 8 + code)

/-- Address of the first instruction a front has not issued: a pending group's first hint (R57), the END of a front
that has ended (R33), else its program counter. -/
def FrontState.epc (F : FrontState) : Pc :=
  if F.ended then F.endPc
  else if F.hints.himm.isSome || F.hints.hmod.isSome || F.hints.hpri.isSome then F.hints.first
  else F.pc

/-- A front resumes at an address with no hints pending. -/
def FrontState.resume (F : FrontState) (pc : Pc) : FrontState :=
  { F with pc := pc, hints := {}, ended := false, inEret := false, wait := .none }

/-- Bits [1:0] of a handler address or an epc read as zero (R308, R338). -/
def align4 (p : Nat) : Pc := BitVec.ofNat 16 (p / 4 * 4)

/-- The state a trap leaves when its handler is enabled (R309). -/
def Tile.enterTrap (T : Tile) (code cls : Nat) (f : Front) (ipc : Pc) (val : Word) : Tile :=
  { T with epca := T.fa.epc, epcx := T.fx.epc, tcause := tcauseOf ipc cls f code, tval := val, slv := true,
           fa := T.fa.resume (align4 (bits T.tvec 15 0)), fx := T.fx.resume (align4 (bits T.tvec 31 16)) }

/-- Taking a trap (R309): a nested trap aborts with kind 0x43, a trap with no handler with kind 0x44; otherwise both
fronts enter the handler at service level. -/
def takeTrap (s : State) (t code cls : Nat) (f : Front) (ipc : Pc) (val : Word) : State :=
  let T := s.tile t
  if T.slv then taskAbort s t 0x43 0 (tcauseOf ipc cls f code).toNat
  else if bits T.tvec 32 32 = 0 then taskAbort s t 0x44 0 code
  else s.setTile t (T.enterTrap code cls f ipc val)

/-- An error response reaches a strand (R310): held when it belongs to user level and the strand is at service
level, else taken; a response of a service-level instruction at service level is a nested trap. -/
def identifiedTrap (s : State) (t code : Nat) (f : Front) (ipc : Pc) (user : Bool) (val : Word) : State :=
  let T := s.tile t
  if T.slv && user then s.modTile t (fun T => { T with held := T.held ++ [{ cause := code, front := f, ipc := ipc, val := val }] })
  else takeTrap s t code 1 f ipc val

/-- Return from a trap once both fronts have issued ERET (R337): slv ← 0 and both program counters restored. -/
def Tile.leaveTrap (T : Tile) : Tile :=
  { T with slv := false, fa := T.fa.resume T.epca, fx := T.fx.resume T.epcx }

/-- The oldest held response is taken as soon as the strand is back at user level (R310). -/
def takeHeld (s : State) (t : Nat) : State :=
  match (s.tile t).held with
  | [] => s
  | h :: rest => takeTrap (s.modTile t (fun T => { T with held := rest })) t h.cause 1 h.front h.ipc h.val

/-- ERET on a front (R337). -/
def eretOn (s : State) (t : Nat) (f : Front) : State :=
  let T := (s.tile t).modFront f (fun F => { F with inEret := true, hints := {}, wait := .none })
  if (T.front f.other).inEret then takeHeld (s.setTile t T.leaveTrap) t else s.setTile t T

end Sys2Proof.Machine
end

