-- ==== Sys2Proof/Machine/Flags.lean ====
section
/-! DEFINITION. The sticky bits of warn (R339) and the integer results at every width (R48 to R50, R80). -/

namespace Sys2Proof

/-! ### Widths -/

/-- Element width in bits (R56). -/
def Width.nbits : Width → Nat
  | .w8 => 8
  | .w16 => 16
  | .w32 => 32
  | .w64 => 64

/-- Element width in bytes. -/
def Width.nbytes (w : Width) : Nat := w.nbits / 8

end Sys2Proof

namespace Sys2Proof.Machine

/-! ### warn (R339): bit numbers -/

def warnMt2 : Nat := 0
def warnSat : Nat := 1
def warnInv : Nat := 2
def warnAovf : Nat := 3
def warnAmix : Nat := 4
def warnRm : Nat := 5
def warnMfb : Nat := 6
def warnVfb : Nat := 7
def warnOfb : Nat := 8
def warnAfb : Nat := 9
def warnHint : Nat := 10
def warnQres : Nat := 11
def warnMres : Nat := 12
def warnPgone : Nat := 13
def warnCres : Nat := 14

/-- Sticky bits an operation raises, as a word of warn. -/
abbrev Warns := Word

/-- One sticky bit when a condition holds. -/
def warnOf (b : Nat) (c : Bool) : Warns := if c then 1#64 <<< b else 0

/-- Sticky bits join warn (R27, R51). -/
def Tile.raise (T : Tile) (w : Warns) : Tile := { T with warn := T.warn ||| w }

/-! ### Integer results at width w (R81 to R83); operands below 2^w -/

def aluAdd (w a b : Nat) : Nat := (a + b) % 2 ^ w
def aluSub (w a b : Nat) : Nat := (a + (2 ^ w - b % 2 ^ w)) % 2 ^ w
def aluAndn (w a b : Nat) : Nat := a &&& (2 ^ w - 1 - b % 2 ^ w)
def aluSll (w a sh : Nat) : Nat := a * 2 ^ (sh % w) % 2 ^ w
def aluSrl (w a sh : Nat) : Nat := a % 2 ^ w / 2 ^ (sh % w)
def aluSra (w a sh : Nat) : Nat := wrapInt w (signedOf w a / (2 ^ (sh % w) : Int))
def aluSlt (w a b : Nat) : Nat := if signedOf w a < signedOf w b then 1 else 0
def aluSltu (_w a b : Nat) : Nat := if a < b then 1 else 0
def aluMin (w a b : Nat) : Nat := if signedOf w a ≤ signedOf w b then a else b
def aluMax (w a b : Nat) : Nat := if signedOf w a ≤ signedOf w b then b else a
def aluMul (w a b : Nat) : Nat := a * b % 2 ^ w
def aluMulh (w a b : Nat) : Nat := wrapInt w (signedOf w a * signedOf w b / (2 ^ w : Int))
def aluMulhu (w a b : Nat) : Nat := a * b / 2 ^ w % 2 ^ w

/-- Division (R49): towards zero; by zero −1; the most negative number by −1 is itself. -/
def aluDiv (w a b : Nat) : Nat := if b = 0 then 2 ^ w - 1 else wrapInt w (Int.tdiv (signedOf w a) (signedOf w b))
def aluDivu (w a b : Nat) : Nat := if b = 0 then 2 ^ w - 1 else a / b
def aluRem (w a b : Nat) : Nat := if b = 0 then a else wrapInt w (Int.tmod (signedOf w a) (signedOf w b))
def aluRemu (_w a b : Nat) : Nat := if b = 0 then a else a % b

/-- Highest set bit below n, as a count of bits used. -/
def bitLen : Nat → Nat → Nat
  | 0, _ => 0
  | n + 1, a => if a.testBit n then n + 1 else bitLen n a

def aluClz (w a : Nat) : Nat := w - bitLen w a

/-- Index of the lowest set bit at or above i, one-based, within n bits; 0 for none. -/
def lowBit (a i : Nat) : Nat → Nat
  | 0 => 0
  | n + 1 => if a.testBit i then i + 1 else lowBit a (i + 1) n

def aluFfs (w a : Nat) : Nat := lowBit a 0 w

/-- Number of set bits below n. -/
def popCount : Nat → Nat → Nat
  | 0, _ => 0
  | n + 1, a => (if a.testBit n then 1 else 0) + popCount n a

/-- The low n bits of a reversed. -/
def revBits : Nat → Nat → Nat
  | 0, _ => 0
  | n + 1, a => a % 2 * 2 ^ n + revBits n (a / 2)

/-- Length of the field F of R83 within w bits. -/
def fieldLen (w p n : Nat) : Nat := min (p + n) w - min p w

def aluBext (w a c : Nat) : Nat := a % 2 ^ w / 2 ^ fld c 5 0 % 2 ^ fieldLen w (fld c 5 0) (fld c 14 8)

def aluBins (w a c d : Nat) : Nat :=
  let p := fld c 5 0
  let n := fieldLen w p (fld c 14 8)
  let old := d % 2 ^ w
  if n = 0 then old else old - old / 2 ^ p % 2 ^ n * 2 ^ p + a % 2 ^ n * 2 ^ p

def aluSext (w a c : Nat) : Nat := sext (fld c 5 0 % w + 1) w a

/-- Extension of a w-bit result to 64 bits (R80): S by sign, Z by zero. -/
def extS (w r : Nat) : Word := BitVec.ofNat 64 (sext w 64 r)
def extZ (r : Nat) : Word := BitVec.ofNat 64 r

/-- The new value of an atomic (R252) but for FADD; v and b of s bits. -/
def amoNew (op : AmoOp) (s v b : Nat) : Nat :=
  match op with
  | .add => aluAdd s v b
  | .and => v &&& b
  | .or => v ||| b
  | .xor => v ^^^ b
  | .min => aluMin s v b
  | .max => aluMax s v b
  | .minu => min v b
  | .maxu => max v b
  | .swap => b
  | .fadd => v

/-! ### The generator (R45) -/

/-- Mix, modulo 2^64. -/
def mix (z : Word) : Word :=
  let z := (z ^^^ (z >>> 30)) * 0xBF58476D1CE4E5B9#64
  let z := (z ^^^ (z >>> 27)) * 0x94D049BB133111EB#64
  z ^^^ (z >>> 31)

/-- The generator's step. -/
def goldenRatio : Word := 0x9E3779B97F4A7C15#64

/-- The front's generator is advanced by one draw, which yields the operation seed. -/
def FrontState.draw (F : FrontState) : Word × FrontState :=
  let g := F.sgen + goldenRatio
  (mix g, { F with sgen := g })

/-- Bits [31:0] of the i-th number of an operation seed. -/
def srBits (seed : Word) (i : Nat) : Nat := (mix (seed + BitVec.ofNat 64 i * goldenRatio)).toNat % 2 ^ 32

end Sys2Proof.Machine
end

