-- ==== Sys2Proof/Machine/Operands.lean ====
section
/-! DEFINITION. How a word issues: what is checked before it (R20, R25, R28, R64, R335), when it is held (R23, R28,
R32), reading and writing register fields and queue ports (R17, R28, R29, R53), hints (R57 to R59), and the tile's
range-overlap scoreboard (R149). -/

namespace Sys2Proof.Machine

/-! ### Registers -/

/-- A scalar register below 24 (R17, R26): s0 reads zero. -/
def FrontState.reg (F : FrontState) (r : Nat) : Word := if h : r < 24 then (if r = 0 then 0 else F.regs[r]) else 0

/-- A write to a scalar register below 24: one to s0 is discarded. -/
def FrontState.setReg (F : FrontState) (r : Nat) (v : Word) : FrontState :=
  if r = 0 then F else { F with regs := F.regs.setIfInBounds r v }

/-- A scalar port's slots; q is 0 to 7 for s24 to s31. -/
def Tile.sport (T : Tile) (q : Nat) : List (QSlot 64) := if h : q < 8 then T.sq[q] else []
def Tile.setSport (T : Tile) (q : Nat) (l : List (QSlot 64)) : Tile := { T with sq := T.sq.setIfInBounds q l }

/-- A vector port's slots; q is 0 to 3 for v28 to v31. -/
def Tile.vport (T : Tile) (q : Nat) : List (QSlot 2048) := if h : q < 4 then T.vq[q] else []
def Tile.setVport (T : Tile) (q : Nat) (l : List (QSlot 2048)) : Tile := { T with vq := T.vq.setIfInBounds q l }

def Tile.vreg (T : Tile) (r : Nat) : Vec := if h : r < 28 then T.vregs[r] else 0
def Tile.setVreg (T : Tile) (r : Nat) (v : Vec) : Tile := { T with vregs := T.vregs.setIfInBounds r v }

/-- A mask register (R100): k0 reads all ones, a write to it is discarded. -/
def Tile.kreg (T : Tile) (k : Nat) : Word := if k = 0 then BitVec.allOnes 64 else if h : k < 8 then T.kregs[k] else 0
def Tile.setKreg (T : Tile) (k : Nat) (v : Word) : Tile := if k = 0 then T else { T with kregs := T.kregs.setIfInBounds k v }

/-- Depth of the queue ports (R26). -/
def sDepth : Nat := 16
def vDepth : Nat := 8

/-- The value a slot holds; a reserved slot is never popped (R28). -/
def QSlot.val {n : Nat} : QSlot n → BitVec n
  | .filled v => v
  | .pending _ => 0

def QSlot.isPending {n : Nat} : QSlot n → Bool
  | .filled _ => false
  | .pending _ => true

/-- A scalar source is read: a register, or a port, which is popped. -/
def Tile.takeS (T : Tile) (f : Front) (r : Reg) : Word × Tile :=
  if r.toNat < 24 then ((T.front f).reg r.toNat, T)
  else match T.sport (r.toNat - 24) with
    | [] => (0, T)
    | e :: rest => (e.val, T.setSport (r.toNat - 24) rest)

/-- A scalar destination is written: a register, or a port, which is pushed. -/
def Tile.putS (T : Tile) (f : Front) (r : Reg) (v : Word) : Tile :=
  if r.toNat < 24 then T.modFront f (fun F => F.setReg r.toNat v)
  else T.setSport (r.toNat - 24) (T.sport (r.toNat - 24) ++ [.filled v])

/-- A vector source is read. -/
def Tile.takeV (T : Tile) (r : Reg) : Vec × Tile :=
  if r.toNat < 28 then (T.vreg r.toNat, T)
  else match T.vport (r.toNat - 28) with
    | [] => (0, T)
    | e :: rest => (e.val, T.setVport (r.toNat - 28) rest)

/-- A vector destination is written. -/
def Tile.putV (T : Tile) (r : Reg) (v : Vec) : Tile :=
  if r.toNat < 28 then T.setVreg r.toNat v
  else T.setVport (r.toNat - 28) (T.vport (r.toNat - 28) ++ [.filled v])

/-- The scalar sources in the order of their fields (R17). -/
def Tile.takeAllS (T : Tile) (f : Front) : List Reg → List Word × Tile
  | [] => ([], T)
  | r :: rs =>
    let (v, T) := T.takeS f r
    let (vs, T) := T.takeAllS f rs
    (v :: vs, T)

/-- The vector sources in the order of their fields (R17, R100). -/
def Tile.takeAllV (T : Tile) : List Reg → List Vec × Tile
  | [] => ([], T)
  | r :: rs =>
    let (v, T) := T.takeV r
    let (vs, T) := T.takeAllV rs
    (v :: vs, T)

/-- A destination is reserved for an operation that answers later: a register interlocks (R23), a slot of a port is
reserved (R28); s0 takes nothing. -/
def Tile.reserveS (T : Tile) (f : Front) (r : Reg) (id : Nat) : Dest × Tile :=
  if r.toNat = 0 then (.none, T)
  else if r.toNat < 24 then (.sreg r.toNat, T.modFront f (fun F => { F with pend := F.pend ++ [(r.toNat, id)] }))
  else (.sport (r.toNat - 24), T.setSport (r.toNat - 24) (T.sport (r.toNat - 24) ++ [.pending id]))

/-- A slot of a vector port is reserved. -/
def Tile.reserveV (T : Tile) (r : Reg) (id : Nat) : Dest × Tile :=
  (.vport (r.toNat - 28), T.setVport (r.toNat - 28) (T.vport (r.toNat - 28) ++ [.pending id]))

/-- Both fronts try to issue again: something they may wait on has changed. -/
def Tile.wake (T : Tile) : Tile := { T with fa := { T.fa with wait := .none }, fx := { T.fx with wait := .none } }

/-- A slot reserved for an operation receives its value. -/
def fillSlot {n : Nat} (id : Nat) (v : BitVec n) (l : List (QSlot n)) : List (QSlot n) :=
  l.map (fun e => if e = .pending id then .filled v else e)

/-- A value arrives at its destination (R23, R28); the interlock or the reservation of the operation ends. -/
def Tile.deliver (T : Tile) (f : Front) (id : Nat) (d : Dest) (v : Vec) : Tile :=
  (match d with
   | .none => T
   | .sreg r => T.modFront f (fun F => { F.setReg r (v.setWidth 64) with pend := F.pend.filter (fun p => p.2 != id) })
   | .sport q => T.setSport q (fillSlot id (v.setWidth 64) (T.sport q))
   | .vport q => T.setVport q (fillSlot id v (T.vport q))).wake

/-- A response that fails leaves a register unwritten and fills a reserved slot with zero (R248). -/
def Tile.deliverFail (T : Tile) (f : Front) (id : Nat) (d : Dest) : Tile :=
  match d with
  | .sreg _ => (T.modFront f (fun F => { F with pend := F.pend.filter (fun p => p.2 != id) })).wake
  | d => T.deliver f id d 0

/-! ### What a word needs -/

/-- What is known of a word from its fields: where it may issue, whether the tile has the unit it names (R20), whether it
needs service level (R335), its register fields in the order they are read and written, a port direction beyond those
(R97), and the hints it accepts (R58, R59). -/
structure Form where
  instr : Instr
  onA   : Bool := true
  onX   : Bool := true
  unit  : Bool := true
  svc   : Bool := false
  dir   : Bool := true
  rs    : List Reg := []
  rv    : List Reg := []
  ws    : List Reg := []
  wv    : List Reg := []
  himm  : Bool := false
  hmod  : Nat := 0
  hpri  : Bool := false

/-- A scalar source field names a register or a port that the front pops (R28). -/
def srcSOk : Front → Reg → Bool
  | .a, r => decide (r.toNat < 24) || decide (28 ≤ r.toNat)
  | .x, r => decide (r.toNat < 28)

/-- A scalar destination field names a register or a port that the front pushes (R28). -/
def dstSOk : Front → Reg → Bool
  | .a, r => decide (r.toNat < 28)
  | .x, r => decide (r.toNat < 24) || decide (28 ≤ r.toNat)

/-- A vector source (R28, R63, R100): on the A-front only v30 and v31. -/
def srcVOk : Front → Reg → Bool
  | .a, r => decide (30 ≤ r.toNat)
  | .x, r => decide (r.toNat < 30)

/-- A vector destination (R28, R63, R100): on the A-front only v28 and v29. -/
def dstVOk : Front → Reg → Bool
  | .a, r => decide (28 ≤ r.toNat) && decide (r.toNat < 30)
  | .x, r => decide (r.toNat < 28) || decide (30 ≤ r.toNat)

/-- No register field names a port in the wrong direction. -/
def Form.dirOk (fm : Form) (f : Front) : Bool :=
  fm.dir && fm.rs.all (srcSOk f) && fm.ws.all (dstSOk f) && fm.rv.all (srcVOk f) && fm.wv.all (dstVOk f)

/-- Whether the word may issue on the front (R25). -/
def Form.frontOk (fm : Form) : Front → Bool
  | .a => fm.onA
  | .x => fm.onX

/-- The first cause that the word's fields raise, in the order of R64. A port core runs majors 0x01 to 0x13 only (R361). -/
def Form.gate (fm : Form) (T : Tile) (t : Nat) (f : Front) : Option Nat :=
  if !fm.unit || (isJack t && decide (0x13 < encodeWord fm.instr / 2 ^ 26)) then some 0x01
  else if !fm.frontOk f then some 0x02
  else if fm.svc && !T.slv then some 0x03
  else if !fm.dirOk f then some 0x04
  else none

/-- The register interlock holds the word (R23). -/
def Form.interlocked (fm : Form) (F : FrontState) : Bool :=
  (fm.rs ++ fm.ws).any (fun r => F.pend.any (fun p => p.1 == r.toNat))

/-- Why n pops of a port cannot be made: `none` they can; `some true` a reserved slot in flight; `some false` empty. -/
def popBlock {n : Nat} : List (QSlot n) → Nat → Option Bool
  | _, 0 => none
  | [], _ + 1 => some false
  | .pending _ :: _, _ + 1 => some true
  | .filled _ :: r, k + 1 => popBlock r k

/-- Scalar ports a word pops, with how often (port number 0 to 7). -/
def countReg (rs : List Reg) (r : Nat) : Nat := (rs.filter (fun q => q.toNat == r)).length

/-- Bit numbers of tval of R33 of the ports on which the word waits, and whether it waits on an operation in flight. -/
def Form.portWaits (fm : Form) (T : Tile) : List Nat × Bool :=
  let sp := (List.range 8).map (fun q => (q + 8, popBlock (T.sport q) (countReg fm.rs (q + 24))))
  let vp := (List.range 4).map (fun q => (q + 16, popBlock (T.vport q) (countReg fm.rv (q + 28))))
  let sf := (List.range 8).filter (fun q => decide (sDepth < (T.sport q).length + countReg fm.ws (q + 24)) &&
    decide (0 < countReg fm.ws (q + 24)))
  let vf := (List.range 4).filter (fun q => decide (vDepth < (T.vport q).length + countReg fm.wv (q + 28)) &&
    decide (0 < countReg fm.wv (q + 28)))
  (((sp ++ vp).filter (fun p => p.2 == some false)).map (·.1) ++ sf.map (· + 8) ++ vf.map (· + 16),
   (sp ++ vp).any (fun p => p.2 == some true))

/-- Why the word cannot issue yet; `none` when it can (R23, R28, R32). -/
def Form.hold (fm : Form) (T : Tile) (f : Front) : Wait :=
  if fm.interlocked (T.front f) then .other
  else
    let (ps, fly) := fm.portWaits T
    if fly then .other else if ps.isEmpty then .none else .ports ps

/-! ### Issue -/

/-- What an issuing word has at hand: its address, the bound hints, and its operands in order. -/
structure Issue where
  ipc  : Pc
  himm : Option (BitVec 22)
  hmod : Option (BitVec 22)
  hpri : Nat
  ss   : List Word
  vs   : List Vec

/-- The k-th scalar operand, the k-th vector operand. -/
def Issue.s (I : Issue) (k : Nat) : Word := I.ss.getD k 0
def Issue.v (I : Issue) (k : Nat) : Vec := I.vs.getD k 0

/-- A bit of the bound HMOD's payload (R59). -/
def Issue.mod (I : Issue) (b : Nat) : Bool := (I.hmod.getD 0).getLsbD b

/-- What the entry of a word says once its operands are read: its effect, a precise trap, a wait at issue, or a wait that
leaves a mark on the state before issue. -/
inductive Verdict | done (s : State) | trap (code : Nat) (val : Word) | wait | waitAfter (g : State → State)

/-- A bound hint that the word does not accept (R58, R59). -/
def Form.hintIgnored (fm : Form) (h : Hints) : Bool :=
  (h.himm.isSome && !fm.himm) || (h.hpri.isSome && !fm.hpri) ||
    (match h.hmod with | some m => decide (m.toNat &&& (2 ^ 22 - 1 - fm.hmod) ≠ 0) | none => false)

/-- The word's address, its hints and its operands; the tile has popped, advanced its program counter and dropped the
hints. -/
def Form.start (fm : Form) (T : Tile) (f : Front) : Issue × Tile :=
  let F := T.front f
  let (ss, T) := T.takeAllS f fm.rs
  let (vs, T) := T.takeAllV fm.rv
  ({ ipc := F.pc, himm := F.hints.himm, hmod := F.hints.hmod, hpri := (F.hints.hpri.getD 0).toNat, ss := ss, vs := vs },
   ((T.modFront f (fun F => { F with pc := F.pc + 4, hints := {} })).warnIf warnHint (fm.hintIgnored F.hints)).wake)

/-- The word's trap at issue: no effect, tval as the cause's entry names it (R64, R309). -/
def preciseTrap (s : State) (code : Nat) (val : Word) : State :=
  takeTrap s s.focus.1 code 0 s.focus.2 (s.cur.front s.focus.2).pc val

/-- The word is held back and with it its front (R28). -/
def holdFront (s : State) (w : Wait) : State :=
  s.modTile s.focus.1 (fun T => T.modFront s.focus.2 (fun F => { F with wait := w }))

/-- The word as a value of tval. -/
def wordVal (i : Instr) : Word := BitVec.ofNat 64 (encodeWord i)

/-- A word issues on the front in focus, if its front may issue (R23): the causes its fields raise, then its wait, then
its entry's effect on the state in which its operands are read and its program counter stands at the next word. -/
def issue (s : State) (fm : Form) (body : State → Issue → Verdict) : Out :=
  let t := s.focus.1
  let f := s.focus.2
  let T := s.tile t
  if !T.runs f then .next s
  else match fm.gate T t f with
    | some code => .next (preciseTrap s code (wordVal fm.instr))
    | none =>
      match fm.hold T f with
      | .none =>
        match body (s.setTile t (fm.start T f).2) (fm.start T f).1 with
        | .done s' => .next (s'.count T.vf (2 + f.code) 1)
        | .trap code v => .next (preciseTrap s code v)
        | .wait => .next (holdFront s .other)
        | .waitAfter g => .next (holdFront (g s) .other)
      | w => .next (holdFront s w)

/-- A word that works on its own tile alone. -/
def issueTile (s : State) (fm : Form) (body : Tile → Front → Issue → Tile) : Out :=
  issue s fm (fun s I => .done (s.modTile s.focus.1 (fun T => body T s.focus.2 I)))

/-- A word that computes one scalar from scalars, with the sticky bits it raises, its draw made by the caller. -/
def issueS (s : State) (fm : Form) (d : Reg) (val : Tile → Front → Issue → Word) : Out :=
  issueTile s { fm with ws := [d] } (fun T f I => T.putS f d (val T f I))

/-! ### Immediates (R55, R58) -/

/-- The immediate with its HIMM payload in front: value and width. -/
def wideImm (h : Option (BitVec 22)) (n v : Nat) : Nat × Nat :=
  match h with
  | some p => (p.toNat * 2 ^ n + v, n + 22)
  | none => (v, n)

/-- The immediate read as signed. -/
def immS (h : Option (BitVec 22)) (n v : Nat) : Int := signedOf (wideImm h n v).2 (wideImm h n v).1

/-- The immediate read as unsigned. -/
def immU (h : Option (BitVec 22)) (n v : Nat) : Nat := (wideImm h n v).1

/-- Base plus a scaled signed offset, modulo 2^64 (R94, R120, R247). -/
def addrOf (base : Word) (h : Option (BitVec 22)) (n v scale : Nat) : Word :=
  BitVec.ofInt 64 ((base.toNat : Int) + immS h n v * scale)

/-! ### The range-overlap scoreboard (R149) -/

/-- Two byte ranges, each a start and a length, share a byte. -/
def overlap (a b : Nat × Nat) : Bool := decide (a.1 < b.1 + b.2) && decide (b.1 < a.1 + a.2)

/-- An access of the tile conflicts with an engine command that is not yet performed. -/
def Tile.sbClash (T : Tile) (ranges : List (Nat × Nat)) (writes : Bool) : Bool :=
  T.sb.any (fun e => (writes || e.writes) && e.ranges.any (fun a => ranges.any (overlap a)))

/-- A command enters the scoreboard; its number is the serial number given. -/
def Tile.sbEnter (T : Tile) (id : Nat) (ranges : List (Nat × Nat)) (writes : Bool) : Tile :=
  { T with sb := T.sb ++ [{ id := id, ranges := ranges, writes := writes }] }

/-- A command has been performed. -/
def Tile.sbLeave (T : Tile) (id : Nat) : Tile := { T with sb := T.sb.filter (fun e => e.id != id) }

/-- A command conflicts with one that entered before it (R149: earlier commands that overlap are performed first). -/
def Tile.sbMust (T : Tile) (id : Nat) : Bool :=
  T.sb.any (fun me => me.id == id && T.sb.any (fun e => decide (e.id < id) && (me.writes || e.writes) &&
    e.ranges.any (fun a => me.ranges.any (overlap a))))

/-! ### Elements (R39, R99) -/

/-- n elements of w bits, lowest first. -/
def elemsOf (w : Nat) : Nat → Nat → List Nat
  | 0, _ => []
  | n + 1, x => x % 2 ^ w :: elemsOf w n (x / 2 ^ w)

/-- Elements packed from bit 0 upwards. -/
def packElems (w : Nat) : List Nat → Nat
  | [] => 0
  | e :: es => e % 2 ^ w + 2 ^ w * packElems w es

/-- Elements of a vector register at width w (R99). -/
def vecElems (w : Nat) (v : Vec) : List Nat := elemsOf w (2048 / w) v.toNat

/-- Mask bit that governs element e of n (R99). -/
def gov (k : Word) (n e : Nat) : Bool := k.getLsbD (e * 64 / n)

/-- Elements from number e on of n, written under a mask (R101): a disabled one keeps its value, or is zero in a port. -/
def mergeFrom (k : Word) (n e : Nat) : List Nat → List Nat → List Nat
  | x :: xs, y :: ys => (if gov k n e then x else y) :: mergeFrom k n (e + 1) xs ys
  | _, _ => []

/-- All elements written under a mask. -/
def maskMerge (k : Word) (n : Nat) (new old : List Nat) : List Nat := mergeFrom k n 0 new old

/-- A function of an element's number and value, from number e on. -/
def mapFrom {α β : Type} (f : Nat → α → β) (e : Nat) : List α → List β
  | [] => []
  | x :: xs => f e x :: mapFrom f (e + 1) xs

/-- The prior elements of a destination: those of its register, zeros for a port (R29, R101). -/
def Tile.priorV (T : Tile) (d : Reg) : Nat := if d.toNat < 28 then (T.vreg d.toNat).toNat else 0

end Sys2Proof.Machine
end

