-- ==== Sys2Proof/Machine/Tables.lean ====
section
/-! DEFINITION. The tables and coefficients of the special functions (R118), each the integer nearest to the real number
that its row of the table of R118 states. -/

namespace Sys2Proof.Machine

def tabTE0 : List Nat :=
  [1099511627776, 1111484524408, 1123587797336, 1135822866266, 1148191166361, 1160694148413, 1173333279014, 1186110040723,
   1199025932245, 1212082468605, 1225281181324, 1238623618601, 1252111345494, 1265745944104, 1279529013758, 1293462171200,
   1307547050779, 1321785304641, 1336178602923, 1350728633946, 1365437104419, 1380305739635, 1395336283673, 1410530499604,
   1425890169699, 1441417095635, 1457113098709, 1472980020050, 1489019720837, 1505234082514, 1521625007013, 1538194416978]
def tabTE1 : List Nat :=
  [1554944255988, 1571876488786, 1588993101510, 1606296101926, 1623787519664, 1641469406453, 1659343836365, 1677412906057,
   1695678735018, 1714143465815, 1732809264348, 1751678320101, 1770752846399, 1790035080670, 1809527284706, 1829231744928,
   1849150772653, 1869286704369, 1889641902006, 1910218753212, 1931019671637, 1952047097213, 1973303496441, 1994791362681,
   2016513216442, 2038471605683, 2060669106106, 2083108321460, 2105791883849, 2128722454038, 2151902721764, 2175335406057]

/-- TE[j]: 2^(40 + j / 64). -/
def tabTE : List Nat := tabTE0 ++ tabTE1

def tabTR0 : List Nat :=
  [1099511627776, 1082596064272, 1066193093601, 1050279763846, 1034834473201, 1019836872140, 1005267773967, 991109072925,
   977343669134, 963955399694, 950928975374, 938249922369, 925904528653, 913879794515, 902163386893, 890743597186,
   879609302221, 868749928119, 858155416801, 847816194912, 837723144972, 827867578561, 818241211368, 808836139973,
   799644820201, 790660046940, 781874935307, 773282903051, 764877654105, 756653163201, 748603661465, 740723622923]
def tabTR1 : List Nat :=
  [733007751851, 725450970904, 718048409976, 710795395734, 703687441777, 696720239383, 689889648801, 683191691045,
   676622540170, 670178515978, 663856077148, 657651814745, 651562446089, 645584808969, 639715856161, 633952650249,
   628292358729, 622732249360, 617269685769, 611902123284, 606627104980, 601442257929, 596345289641, 591333984686,
   586406201481, 581559869237, 576792985063, 572103611201, 567489872401, 562949953421, 558482096648, 554084599824]

/-- TR[j]: 2^40 / (1 + j / 64). -/
def tabTR : List Nat := tabTR0 ++ tabTR1

def tabTL0 : List Nat :=
  [0, 24593670512, 48811850439, 72665833378, 96166410953, 119323902126, 142148180404, 164648699121,
   186834514936, 208714309726, 230296410986, 251588810852, 272599183878, 293334903628, 313803058232, 334010464915,
   353963683636, 373669029872, 393132586612, 412360215640, 431357568125, 450130094589, 468683054306, 487021524134,
   505150406859, 523074439069, 540798198573, 558326111421, 575662458546, 592811382031, 609776891053, 626562867513]
def tabTL1 : List Nat :=
  [643173071355, 659611145636, 675880621313, 691984921795, 707927367272, 723711178821, 739339482308, 754815312113,
   770141614652, 785321251760, 800357003888, 815251573159, 830007586293, 844627597368, 859114090495, 873469482342,
   887696124545, 901796306032, 915772255233, 929626142182, 943360080553, 956976129587, 970476295950, 983862535498,
   997136754991, 1010300813719, 1023356525055, 1036305657967, 1049149938450, 1061891050910, 1074530639481, 1087070309310]

/-- TL[j]: -log2(TR[j] * 2^-40) * 2^40. -/
def tabTL : List Nat := tabTL0 ++ tabTL1

def tabTC0 : List Nat :=
  [1095233372415, 1086775971856, 1078448186631, 1070247059736, 1062169723436, 1054213395920, 1046375378107, 1038653050593,
   1031043870735, 1023545369857, 1016155150580, 1008870884268, 1001690308579, 994611225126, 987631497230, 980749047772,
   973961857130, 967267961205, 960665449524, 954152463426, 947727194312, 941387881975, 935132812992, 928960319177,
   922868776101, 916856601663, 910922254727, 905064233796, 899281075753, 893571354637, 887933680475, 882366698153]
def tabTC1 : List Nat :=
  [876869086326, 871439556380, 866076851417, 860779745293, 855547041674, 850377573144, 845270200332, 840223811077,
   835237319616, 830309665813, 825439814401, 820626754258, 815869497712, 811167079858, 806518557910, 801923010572,
   797379537424, 792887258340, 788445312915, 784052859918, 779709076761, 775413158983, 771164319755, 766961789402,
   762804814934, 758692659597, 754624602441, 750599937895, 746617975360, 742678038814, 738779466432, 734921610211]
def tabTC2 : List Nat :=
  [731103835612, 727325521216, 723586058382, 719884850922, 716221314785, 712594877748, 709004979120, 705451069450,
   701932610251, 698449073724, 694999942495, 691584709363, 688202877043, 684853957933, 681537473876, 678252955929,
   674999944150, 671777987376, 668586643018, 665425476857, 662294062849, 659191982929, 656118826831, 653074191904,
   650057682935, 647068911979, 644107498194, 641173067678, 638265253312, 635383694606, 632528037552, 629697934476]
def tabTC3 : List Nat :=
  [626893043899, 624113030401, 621357564483, 618626322441, 615918986238, 613235243378, 610574786791, 607937314710,
   605322530561, 602730142849, 600159865055, 597611415522, 595084517359, 592578898338, 590094290798, 587630431546,
   585187061769, 582763926937, 580360776723, 577977364909, 575613449306, 573268791671, 570943157628, 568636316587,
   566348041671, 564078109641, 561826300820, 559592399027, 557376191506, 555177468857, 552996024972, 550831656968]

/-- TC[j]: 2^40 / (1 + (2j + 1) / 256). -/
def tabTC : List Nat := tabTC0 ++ tabTC1 ++ tabTC2 ++ tabTC3

def tabTS0 : List Nat :=
  [1091021063432, 1074613797030, 1058925162300, 1043904186252, 1029504818163, 1015685334838, 1002407831403, 989637783471,
   977343669134, 965496641383, 954070243162, 943040158671, 932383995588, 922081093758, 912112356639, 902460102371,
   893107931826, 884040611386, 875243968564, 866704798824, 858410782203, 850350408561, 842512910392, 834888202341,
   827466826623, 820239903694, 813199087572, 806336525318, 799644820201, 793116998184, 786746477363, 780527040069]
def tabTS1 : List Nat :=
  [774452807353, 768518215627, 762717995242, 757047150816, 751500943151, 746074872587, 740764663653, 735566250910,
   730475765867, 725489524884, 720604017965, 715815898375, 711121973006, 706519193426, 702004647558, 697575551939,
   693229244505, 688963177871, 684774913054, 680662113612, 676622540170, 672654045295, 668754568696, 664922132736,
   661154838209, 657450860391, 653808445325, 650225906331, 646701620722, 643234026720, 639821620542, 636462953666]
def tabTS2 : List Nat :=
  [633156630244, 629901304664, 626695679252, 623538502095, 620428564990, 617364701499, 614345785112, 611370727506,
   608438476897, 605548016480, 602698362941, 599888565060, 597117702372, 594384883898, 591689246950, 589029955976,
   586406201481, 583817198984, 581262188041, 578740431299, 576251213605, 573793841158, 571367640687, 568971958686,
   566606160669, 564269630465, 561961769545, 559681996375, 557429745804, 555204468475, 553005630257, 550832711715]

/-- TS[j]: 2^40 / sqrt(1 + (2j + 1) / 64). -/
def tabTS : List Nat := tabTS0 ++ tabTS1 ++ tabTS2

/-! CE1 to CE4: (ln 2)^k / k! * 2^40. -/

def coefCE1 : Int := 762123384786
def coefCE2 : Int := 264131837702
def coefCE3 : Int := 61027412866
def coefCE4 : Int := 10575244791

/-! CL1 to CL4: (-1)^(k+1) / (k * ln 2) * 2^40. -/

def coefCL1 : Int := 1586259972792
def coefCL2 : Int := -793129986396
def coefCL3 : Int := 528753324264
def coefCL4 : Int := -396564993198

/-- KT: 2^41 / ln 2. -/
def coefKT : Nat := 3172519945584

end Sys2Proof.Machine
end

