-- ==== Sys2Proof/Machine/Numbers.lean ====
section
/-! DEFINITION. Number formats (R34 to R40), exact values, rounding once (R42, R45), conversions (R43, R90), float
comparison (R88) and the special functions (R117, R118). -/

namespace Sys2Proof.Machine

/-! ### Exact values -/

/-- NaN, an infinity, or the exact number ± num / den × 2^e; a zero keeps its sign. -/
inductive FVal | nan | inf (neg : Bool) | fin (neg : Bool) (num den : Nat) (e : Int)
  deriving DecidableEq, Repr

/-- 2^k for k ≥ 0, else 1. -/
def pow2p (k : Int) : Nat := 2 ^ k.toNat

/-- An integer as an exact value. -/
def FVal.ofInt (x : Int) : FVal := .fin (decide (x < 0)) x.natAbs 1 0

def FVal.neg : FVal → FVal
  | .nan => .nan
  | .inf s => .inf (!s)
  | .fin s n d e => .fin (!s) n d e

def FVal.abs : FVal → FVal
  | .nan => .nan
  | .inf _ => .inf false
  | .fin _ n d e => .fin false n d e

def FVal.isNan : FVal → Bool
  | .nan => true
  | _ => false

def FVal.isZero : FVal → Bool
  | .fin _ n _ _ => n == 0
  | _ => false

def FVal.sign : FVal → Bool
  | .nan => false
  | .inf s => s
  | .fin s _ _ _ => s

/-- Exact product (R42, R89): 0 × ∞ is NaN. -/
def FVal.mul : FVal → FVal → FVal
  | .nan, _ => .nan
  | _, .nan => .nan
  | .inf s, .inf t => .inf (s != t)
  | .inf s, .fin t n _ _ => if n = 0 then .nan else .inf (s != t)
  | .fin s n _ _, .inf t => if n = 0 then .nan else .inf (s != t)
  | .fin s n d e, .fin t m c k => .fin (s != t) (n * m) (d * c) (e + k)

/-- Signed numerator over d × c at the exponent k. -/
def scaledNum (s : Bool) (n c : Nat) (e k : Int) : Int :=
  let v : Int := ((n * c * pow2p (e - k) : Nat) : Int)
  if s then -v else v

/-- Exact sum; a zero of opposite signs is +0, or −0 when `rdn` (R42). -/
def FVal.add (rdn : Bool) : FVal → FVal → FVal
  | .nan, _ => .nan
  | _, .nan => .nan
  | .inf s, .inf t => if s = t then .inf s else .nan
  | .inf s, .fin .. => .inf s
  | .fin .., .inf t => .inf t
  | .fin s n d e, .fin t m c k =>
    let l := min e k
    let x := scaledNum s n c e l + scaledNum t m d k l
    if x = 0 then .fin (if s = t then s else rdn) 0 1 0 else .fin (decide (x < 0)) x.natAbs (d * c) l

/-- Strictly less among numbers, zeros equal; infinities at the ends. -/
def FVal.lt : FVal → FVal → Bool
  | .nan, _ => false
  | _, .nan => false
  | .inf s, .inf t => s && !t
  | .inf s, .fin .. => s
  | .fin .., .inf t => !t
  | .fin s n d e, .fin t m c k =>
    let l := min e k
    decide (scaledNum s n c e l < scaledNum t m d k l)

/-- Equal among numbers: +0 equals −0, a NaN equals nothing (R88). -/
def FVal.eq (a b : FVal) : Bool := !a.isNan && !b.isNan && !a.lt b && !b.lt a

/-- floor(log2 (n / d × 2^e)) for n > 0. -/
def floorLog2 (n d : Nat) (e : Int) : Int :=
  let k : Int := (n.log2 : Int) - (d.log2 : Int)
  (if n * pow2p (-k) < d * pow2p k then k - 1 else k) + e

/-! ### Float formats (R35, R41) -/

/-- How a format codes infinities and NaN: at the top exponent, F8E4's single NaN, or not at all. -/
inductive Specials | ieee | nanOnly | none
  deriving DecidableEq, Repr

/-- A float format: exponent bits, fraction bits, bias, special codes. -/
structure FFormat where
  eb   : Nat
  fb   : Nat
  bias : Nat
  sp   : Specials
  deriving DecidableEq, Repr

def FFormat.width (f : FFormat) : Nat := 1 + f.eb + f.fb

def fmtFP32 : FFormat := { eb := 8, fb := 23, bias := 127, sp := .ieee }
def fmtFP16 : FFormat := { eb := 5, fb := 10, bias := 15, sp := .ieee }
def fmtBF16 : FFormat := { eb := 8, fb := 7, bias := 127, sp := .ieee }
def fmtF8E4 : FFormat := { eb := 4, fb := 3, bias := 7, sp := .nanOnly }
def fmtF8E5 : FFormat := { eb := 5, fb := 2, bias := 15, sp := .ieee }
def fmtF6E3 : FFormat := { eb := 3, fb := 2, bias := 3, sp := .none }
def fmtF6E2 : FFormat := { eb := 2, fb := 3, bias := 1, sp := .none }
def fmtF4E2 : FFormat := { eb := 2, fb := 1, bias := 1, sp := .none }
def fmtXF96 : FFormat := { eb := 15, fb := 80, bias := 16383, sp := .ieee }

/-- The largest finite exponent field and the fraction there. -/
def FFormat.emax (f : FFormat) : Nat := match f.sp with | .ieee => 2 ^ f.eb - 2 | _ => 2 ^ f.eb - 1
def FFormat.fmax (f : FFormat) : Nat := match f.sp with | .nanOnly => 2 ^ f.fb - 2 | _ => 2 ^ f.fb - 1

/-- Exponent of the last fraction bit of an exponent field. -/
def FFormat.quantum (f : FFormat) (e : Nat) : Int := (max e 1 : Nat) - (f.bias : Int) - (f.fb : Int)

/-- Codes: sign in front. -/
def FFormat.code (f : FFormat) (s : Bool) (e m : Nat) : Nat := (if s then 2 ^ (f.eb + f.fb) else 0) + e * 2 ^ f.fb + m

def FFormat.largest (f : FFormat) (s : Bool) : Nat := f.code s f.emax f.fmax

/-- The canonical NaN (R42); +0 where the format has none. -/
def FFormat.nanCode (f : FFormat) : Nat :=
  match f.sp with
  | .ieee => f.code false (2 ^ f.eb - 1) (2 ^ (f.fb - 1))
  | .nanOnly => f.code false (2 ^ f.eb - 1) (2 ^ f.fb - 1)
  | .none => 0

/-- The overflow value (R43). -/
def FFormat.overflowCode (f : FFormat) (s : Bool) : Nat :=
  match f.sp with
  | .ieee => f.code s (2 ^ f.eb - 1) 0
  | .nanOnly => f.nanCode
  | .none => f.largest s

/-- The exact value of a code (R35). -/
def FFormat.decode (f : FFormat) (w : Nat) : FVal :=
  let s := w.testBit (f.eb + f.fb)
  let e := w / 2 ^ f.fb % 2 ^ f.eb
  let m := w % 2 ^ f.fb
  if f.sp = .ieee ∧ e = 2 ^ f.eb - 1 then (if m = 0 then .inf s else .nan)
  else if f.sp = .nanOnly ∧ e = 2 ^ f.eb - 1 ∧ m = 2 ^ f.fb - 1 then .nan
  else if e = 0 then .fin s m 1 (f.quantum 0)
  else .fin s (2 ^ f.fb + m) 1 (f.quantum e)

/-! ### Rounding (R42, R45) -/

/-- What a rounding carries: the mode, the operation seed and the number of the value. -/
structure Rnd where
  mode : Nat
  seed : Word
  i    : Nat
  deriving DecidableEq, Repr

def Rnd.rdn (r : Rnd) : Bool := r.mode == 3

/-- Whether the magnitude lo + rem / unit, sign s, goes to lo + 1 (R42, R45). -/
def roundUp (r : Rnd) (s : Bool) (lo rem unit : Nat) : Bool :=
  if rem = 0 then false
  else match r.mode with
    | 0 => decide (unit < 2 * rem) || (decide (2 * rem = unit) && lo % 2 == 1)
    | 1 => false
    | 2 => !s
    | 3 => s
    | 4 => decide (unit ≤ 2 * rem)
    | _ => decide (2 ^ 32 ≤ rem * 2 ^ 32 / unit + srBits r.seed r.i)

/-- A magnitude n / d × 2^e rounded to a multiple of 2^q. -/
def roundTo (r : Rnd) (s : Bool) (n d : Nat) (e q : Int) : Nat :=
  let a := n * pow2p (e - q)
  let b := d * pow2p (q - e)
  a / b + (if roundUp r s (a / b) (a % b) b then 1 else 0)

/-- Whether an overflow under OVF takes the overflow value (R43). -/
def overflowsOut (r : Rnd) (s : Bool) : Bool :=
  match r.mode with
  | 1 => false
  | 2 => !s
  | 3 => s
  | _ => true

/-- The code of ± m × 2^q, m at most 2^(fb+1), under OVF or SAT (R43). -/
def FFormat.encode (f : FFormat) (r : Rnd) (sat s : Bool) (m : Nat) (q : Int) : Nat :=
  let (m, q) := if m ≥ 2 ^ (f.fb + 1) then (m / 2, q + 1) else (m, q)
  let e := if m < 2 ^ f.fb then 0 else (q + f.bias + f.fb).toNat
  let fr := if m < 2 ^ f.fb then m else m - 2 ^ f.fb
  if f.emax < e ∨ (e = f.emax ∧ f.fmax < fr) then
    (if !sat && overflowsOut r s then f.overflowCode s else f.largest s)
  else f.code s e fr

/-- Exponent of the last bit kept of n / d × 2^e: the exponent is unbounded above (R43). -/
def FFormat.lastBit (f : FFormat) (n d : Nat) (e : Int) : Int := max (floorLog2 n d e - f.fb) (f.quantum 0)

/-- The exact value x rounded once to a format. -/
def FFormat.round (f : FFormat) (r : Rnd) (sat : Bool) : FVal → Nat
  | .nan => f.nanCode
  | .inf s => if sat then f.largest s else f.overflowCode s
  | .fin s n d e =>
    if n = 0 then f.code s 0 0
    else
      let q := f.lastBit n d e
      f.encode r sat s (roundTo r s n d e q) q

/-- The largest finite magnitude as an exact value. -/
def FFormat.maxVal (f : FFormat) : FVal := f.decode (f.largest false)

/-! ### Scalar and vector float operations (R87, R88, R104); operands and results are codes -/

def fAdd (f : FFormat) (r : Rnd) (a b : Nat) : Nat := f.round r false (FVal.add r.rdn (f.decode a) (f.decode b))
def fSub (f : FFormat) (r : Rnd) (a b : Nat) : Nat := f.round r false (FVal.add r.rdn (f.decode a) (f.decode b).neg)
def fMul (f : FFormat) (r : Rnd) (a b : Nat) : Nat := f.round r false (FVal.mul (f.decode a) (f.decode b))
def fFma (f : FFormat) (r : Rnd) (a b c : Nat) : Nat :=
  f.round r false (FVal.add r.rdn (FVal.mul (f.decode a) (f.decode b)) (f.decode c))

/-- d − a × b, rounded once (R104). -/
def fFms (f : FFormat) (r : Rnd) (a b d : Nat) : Nat :=
  f.round r false (FVal.add r.rdn (FVal.mul (f.decode a) (f.decode b)).neg (f.decode d))

/-- a is the lesser, −0 below +0. -/
def fLesser (a b : FVal) : Bool := a.lt b || (!b.lt a && a.sign)

def fMin (f : FFormat) (a b : Nat) : Nat :=
  let x := f.decode a
  let y := f.decode b
  if x.isNan then (if y.isNan then f.nanCode else b) else if y.isNan then a else if fLesser x y then a else b

def fMax (f : FFormat) (a b : Nat) : Nat :=
  let x := f.decode a
  let y := f.decode b
  if x.isNan then (if y.isNan then f.nanCode else b) else if y.isNan then a else if fLesser x y then b else a

/-- The sign bit cleared; the canonical NaN for a NaN (R104). -/
def fAbs (f : FFormat) (a : Nat) : Nat := if (f.decode a).isNan then f.nanCode else a % 2 ^ (f.eb + f.fb)

/-- The sign bit inverted; the canonical NaN for a NaN (R104). -/
def fNeg (f : FFormat) (a : Nat) : Nat := if (f.decode a).isNan then f.nanCode else a ^^^ 2 ^ (f.eb + f.fb)

/-- The comparisons of R88. -/
inductive FRel | eq | ne | lt | le | un
  deriving DecidableEq, Repr

def fCmp (f : FFormat) (c : FRel) (a b : Nat) : Bool :=
  let x := f.decode a
  let y := f.decode b
  match c with
  | .eq => x.eq y
  | .ne => !x.eq y
  | .lt => x.lt y
  | .le => x.lt y || x.eq y
  | .un => x.isNan || y.isNan

/-- a × 2^n, rounded once (R111). -/
def fScale (f : FFormat) (r : Rnd) (a : Nat) (n : Int) : Nat :=
  f.round r false (match f.decode a with | .fin s m d e => .fin s m d (e + n) | x => x)


/-! ### Conversion codes (R34, R56) -/

/-- Kind of a conversion code. -/
inductive CKind | float (f : FFormat) | int (signed : Bool) (w : Nat) | t2 | e8m0
  deriving DecidableEq, Repr

/-- The code's kind; codes that the encoding reserves do not reach here. -/
def ckind : Nat → CKind
  | 0 => .float fmtFP32
  | 1 => .float fmtFP16
  | 2 => .float fmtBF16
  | 3 => .float fmtF8E4
  | 4 => .float fmtF8E5
  | 5 => .float fmtF6E3
  | 6 => .float fmtF6E2
  | 7 => .float fmtF4E2
  | 8 => .int true 8
  | 9 => .int false 8
  | 10 => .int true 16
  | 11 => .int true 4
  | 12 => .int false 4
  | 13 => .t2
  | 16 => .int true 32
  | 17 => .int false 32
  | 18 => .int true 64
  | 19 => .int false 64
  | _ => .e8m0

/-- Element width of a code in bits. -/
def CKind.width : CKind → Nat
  | .float f => f.width
  | .int _ w => w
  | .t2 => 2
  | .e8m0 => 8

/-- The exact value of an element, and the sticky bit T2's spare code raises (R37, R38, R40). -/
def CKind.decode (k : CKind) (w : Nat) : FVal × Warns :=
  match k with
  | .float f => (f.decode (w % 2 ^ f.width), 0)
  | .int true n => (FVal.ofInt (signedOf n w), 0)
  | .int false n => (FVal.ofInt (w % 2 ^ n : Nat), 0)
  | .t2 => (FVal.ofInt (if w % 4 = 1 then 1 else if w % 4 = 3 then -1 else 0), warnOf warnMt2 (w % 4 == 2))
  | .e8m0 => (if w % 256 = 255 then .nan else .fin false 1 1 ((w % 256 : Nat) - 127), 0)

def CKind.isInt : CKind → Bool
  | .int .. => true
  | .t2 => true
  | _ => false

/-- Whether a conversion rounds, and so draws in SR (R90): not between integers, not to E8M0, not to a float whose
exponent and fraction are both at least as wide as the source's. -/
def convRounds (t s : CKind) : Bool :=
  match t, s with
  | .e8m0, _ => false
  | .float f, .float g => !(decide (g.eb ≤ f.eb) && decide (g.fb ≤ f.fb))
  | .float f, .e8m0 => !decide (8 ≤ f.eb)
  | t, s => !(t.isInt && s.isInt)

/-- The range of an integer target. -/
def intMin (signed : Bool) (w : Nat) : Int := if signed then -(2 ^ (w - 1)) else 0
def intMax (signed : Bool) (w : Nat) : Int := if signed then 2 ^ (w - 1) - 1 else 2 ^ w - 1

/-- Conversion to an integer in a range: exact value rounded, then the rule (R43). The result is the integer. -/
def toInt (r : Rnd) (sat : Bool) (lo hi : Int) (w : Nat) : FVal → Int × Warns
  | .nan => (0, warnOf warnInv true)
  | .inf s => (if s then lo else hi, warnOf warnSat true)
  | .fin s n d e =>
    let m : Int := (roundTo r s n d e 0 : Nat)
    let x := if s then -m else m
    let out := (FVal.fin s n d e).lt (FVal.ofInt lo) || (FVal.ofInt hi).lt (FVal.fin s n d e)
    (if lo ≤ x ∧ x ≤ hi then x else if sat then (if s then lo else hi) else signedOf w (wrapInt w x), warnOf warnSat out)

/-- Conversion to E8M0 (R43): 2^floor(log2 |x|). -/
def toE8m0 (sat : Bool) : FVal → Nat × Warns
  | .nan => (0xFF, 0)
  | .inf _ => (if sat then 0xFE else 0xFF, warnOf warnSat true)
  | .fin _ n d e =>
    if n = 0 then (0, 0)
    else
      let l := floorLog2 n d e
      (if l < -127 then 0 else if 127 < l then 0xFE else (l + 127).toNat, warnOf warnSat (decide (127 < l)))

/-- Conversion to a float format (R43); F6E3, F6E2 and F4E2 take SAT whatever the rule. -/
def toFloat (f : FFormat) (r : Rnd) (sat : Bool) (x : FVal) : Nat × Warns :=
  let sat := sat || f.sp == .none
  (f.round r sat x,
   match x with
   | .nan => warnOf warnInv (f.sp == .none)
   | .inf _ => warnOf warnSat (sat || f.sp == .nanOnly)
   | .fin s n d e => warnOf warnSat (f.maxVal.lt (FVal.fin s n d e).abs))

/-- The conversion of R43 and R90, the result in the low bits of the target's width. -/
def CKind.encode (t : CKind) (r : Rnd) (sat : Bool) (x : FVal) : Nat × Warns :=
  match t with
  | .float f => toFloat f r sat x
  | .int sg w => let (v, wn) := toInt r sat (intMin sg w) (intMax sg w) w x; (wrapInt w v, wn)
  | .t2 => let (v, wn) := toInt r true (-1) 1 2 x; (wrapInt 2 v, wn)
  | .e8m0 => toE8m0 sat x

/-- One element converted from source code s to target code t. -/
def convert (t s : CKind) (r : Rnd) (sat : Bool) (w : Nat) : Nat × Warns :=
  let (x, w0) := s.decode w
  let (v, w1) := t.encode r sat x
  (v, w0 ||| w1)

/-! ### Special functions (R117, R118) -/

def floorDiv2 (x : Int) (k : Nat) : Int := x / (2 ^ k : Int)

/-- Exp2Core: (m, n) for about 2^(X × 2^−24). -/
def exp2Core (x : Int) : Nat × Int :=
  let n := floorDiv2 x 24
  let f := (x - n * 2 ^ 24).toNat
  let j := f / 2 ^ 18
  let u : Int := (f % 2 ^ 18 : Nat)
  let q := coefCE4
  let q := coefCE3 + floorDiv2 (q * u) 24
  let q := coefCE2 + floorDiv2 (q * u) 24
  let q := coefCE1 + floorDiv2 (q * u) 24
  let q := floorDiv2 (q * u) 24
  let t := tabTE.getD j 0
  (t + t * q.toNat / 2 ^ 40, n)

/-- Decompose: exponent E and integer Mi with |a| = Mi × 2^(E − 23) and 2^23 ≤ Mi < 2^24, for an FP32 magnitude n × 2^e. -/
def decompose (n : Nat) (e : Int) : Int × Nat :=
  let l := n.log2
  ((l : Int) + e, n * 2 ^ 23 / 2 ^ l)

/-- n / d × 2^e rounded to the nearest integer, ties to even, with sign. -/
def nearInt (s : Bool) (n d : Nat) (e : Int) : Int :=
  let m : Int := (roundTo { mode := 0, seed := 0, i := 0 } s n d e 0 : Nat)
  if s then -m else m

def one32 : FVal := .fin false 1 1 0

/-- The value of VEXP2 (R117, R118). -/
def vExp2 : FVal → FVal
  | .nan => .nan
  | .inf s => if s then .fin false 0 1 0 else .inf false
  | .fin s n d e =>
    if n = 0 then one32
    else if !(FVal.fin s n d e).lt (FVal.ofInt 128) then .fin false 1 1 128
    else if (FVal.fin s n d e).lt (FVal.ofInt (-160)) then .fin false 1 1 (-160)
    else
      let (m, k) := exp2Core (nearInt s n d (e + 24))
      .fin false m 1 (k - 40)

/-- The value of VLOG2. -/
def vLog2 : FVal → FVal
  | .nan => .nan
  | .inf s => if s then .nan else .inf false
  | .fin s n d e =>
    if n = 0 then .inf true
    else if s then .nan
    else if (FVal.fin s n d e).eq one32 then .fin false 0 1 0
    else
      let (E, mi) := decompose n e
      let j := mi / 2 ^ 17 - 64
      let z : Int := floorDiv2 ((mi * tabTR.getD j 0 : Nat) : Int) 23 - 2 ^ 40
      let q := coefCL4
      let q := coefCL3 + floorDiv2 (q * z) 40
      let q := coefCL2 + floorDiv2 (q * z) 40
      let q := coefCL1 + floorDiv2 (q * z) 40
      let q := floorDiv2 (q * z) 40
      let v : Int := E * 2 ^ 40 + ((tabTL.getD j 0 : Nat) : Int) + q
      .fin (decide (v < 0)) v.natAbs 1 (-40)

def rcpStep (mi : Nat) (y : Int) : Int := floorDiv2 (y * (2 ^ 41 - floorDiv2 ((mi : Int) * y) 23)) 40

/-- The value of VRCP. -/
def vRcp : FVal → FVal
  | .nan => .nan
  | .inf s => .fin s 0 1 0
  | .fin s n _ e =>
    if n = 0 then .inf s
    else
      let (E, mi) := decompose n e
      let y := rcpStep mi (rcpStep mi ((tabTC.getD (mi / 2 ^ 16 - 128) 0 : Nat) : Int))
      .fin s y.natAbs 1 (-E - 40)

def rsqStep (mi : Nat) (y : Int) : Int :=
  let g := floorDiv2 (y * y) 40
  floorDiv2 (y * (3 * 2 ^ 40 - floorDiv2 ((mi : Int) * g) 23)) 41

/-- The value of VRSQ. -/
def vRsq : FVal → FVal
  | .nan => .nan
  | .inf s => if s then .nan else .fin false 0 1 0
  | .fin s n _ e =>
    if n = 0 then .inf s
    else if s then .nan
    else
      let (E, mi) := decompose n e
      let (E, mi) := if E % 2 = 1 then (E - 1, 2 * mi) else (E, mi)
      let y := rsqStep mi (rsqStep mi ((tabTS.getD (mi / 2 ^ 18 - 32) 0 : Nat) : Int))
      .fin false y.natAbs 1 (-(E / 2) - 40)

/-- W − 1 over W + 1 for W = m × 2^k. -/
def tanhQuot (m : Nat) (k : Int) : Int × Nat :=
  let a := m * pow2p k
  let b := pow2p (-k)
  ((a : Int) - b, a + b)

/-- The value of VTANH. -/
def vTanh : FVal → FVal
  | .nan => .nan
  | .inf s => .fin s 1 1 0
  | .fin s n d e =>
    if n = 0 then .fin s 0 1 0
    else if (FVal.fin false n d e).lt (.fin false 1 1 (-12)) then
      -- a − a³ ÷ 3 = a (3 − a²) ÷ 3, and |a| < 1
      FVal.add false (.fin s n d e) (FVal.neg (FVal.mul (.fin s n d e) (FVal.mul (.fin s n d e) (.fin s n (3 * d) e))))
    else
      let (sn, se) := if (FVal.ofInt 16).lt (.fin false n d e) then (16, (0 : Int)) else (n, e)
      let x : Int := floorDiv2 (((sn * pow2p (se + 24) * coefKT / pow2p (-(se + 24)) : Nat)) : Int) 40
      let (m, k) := exp2Core x
      let (a, b) := tanhQuot m (k - 40)
      .fin s a.natAbs b 0

end Sys2Proof.Machine
end

