-- ==== Sys2Proof/Machine/Order.lean ====
section
/-! DEFINITION. Which earlier accesses of a strand an access waits for (R235, R255), when a release may take effect
(R198, R227), and promotion (R245). An access that is outstanding has been performed once its home has answered. -/

namespace Sys2Proof.Machine

/-- Where an access lies (R233): a context's global space, or one strand's scratchpad, named by peer. -/
inductive Space | glob (ctx : Nat) | spad (peer : Nat)
  deriving DecidableEq, Repr

/-- What R235 needs of an access. -/
structure Access where
  cls    : Nat
  writes : Bool
  acq    : Bool
  rel    : Bool
  space  : Space
  lo     : Nat
  n      : Nat
  deriving DecidableEq, Repr

/-- The peer number of the issuing strand itself. -/
def ownPeer : Nat := 0xFFFFF

/-! ### Copy patterns (R287, R288): the bytes of a side -/

/-- Length and stride of dimension k; one above dm1 has length 1 and no stride. -/
def cdLen (D : BitVec 512) (k : Nat) : Nat := if k ≤ bits D 429 428 then bits D (143 + 16 * k) (128 + 16 * k) else 1
def cdStride (D : BitVec 512) (dst : Bool) (k : Nat) : Int :=
  if k ≤ bits D 429 428 then
    (if dst then signedOf 32 (bits D (319 + 32 * k) (288 + 32 * k)) else signedOf 32 (bits D (223 + 32 * k) (192 + 32 * k)))
  else 0

/-- Base address of a side, and whether it is local. -/
def cdBase (D : BitVec 512) (dst : Bool) : Nat := if dst then bits D 119 64 else bits D 55 0
def cdLocal (D : BitVec 512) (dst : Bool) : Bool := if dst then D.getLsbD 127 else D.getLsbD 63

/-- Least and greatest offset of a dimension's steps. -/
def spanOf (n : Nat) (st : Int) : Int × Int := (min 0 (st * ((n : Int) - 1)), max 0 (st * ((n : Int) - 1)))

/-- The lowest byte of a side and the byte past its highest, for runs of the given shape: `unit` bytes at each step of
dimension 0 unless the side is packed, when a run is `unit` bytes long. -/
def cdSpan (D : BitVec 512) (dst packed : Bool) (unit : Nat) : Int × Int :=
  let s0 := if packed then (0, 0) else spanOf (cdLen D 0) (cdStride D dst 0)
  let s1 := spanOf (cdLen D 1) (cdStride D dst 1)
  let s2 := spanOf (cdLen D 2) (cdStride D dst 2)
  ((cdBase D dst : Int) + s0.1 + s1.1 + s2.1, (cdBase D dst : Int) + s0.2 + s1.2 + s2.2 + unit)

/-- Elements of a pattern. -/
def cdCount (D : BitVec 512) : Nat := cdLen D 0 * cdLen D 1 * cdLen D 2

/-- Bytes of one run on a side of w-bit elements, and whether it is packed. -/
def sideUnit (n0 w : Nat) : Bool × Nat := if w < 8 then (true, (n0 * w + 7) / 8) else (false, w / 8)

/-- Element widths of the two sides in bits (R287). -/
def cdWidth (D : BitVec 512) (conv dst : Bool) : Nat :=
  if conv then (ckind (if dst then bits D 424 420 else bits D 419 415)).width else 8 * 2 ^ bits D 427 426

/-- The bytes of a side. -/
def sideSpan (D : BitVec 512) (conv dst : Bool) : Int × Int :=
  let u := sideUnit (cdLen D 0) (cdWidth D conv dst)
  cdSpan D dst u.1 u.2

/-- The global bytes of a copy that its order rests on: the hull of its global sides (log 23). -/
def copyLoc (D : BitVec 512) (conv : Bool) : Option (Bool × Int × Int) :=
  match cdLocal D false, cdLocal D true with
  | true, true => none
  | false, true => let a := sideSpan D conv false; some (false, a.1, a.2)
  | true, false => let b := sideSpan D conv true; some (true, b.1, b.2)
  | false, false =>
    let a := sideSpan D conv false
    let b := sideSpan D conv true
    some (true, min a.1 b.1, max a.2 b.2)

/-- The location of a transaction's access; `none` for one that carries no class. -/
def TxnKind.loc (ctx : Nat) : TxnKind → Option (Bool × Space × Nat × Nat)
  | .ld va n _ => some (false, .glob ctx, va, n)
  | .st va n _ => some (true, .glob ctx, va, n)
  | .vld va => some (false, .glob ctx, va, 256)
  | .vst va _ => some (true, .glob ctx, va, 256)
  | .amo va n _ _ _ => some (true, .glob ctx, va, n)
  | .cas va n _ _ => some (true, .glob ctx, va, n)
  | .ldx p a n _ => some (false, .spad p, a, n)
  | .stx p a n _ => some (true, .spad p, a, n)
  | .twAmo p a n _ _ _ => some (true, .spad p, a, n)
  | .twCas p a n _ _ => some (true, .spad p, a, n)
  | .twVld p a => some (false, .spad p, a, 256)
  | .twVst p a _ => some (true, .spad p, a, 256)
  | .copy D conv _ _ _ =>
    match copyLoc D conv with
    | none =>
      let a := sideSpan D conv false
      let b := sideSpan D conv true
      if cdCount D = 0 then none else some (true, .spad ownPeer, (min a.1 b.1).toNat, (max a.2 b.2 - min a.1 b.1).toNat)
    | some (w, lo, hi) => if cdCount D = 0 then none else some (w, .glob ctx, lo.toNat, (hi - lo).toNat)
  | .mcast D _ _ =>
    if cdLocal D false || cdCount D = 0 then none
    else let a := sideSpan D false false; some (false, .glob ctx, a.1.toNat, (a.2 - a.1).toNat)
  | .scrub va n => some (true, .glob ctx, va, n)
  | .mcastWrite p a n _ _ _ _ _ => if n = 0 then none else some (true, .spad p, a, n)
  | _ => none

/-- An outstanding transaction's access. -/
def Txn.access (x : Txn) : Option Access :=
  match x.kind.loc x.ctx with
  | some (w, sp, lo, n) => some { cls := x.cls, writes := w, acq := x.acq, rel := x.rel, space := sp, lo := lo, n := n }
  | none => none

/-- The access has not been performed at its home. -/
def Txn.unperformed (x : Txn) : Bool := x.resp == .pending || x.resp == .retry

/-- X, earlier in program order, is ordered before Y by rules 1 to 4 of R235. Rule 6 holds because no front issues before
its operands have arrived; rule 5 is `fenced`. -/
def orderedBefore (x y : Access) : Bool :=
  (decide (x.space = y.space) && overlap (x.lo, x.n) (y.lo, y.n) && (x.writes || y.writes)) ||
  (decide (x.cls = y.cls) && (x.writes || y.writes)) || x.acq || y.rel

/-- The transactions of the strand on a tile. -/
def State.strandTxns (s : State) (t : Nat) : List Txn := s.txns.filter (fun x => x.tile == t)

/-- An access of a masked class waits at a FENCE for the masked accesses before it (R255). -/
def fenced (s : State) (t cls : Nat) : Bool :=
  s.fences.any (fun f => f.tile == t && f.mask.getLsbD cls &&
    (s.strandTxns t).any (fun x => decide (x.id < f.before) && x.unperformed && x.access.isSome && f.mask.getLsbD x.cls))

/-- A local access of the A-front waits for the earlier global accesses that R235 orders before it. -/
def localWait (s : State) (t lo n : Nat) (writes : Bool) : Bool :=
  let y : Access := { cls := 0, writes := writes, acq := false, rel := false, space := .spad ownPeer, lo := lo, n := n }
  fenced s t 0 ||
    (s.strandTxns t).any (fun x => x.unperformed && (match x.access with | some a => orderedBefore a y | none => false))

/-- An outstanding access is not performed before the earlier ones of its strand that R235 orders before it. -/
def Txn.mustWait (s : State) (y : Txn) : Bool :=
  (s.strandTxns y.tile).any (fun x => decide (x.id < y.id) && x.unperformed &&
    (match x.access, y.access with | some a, some b => orderedBefore a b | _, _ => false))

/-- Every earlier access of the strand has been performed and every gathered line has been sent home, so that a release
may take effect (R198, R227, R239). -/
def canRelease (s : State) (t : Nat) : Bool :=
  (s.tile t).gather.isEmpty && !(s.strandTxns t).any (fun x => x.unperformed && x.access.isSome)

/-- The same for the accesses that precede one transaction. -/
def canReleaseAt (s : State) (t id : Nat) : Bool :=
  (s.tile t).gather.isEmpty && !(s.strandTxns t).any (fun x => decide (x.id < id) && x.unperformed && x.access.isSome)

/-- A promotion of an owner: its lines are unpinned (R245). -/
def promote (s : State) (owner : Nat) : State := { s with pins := s.pins.filter (fun p => p.owner != owner) }

/-- A release at a scope: at scope 3 or wider it promotes (R245). -/
def releaseAt (s : State) (t scope : Nat) : State := if 3 ≤ scope then promote s t else s

end Sys2Proof.Machine
end

