-- ==== Sys2Proof/Machine/Scalar.lean ====
section
/-! DEFINITION. Scalar integer, immediate, shift, select and float instructions (06: R80 to R90). Both fronts. -/

namespace Sys2Proof.Machine

/-- A two-source operation at width w (R80): the low w bits of both, a w-bit result, extended by sign or by zero. -/
def alu2 (s : State) (i : Instr) (d a b : Reg) (w : Width) (sgn : Bool) (op : Nat → Nat → Nat → Nat) : Out :=
  issueS s { instr := i, rs := [a, b] } d (fun _ _ I =>
    let r := op w.nbits ((I.s 0).toNat % 2 ^ w.nbits) ((I.s 1).toNat % 2 ^ w.nbits)
    if sgn then extS w.nbits r else extZ r)

/-- A one-source operation at width w, extended by zero (R83). -/
def alu1 (s : State) (i : Instr) (d a : Reg) (w : Width) (op : Nat → Nat → Nat) : Out :=
  issueS s { instr := i, rs := [a] } d (fun _ _ I => extZ (op w.nbits ((I.s 0).toNat % 2 ^ w.nbits)))

/-- A register and an immediate on all 64 bits (R84). -/
def aluImm (s : State) (i : Instr) (d a : Reg) (val : Word → Issue → Word) : Out :=
  issueS s { instr := i, rs := [a], himm := true } d (fun _ _ I => val (I.s 0) I)

/-- A shift by an immediate (R85). -/
def shiftImm (s : State) (i : Instr) (d a : Reg) (val : Word → Word) : Out :=
  issueS s { instr := i, rs := [a] } d (fun _ _ I => val (I.s 0))


/-- ADD (R81). -/
def execAdd (d a b : Reg) (w : Width) (s : State) : Out := alu2 s (.add d a b w) d a b w true aluAdd

/-- SUB (R81). -/
def execSub (d a b : Reg) (w : Width) (s : State) : Out := alu2 s (.sub d a b w) d a b w true aluSub

/-- ANDD (R81). -/
def execAndd (d a b : Reg) (w : Width) (s : State) : Out := alu2 s (.andd d a b w) d a b w true (fun _ a b => a &&& b)

/-- ORR (R81). -/
def execOrr (d a b : Reg) (w : Width) (s : State) : Out := alu2 s (.orr d a b w) d a b w true (fun _ a b => a ||| b)

/-- XORR (R81). -/
def execXorr (d a b : Reg) (w : Width) (s : State) : Out := alu2 s (.xorr d a b w) d a b w true (fun _ a b => a ^^^ b)

/-- ANDN (R81). -/
def execAndn (d a b : Reg) (w : Width) (s : State) : Out := alu2 s (.andn d a b w) d a b w true aluAndn

/-- SLL (R81). -/
def execSll (d a b : Reg) (w : Width) (s : State) : Out := alu2 s (.sll d a b w) d a b w true aluSll

/-- SRL (R81). -/
def execSrl (d a b : Reg) (w : Width) (s : State) : Out := alu2 s (.srl d a b w) d a b w false aluSrl

/-- SRA (R81). -/
def execSra (d a b : Reg) (w : Width) (s : State) : Out := alu2 s (.sra d a b w) d a b w true aluSra

/-- SLT (R81). -/
def execSlt (d a b : Reg) (w : Width) (s : State) : Out := alu2 s (.slt d a b w) d a b w false aluSlt

/-- SLTU (R81). -/
def execSltu (d a b : Reg) (w : Width) (s : State) : Out := alu2 s (.sltu d a b w) d a b w false aluSltu

/-- MINN (R81). -/
def execMinn (d a b : Reg) (w : Width) (s : State) : Out := alu2 s (.minn d a b w) d a b w true aluMin

/-- MAXX (R81). -/
def execMaxx (d a b : Reg) (w : Width) (s : State) : Out := alu2 s (.maxx d a b w) d a b w true aluMax

/-- MINU (R81). -/
def execMinu (d a b : Reg) (w : Width) (s : State) : Out := alu2 s (.minu d a b w) d a b w false (fun _ a b => min a b)

/-- MAXU (R81). -/
def execMaxu (d a b : Reg) (w : Width) (s : State) : Out := alu2 s (.maxu d a b w) d a b w false (fun _ a b => max a b)

/-- MUL (R82, R49). -/
def execMul (d a b : Reg) (w : Width) (s : State) : Out := alu2 s (.mul d a b w) d a b w true aluMul

/-- MULH (R82, R49). -/
def execMulh (d a b : Reg) (w : Width) (s : State) : Out := alu2 s (.mulh d a b w) d a b w true aluMulh

/-- MULHU (R82, R49). -/
def execMulhu (d a b : Reg) (w : Width) (s : State) : Out := alu2 s (.mulhu d a b w) d a b w false aluMulhu

/-- DIV (R82, R49). -/
def execDiv (d a b : Reg) (w : Width) (s : State) : Out := alu2 s (.div d a b w) d a b w true aluDiv

/-- DIVU (R82, R49). -/
def execDivu (d a b : Reg) (w : Width) (s : State) : Out := alu2 s (.divu d a b w) d a b w false aluDivu

/-- REM (R82, R49). -/
def execRem (d a b : Reg) (w : Width) (s : State) : Out := alu2 s (.rem d a b w) d a b w true aluRem

/-- REMU (R82, R49). -/
def execRemu (d a b : Reg) (w : Width) (s : State) : Out := alu2 s (.remu d a b w) d a b w false aluRemu

/-- CLZ (R83, R50). -/
def execClz (d a : Reg) (w : Width) (s : State) : Out := alu1 s (.clz d a w) d a w aluClz

/-- FFS (R83, R50). -/
def execFfs (d a : Reg) (w : Width) (s : State) : Out := alu1 s (.ffs d a w) d a w aluFfs

/-- POPC (R83, R50). -/
def execPopc (d a : Reg) (w : Width) (s : State) : Out := alu1 s (.popc d a w) d a w popCount

/-- BREV (R83, R50). -/
def execBrev (d a : Reg) (w : Width) (s : State) : Out := alu1 s (.brev d a w) d a w revBits

/-- BEXT (R83): all of the control word's fields are read, whatever the width. -/
def execBext (d a b : Reg) (w : Width) (s : State) : Out :=
  issueS s { instr := .bext d a b w, rs := [a, b] } d (fun _ _ I => extZ (aluBext w.nbits (I.s 0).toNat (I.s 1).toNat))

/-- BINS (R83): d is a third source, so a port there is in the wrong direction on either front. -/
def execBins (d a b : Reg) (w : Width) (s : State) : Out :=
  issueS s { instr := .bins d a b w, rs := [a, b, d] } d
    (fun _ _ I => extS w.nbits (aluBins w.nbits (I.s 0).toNat (I.s 1).toNat (I.s 2).toNat))

/-- SEXT (R83). -/
def execSext (d a b : Reg) (w : Width) (s : State) : Out :=
  issueS s { instr := .sext d a b w, rs := [a, b] } d
    (fun _ _ I => extS w.nbits (aluSext w.nbits ((I.s 0).toNat % 2 ^ w.nbits) (I.s 1).toNat))

/-- ADDI (R84). -/
def execAddi (d a : Reg) (i : BitVec 16) (s : State) : Out :=
  aluImm s (.addi d a i) d a (fun x I => BitVec.ofInt 64 (x.toNat + immS I.himm 16 i.toNat))

/-- ANDI (R84). -/
def execAndi (d a : Reg) (i : BitVec 16) (s : State) : Out :=
  aluImm s (.andi d a i) d a (fun x I => x &&& BitVec.ofNat 64 (immU I.himm 16 i.toNat))

/-- ORI (R84). -/
def execOri (d a : Reg) (i : BitVec 16) (s : State) : Out :=
  aluImm s (.ori d a i) d a (fun x I => x ||| BitVec.ofNat 64 (immU I.himm 16 i.toNat))

/-- XORI (R84). -/
def execXori (d a : Reg) (i : BitVec 16) (s : State) : Out :=
  aluImm s (.xori d a i) d a (fun x I => x ^^^ BitVec.ofNat 64 (immU I.himm 16 i.toNat))

/-- SLTI (R84). -/
def execSlti (d a : Reg) (i : BitVec 16) (s : State) : Out :=
  aluImm s (.slti d a i) d a (fun x I => if signedOf 64 x.toNat < immS I.himm 16 i.toNat then 1 else 0)

/-- SETHI (R84): the immediate at the top, the bits below it kept. -/
def execSethi (d a : Reg) (i : BitVec 16) (s : State) : Out :=
  aluImm s (.sethi d a i) d a (fun x I =>
    let (v, n) := wideImm I.himm 16 i.toNat
    BitVec.ofNat 64 (v * 2 ^ (64 - n) + x.toNat % 2 ^ (64 - n)))

/-- SLLI (R85). -/
def execSlli (d a : Reg) (sh : BitVec 6) (s : State) : Out := shiftImm s (.slli d a sh) d a (fun x => x <<< sh.toNat)

/-- SRLI (R85). -/
def execSrli (d a : Reg) (sh : BitVec 6) (s : State) : Out := shiftImm s (.srli d a sh) d a (fun x => x >>> sh.toNat)

/-- SRAI (R85). -/
def execSrai (d a : Reg) (sh : BitVec 6) (s : State) : Out := shiftImm s (.srai d a sh) d a (fun x => x.sshiftRight sh.toNat)

/-- SEL (R86): every port among the sources is popped. -/
def execSel (d a b c : Reg) (s : State) : Out :=
  issueS s { instr := .sel d a b c, rs := [a, b, c] } d (fun _ _ I => if I.s 2 ≠ 0 then I.s 0 else I.s 1)

/-! ### Scalar floating point (R87 to R90) -/

/-- The formats of major 0x0E (R61). -/
def fmtOf : FFmt → FFormat
  | .fp32 => fmtFP32
  | .fp16 => fmtFP16
  | .bf16 => fmtBF16

/-- The rounding an instruction samples at issue (R44): its front's mode and, in SR and when it can round, one draw (R45). -/
def Tile.sample (T : Tile) (f : Front) (draws : Bool) : Rnd × Tile :=
  let F := T.front f
  if draws && F.rmode == 5 then ({ mode := 5, seed := F.draw.1, i := 0 }, T.setFront f F.draw.2)
  else ({ mode := F.rmode.toNat, seed := 0, i := 0 }, T)

/-- A float operation that rounds once (R87). -/
def fRounding (s : State) (i : Instr) (d : Reg) (rs : List Reg) (f : FFmt) (op : FFormat → Rnd → (Nat → Nat) → Nat) : Out :=
  issueTile s { instr := i, rs := rs, ws := [d] } (fun T fr I =>
    let fm := fmtOf f
    let (r, T) := T.sample fr true
    T.putS fr d (extZ (op fm r (fun k => (I.s k).toNat % 2 ^ fm.width))))

/-- A float operation that never rounds (R87). -/
def fExact (s : State) (i : Instr) (d a b : Reg) (f : FFmt) (op : FFormat → Nat → Nat → Nat) : Out :=
  issueS s { instr := i, rs := [a, b] } d (fun _ _ I =>
    let fm := fmtOf f
    extZ (op fm ((I.s 0).toNat % 2 ^ fm.width) ((I.s 1).toNat % 2 ^ fm.width)))


/-- FADD (R88). -/
def execFadd (d a b : Reg) (f : FFmt) (s : State) : Out :=
  fRounding s (.fadd d a b f) d [a, b] f (fun fm r x => fAdd fm r (x 0) (x 1))

/-- FSUB (R88). -/
def execFsub (d a b : Reg) (f : FFmt) (s : State) : Out :=
  fRounding s (.fsub d a b f) d [a, b] f (fun fm r x => fSub fm r (x 0) (x 1))

/-- FMUL (R88). -/
def execFmul (d a b : Reg) (f : FFmt) (s : State) : Out :=
  fRounding s (.fmul d a b f) d [a, b] f (fun fm r x => fMul fm r (x 0) (x 1))

/-- FMIN (R88). -/
def execFmin (d a b : Reg) (f : FFmt) (s : State) : Out := fExact s (.fmin d a b f) d a b f fMin

/-- FMAX (R88). -/
def execFmax (d a b : Reg) (f : FFmt) (s : State) : Out := fExact s (.fmax d a b f) d a b f fMax

/-- FCMP.eq (R88). -/
def execFcmpEq (d a b : Reg) (f : FFmt) (s : State) : Out :=
  fExact s (.fcmpEq d a b f) d a b f (fun fm x y => if fCmp fm .eq x y then 1 else 0)

/-- FCMP.ne (R88). -/
def execFcmpNe (d a b : Reg) (f : FFmt) (s : State) : Out :=
  fExact s (.fcmpNe d a b f) d a b f (fun fm x y => if fCmp fm .ne x y then 1 else 0)

/-- FCMP.lt (R88). -/
def execFcmpLt (d a b : Reg) (f : FFmt) (s : State) : Out :=
  fExact s (.fcmpLt d a b f) d a b f (fun fm x y => if fCmp fm .lt x y then 1 else 0)

/-- FCMP.le (R88). -/
def execFcmpLe (d a b : Reg) (f : FFmt) (s : State) : Out :=
  fExact s (.fcmpLe d a b f) d a b f (fun fm x y => if fCmp fm .le x y then 1 else 0)

/-- FCMP.un (R88). -/
def execFcmpUn (d a b : Reg) (f : FFmt) (s : State) : Out :=
  fExact s (.fcmpUn d a b f) d a b f (fun fm x y => if fCmp fm .un x y then 1 else 0)

/-- FFMA (R89). -/
def execFfma (d a b c : Reg) (f : FFmt) (s : State) : Out :=
  fRounding s (.ffma d a b c f) d [a, b, c] f (fun fm r x => fFma fm r (x 0) (x 1) (x 2))

/-- A converted value in 64 bits (R90): signed integers by sign, everything else by zero. -/
def placeConv (t : CKind) (v : Nat) : Word :=
  match t with
  | .int true w => extS w v
  | _ => extZ v

/-- FCVT (R90). -/
def execFcvt (d a : Reg) (t src : BitVec 5) (sat : Bool) (s : State) : Out :=
  issueTile s { instr := .fcvt d a t src sat, rs := [a], ws := [d] } (fun T fr I =>
    let tk := ckind t.toNat
    let sk := ckind src.toNat
    let (r, T) := T.sample fr (convRounds tk sk)
    let (v, w) := convert tk sk r sat (I.s 0).toNat
    (T.raise w).putS fr d (placeConv tk v))

end Sys2Proof.Machine
end

