-- ==== Sys2Proof/Machine/Control.lean ====
section
/-! DEFINITION. Branches, NOP, END, hints, words that are no instruction, local loads and stores, queue status and drain,
the arrival of a loaded value and the decoupling-deadlock trap (02, 04, 06). -/

namespace Sys2Proof.Machine

/-! ### Control (R91 to R93) -/

/-- A code-store address (R22, R55): modulo 2^16. -/
def pcOf (x : Int) : Pc := BitVec.ofInt 16 x

/-- The front in focus continues at an address. -/
def State.jump (s : State) (p : Pc) : State :=
  s.modTile s.focus.1 (fun T => T.modFront s.focus.2 (fun F => { F with pc := p }))

/-- The conditions of BR on all 64 bits (R91). -/
def brTaken (c : BrCond) (a b : Word) : Bool :=
  match c with
  | .eq => a == b
  | .ne => a != b
  | .lt => decide (signedOf 64 a.toNat < signedOf 64 b.toNat)
  | .ge => decide (signedOf 64 b.toNat ≤ signedOf 64 a.toNat)
  | .ltu => decide (a.toNat < b.toNat)
  | .geu => decide (b.toNat ≤ a.toNat)
  | .al => true

/-- BR (R91): with AL the fields a and b are not read. -/
def execBr (a b : Reg) (c : BrCond) (o : BitVec 13) (s : State) : Out :=
  issue s { instr := .br a b c o, rs := if c = .al then [] else [a, b], himm := true } (fun s I =>
    .done (if brTaken c (I.s 0) (I.s 1) then s.jump (pcOf (I.ipc.toNat + 4 * immS I.himm 13 o.toNat)) else s))

/-- JAL (R92): links into s23. -/
def execJal (o : BitVec 26) (s : State) : Out :=
  issue s { instr := .jal o, ws := [23], himm := true } (fun s I =>
    .done ((s.modTile s.focus.1 (fun T => T.putS s.focus.2 23 ((I.ipc + 4).setWidth 64))).jump
      (pcOf (I.ipc.toNat + 4 * immS I.himm 26 o.toNat))))

/-- JALR (R92): the target is the exact sum, and must lie in the code store, aligned. -/
def execJalr (d a : Reg) (i : BitVec 16) (s : State) : Out :=
  issue s { instr := .jalr d a i, rs := [a], ws := [d], himm := true } (fun s I =>
    let t : Int := (I.s 0).toNat + immS I.himm 16 i.toNat
    if t < 0 ∨ 2 ^ 16 ≤ t ∨ t % 4 ≠ 0 then .trap 0x06 (BitVec.ofInt 64 t)
    else .done ((s.modTile s.focus.1 (fun T => T.putS s.focus.2 d ((I.ipc + 4).setWidth 64))).jump (pcOf t)))

/-- NOP (R93). -/
def execNop (s : State) : Out := issueTile s { instr := .nop } (fun T _ _ => T)

/-- END (R31, R93). -/
def execEndStrand (s : State) : Out :=
  issueTile s { instr := .endStrand } (fun T f I => T.modFront f (fun F => { F with ended := true, endPc := I.ipc }))

/-! ### Hints (R57 to R59) -/

/-- A hint word issues: it joins the pending group; a kind already pending is replaced and sets warn.hint. -/
def issueHint (s : State) (i : Instr) (again : Hints → Bool) (put : Hints → Hints) : Out :=
  let t := s.focus.1
  let f := s.focus.2
  let T := s.tile t
  if !T.runs f then .next s
  else match ({ instr := i } : Form).gate T t f with
    | some code => .next (preciseTrap s code (wordVal i))
    | none =>
      let F := T.front f
      let h := F.hints
      let h := if h.himm.isSome || h.hmod.isSome || h.hpri.isSome then h else { h with first := F.pc }
      .next ((s.setTile t (((T.setFront f { F with pc := F.pc + 4, hints := put h }).warnIf warnHint (again h)).wake)).count
        T.vf (2 + f.code) 1)

/-- HIMM (R58). -/
def execHimm (p : BitVec 22) (s : State) : Out :=
  issueHint s (.himm p) (fun h => h.himm.isSome) (fun h => { h with himm := some p })

/-- HMOD (R59). -/
def execHmod (p : BitVec 22) (s : State) : Out :=
  issueHint s (.hmod p) (fun h => h.hmod.isSome) (fun h => { h with hmod := some p })

/-- HPRI (R59). -/
def execHpri (p : BitVec 3) (s : State) : Out :=
  issueHint s (.hpri p) (fun h => h.hpri.isSome) (fun h => { h with hpri := some p })

/-- A word that is no instruction (R64): traps with the word as tval. -/
def execUnassignedEncoding (w : IWord) (s : State) : Out :=
  if s.cur.runs s.focus.2 then .next (preciseTrap s 0x01 (w.setWidth 64)) else .next s

/-! ### Local loads and stores (R21, R94, R95) -/

/-- A byte of the tile's local space (R21). -/
def Tile.localByte (T : Tile) (a : Nat) : Byte := if a < spadEnd then memGet T.spad a else memGet T.code (a - spadEnd)

/-- n bytes of the local space from a, lowest first. -/
def Tile.localBytes (T : Tile) (a : Nat) : Nat → List Byte
  | 0 => []
  | n + 1 => T.localByte a :: T.localBytes (a + 1) n

def Tile.localNat (T : Tile) (a n : Nat) : Nat := leNat (T.localBytes a n)

/-- n bytes written to the scratchpad. -/
def Tile.spadPut (T : Tile) (a n v : Nat) : Tile := { T with spad := memPutNat T.spad a n v }

/-- The checks of a local access (R94, R121): range, then alignment; the cause that is raised. -/
def localCause (x : Int) (n last align : Nat) : Option Nat :=
  if x < 0 ∨ (last : Int) < x + n then some 0x07 else if x % align ≠ 0 then some 0x08 else none

/-- A load's value is on its way to its destination (R28). -/
def State.fillLater (s : State) (f : Front) (id : Nat) (d : Dest) (v : Vec) : State :=
  match d with
  | .none => s
  | d => (s.modTile s.focus.1 (fun T => { T with fills := T.fills ++ [{ id := id, front := f, dest := d, val := v }] })).post
      (.localLoadFill s.focus.1 id)

/-- A value is written to d when it arrives: the destination is reserved at issue. -/
def State.loadTo (s : State) (f : Front) (d : Reg) (v : Word) : State :=
  let (id, s) := s.fresh
  let (ds, T) := (s.tile s.focus.1).reserveS f d id
  (s.setTile s.focus.1 T).fillLater f id ds (v.setWidth 2048)

/-- A vector arrives in a port reserved at issue (R120). -/
def State.loadToV (s : State) (f : Front) (d : Reg) (v : Vec) : State :=
  let (id, s) := s.fresh
  let (ds, T) := (s.tile s.focus.1).reserveV d id
  (s.setTile s.focus.1 T).fillLater f id ds v

/-- Whether a local access must wait: for an earlier engine command (R149), or on the A-front for an earlier global access
that R235 orders before it. -/
def State.localHeld (s : State) (f : Front) (x n : Nat) (writes : Bool) : Bool :=
  (s.tile s.focus.1).sbClash [(x, n)] writes || (f == .a && localWait s s.focus.1 x n writes)

/-- Size in bytes and sign of an LDS size code (R63). -/
def LoadSize.shape : LoadSize → Nat × Bool
  | .u8 => (1, false)
  | .u16 => (2, false)
  | .u32 => (4, false)
  | .d64 => (8, false)
  | .s8 => (1, true)
  | .s16 => (2, true)
  | .s32 => (4, true)

/-- LDS (R94). -/
def execLds (d b : Reg) (sz : LoadSize) (o : BitVec 10) (s : State) : Out :=
  issue s { instr := .lds d b sz o, rs := [b], ws := [d], himm := true, hpri := true } (fun s I =>
    let n := (LoadSize.shape sz).1
    let x : Int := (I.s 0).toNat + immS I.himm 10 o.toNat * n
    match localCause x n codeEnd n with
    | some c => .trap c (BitVec.ofInt 64 x)
    | none =>
      if s.localHeld s.focus.2 x.toNat n false then .wait
      else
        let v := (s.tile s.focus.1).localNat x.toNat n
        .done (s.loadTo s.focus.2 d (if (LoadSize.shape sz).2 then extS (8 * n) v else extZ v)))

/-- STS (R94): the address is read before the data. -/
def execSts (d b : Reg) (sz : Width) (o : BitVec 10) (s : State) : Out :=
  issue s { instr := .sts d b sz o, rs := [b, d], himm := true, hpri := true } (fun s I =>
    let n := sz.nbytes
    let x : Int := (I.s 0).toNat + immS I.himm 10 o.toNat * n
    match localCause x n spadEnd n with
    | some c => .trap c (BitVec.ofInt 64 x)
    | none =>
      if s.localHeld s.focus.2 x.toNat n true then .wait
      else .done (s.modTile s.focus.1 (fun T => T.spadPut x.toNat n (I.s 1).toNat)))

/-- The arrival of a loaded value (R23, R28). -/
def execLocalLoadFill (t id : Nat) (s : State) : Out :=
  match (s.tile t).fills.find? (fun x => x.id == id) with
  | none => .next s
  | some x => .next (s.modTile t (fun T =>
      { T with fills := T.fills.filter (fun y => y.id != id) }.deliver x.front id x.dest x.val))

/-! ### Queue status and drain (R96, R97) -/

/-- Counts of a port: filled, reserved, free. -/
def portCounts {n : Nat} (depth : Nat) (l : List (QSlot n)) : Nat × Nat × Nat :=
  ((l.filter (fun e => !e.isPending)).length, (l.filter QSlot.isPending).length, depth - l.length)

/-- The front that pops a port: the X-front pops s24 to s27 and v28, v29 (R26). -/
def popper (w : BitVec 2) (a : Reg) : Front :=
  if w = 3 then (if a.toNat < 28 then .x else .a) else (if a.toNat < 30 then .x else .a)

def Tile.portStat (T : Tile) (w : BitVec 2) (a : Reg) : Nat × Nat × Nat :=
  if w = 3 then portCounts sDepth (T.sport (a.toNat - 24)) else portCounts vDepth (T.vport (a.toNat - 28))

/-- QSTAT (R96). -/
def execQstat (d a : Reg) (w : BitVec 2) (s : State) : Out :=
  issueS s { instr := .qstat d a w } d (fun T _ _ =>
    let (n, p, fr) := T.portStat w a
    let ended := (T.front (popper w a).other).ended
    extZ ((if ended then 2 ^ 15 else 0) + fr * 2 ^ 10 + p * 2 ^ 5 + n))

/-- QDRAIN (R97): from the popping front, once no slot is reserved. -/
def execQdrain (d a : Reg) (w : BitVec 2) (s : State) : Out :=
  issue s { instr := .qdrain d a w, ws := [d], dir := popper w a == s.focus.2 } (fun s _ =>
    let T := s.tile s.focus.1
    let (n, p, _) := T.portStat w a
    if p ≠ 0 then .wait
    else
      let T := if w = 3 then T.setSport (a.toNat - 24) [] else T.setVport (a.toNat - 28) []
      .done (s.setTile s.focus.1 (T.putS s.focus.2 d (extZ n))))

/-! ### The decoupling-deadlock trap (R32, R33) -/

/-- Ports on which a front waits; `none` when it is not queue-blocked. -/
def FrontState.blockedOn (F : FrontState) : Option (List Nat) :=
  if F.inEret then none
  else if F.ended then some []
  else match F.wait with
    | .ports ps => some ps
    | _ => none

/-- A port, by its bit number in tval, has a reserved slot whose operation is in flight. -/
def Tile.portFlying (T : Tile) (b : Nat) : Bool :=
  if 16 ≤ b then (T.vport (b - 16)).any QSlot.isPending else (T.sport (b - 8)).any QSlot.isPending

/-- The ports of a decoupling deadlock, when there is one (R33). -/
def Tile.deadlock (T : Tile) : Option (List Nat) :=
  if T.phase != .running || T.frozen || (T.fa.ended && T.fx.ended) then none
  else match T.fa.blockedOn, T.fx.blockedOn with
    | some p, some q => if (p ++ q).any T.portFlying then none else some (p ++ q)
    | _, _ => none

/-- Bits of tval: n − 16 for port sn, 16 to 19 for v28 to v31. -/
def portBits (ps : List Nat) : Word := ps.foldl (fun w b => w ||| (1#64 <<< b)) 0

/-- Address of the instruction at which a front stands: the END of one that has ended. -/
def FrontState.at (F : FrontState) : Pc := if F.ended then F.endPc else F.pc

/-- The decoupling-deadlock trap (R33), reported for the A-front (log 17). -/
def execDecouplingDeadlock (t : Nat) (s : State) : Out :=
  match (s.tile t).deadlock with
  | none => .next s
  | some ps => .next (takeTrap s t 0x05 0 .a (s.tile t).fa.at (portBits ps))

end Sys2Proof.Machine
end

