-- ==== Sys2Proof/Machine/Slice.lean ====
section
/-! DEFINITION. The home of a global address: the physical map (R216), the home slice (R217), the page walk and the
translation cache (R222 to R224), the last-level cache with its ways (R218 to R221), pins (R243, R244), poison (R312,
R317), the gather cache's recall (R227) and the blocks the lehr watches (R366, R367). -/

namespace Sys2Proof.Machine

/-! ### The physical map (R216) -/

/-- What a physical address selects. -/
inductive Target | hbm | carve (die : Nat) | host | remote
  deriving DecidableEq, Repr

/-- Bytes of one HBM stack, and of all of them. -/
def stackBytes : Nat := 0xC00000000
def hbmEnd : Nat := 0x6000000000
def carveBase : Nat := 0x10000000000
def podBase : Nat := 0x8000000000000

/-- The die of an HBM address: stacks 0 to 3 on die 0 (R4). -/
def hbmDie (pa : Nat) : Nat := pa / stackBytes / 4

/-- A die that stopped (R357), or in minimal mode die 1 (R377), answers nothing. -/
def State.dieDown (s : State) (d : Nat) : Bool := (s.die d).stopped || (s.mg.min && d == 1)

/-- HBM that is backed: in minimal mode stack 0 alone (R377); none of a stopped die (R358). -/
def hbmOk (s : State) (pa : Nat) : Bool :=
  decide (pa < hbmEnd) && !s.dieDown (hbmDie pa) && (!s.mg.min || decide (pa < stackBytes))

/-- A local physical address. -/
def localTarget (s : State) (pa : Nat) : Option Target :=
  if hbmOk s pa then some .hbm
  else if carveBase ≤ pa ∧ pa < carveBase + 2 * 0x20000000 then
    let d := (pa - carveBase) / 0x20000000
    if (pa - carveBase) % 0x20000000 < (s.die d).cw * 2 ^ 26 ∧ s.dieDown d = false then some (.carve d) else none
  else none

/-- The target of a physical address and the address there; one that names this module is served locally (R216, R382). -/
def target (s : State) (pa : Nat) : Option (Target × Nat) :=
  if pa < hostBase then (localTarget s pa).map (fun t => (t, pa))
  else if pa < podBase then some (.host, pa)
  else if pa < 2 ^ 52 then
    if fld pa 50 42 = s.mg.mod.toNat then (localTarget s (pa % 2 ^ 42)).map (fun t => (t, pa % 2 ^ 42)) else some (.remote, pa)
  else none

/-! ### The home slice (R217) -/

/-- Number of the home slice; in minimal mode on die 0 (log 18). -/
def homeSlice (s : State) (x : Nat) : Nat :=
  let h := fld x 13 7 ^^^ fld x 20 14 ^^^ fld x 27 21 ^^^ fld x 34 28 ^^^ fld x 41 35 ^^^ fld x 48 42 ^^^ fld x 55 49
  if s.mg.min then h % 64 else h

/-- Set of a line in its slice. -/
def setOf (x : Nat) : Nat := fld x 26 14

/-! ### Poison (R317) -/

/-- The 128-byte line of a physical address is poisoned. -/
def State.poisoned (s : State) (pa : Nat) : Bool := s.poison.contains (pa / 128 * 128)

def State.setPoison (s : State) (pa : Nat) (p : Bool) : State :=
  let l := pa / 128 * 128
  if p then (if s.poison.contains l then s else { s with poison := l :: s.poison })
  else { s with poison := s.poison.filter (· != l) }

/-! ### Translation (R222 to R224) -/

/-- A page that a walk found. -/
structure Leaf where
  size : Nat
  pa   : Nat
  r    : Bool
  w    : Bool
  uc   : Bool
  deriving DecidableEq, Repr

/-- How a walk ends. -/
inductive Walk | pageFault | error | ok (l : Leaf)
  deriving DecidableEq, Repr

/-- Level, lowest index bit and index width of the five levels, root first. -/
def walkLevels : List (Nat × Nat × Nat) := [(4, 47, 9), (3, 39, 8), (2, 30, 9), (1, 21, 9), (0, 16, 5)]

/-- The walk from one table on (R222 to R224); an uncorrectable entry ends it (R317). -/
def walkFrom (s : State) (va : Nat) : List (Nat × Nat × Nat) → Nat → Walk
  | [], _ => .error
  | (lv, lo, nb) :: rest, table =>
    if table % (8 * 2 ^ nb) ≠ 0 ∨ hbmOk s table = false then .error
    else
      let ea := table + 8 * (va / 2 ^ lo % 2 ^ nb)
      let e := memNat s.pmem ea 8
      if s.poisoned ea then .error
      else if e % 2 = 0 then .pageFault
      else if fld e 63 52 ≠ 0 ∨ fld e 7 6 ≠ 0 ∨ fld e 1 1 ≠ 0 then .error
      else
        let ptr := fld e 51 8 * 256
        if fld e 2 2 = 1 then
          if 3 ≤ lv ∨ ptr % 2 ^ lo ≠ 0 then .error
          else .ok { size := lo, pa := ptr, r := fld e 3 3 == 1, w := fld e 4 4 == 1, uc := fld e 5 5 == 1 }
        else if lv = 0 then .error
        else walkFrom s va rest ptr

/-- Entries of a slice's translation cache (R224). -/
def tlbSize : Nat := 4096

/-- A page is kept in the slice's translation cache; a full one drops its oldest entry. -/
def tlbFill (s : State) (h ctx va : Nat) (l : Leaf) : State :=
  let e : TlbEntry := { slice := h, ctx := ctx, page := va / 2 ^ l.size, size := l.size, pa := l.pa, r := l.r, w := l.w, uc := l.uc }
  if (s.tlb.filter (fun e => e.slice == h)).length < tlbSize then { s with tlb := s.tlb ++ [e] }
  else { s with tlb := s.tlb.eraseP (fun e => e.slice == h) ++ [e] }

/-- How a translation ends. -/
inductive Tr | pageFault | error | ok (pa : Nat) (uc : Bool) (tg : Target)
  deriving DecidableEq, Repr

/-- The access at the physical address of its page, with the permissions it needs. -/
def leafAccess (s : State) (l : Leaf) (va : Nat) (r w : Bool) : Tr :=
  if (r && !l.r) || (w && !l.w) then .error
  else match target s (l.pa + va % 2 ^ l.size) with
    | none => .error
    | some (tg, pa) => .ok pa l.uc tg

/-- Translation of an address at slice h; a walk that succeeds leaves its page in the slice's cache. -/
def translate (s : State) (h ctx va : Nat) (r w : Bool) : State × Tr :=
  match s.tlb.find? (fun e => e.slice == h && e.ctx == ctx && e.page == va / 2 ^ e.size) with
  | some e => (s, leafAccess s { size := e.size, pa := e.pa, r := e.r, w := e.w, uc := e.uc } va r w)
  | none =>
    match walkFrom s va walkLevels ((s.ctx ctx).root * 256) with
    | .pageFault => (s, .pageFault)
    | .error => (s, .error)
    | .ok l =>
      match leafAccess s l va r w with
      | .ok pa uc tg => (tlbFill s h ctx va l, .ok pa uc tg)
      | e => (s, e)

/-! ### Cache lines (R218 to R221) -/

/-- The line of a context that holds an address. -/
def State.line? (s : State) (ctx line : Nat) : Option Line := s.llc.find? (fun l => l.ctx == ctx && l.line == line)

def State.setLine (s : State) (l : Line) : State :=
  { s with llc := s.llc.map (fun m => if m.ctx == l.ctx && m.line == l.line then l else m) }

/-- A dirty line goes to its recorded physical address (R218). -/
def writeBack (s : State) (l : Line) : State :=
  if l.dirty then { s with pmem := memPut s.pmem l.pa l.data }.setPoison l.pa l.poison else s

/-- Lines are written back if dirty and invalidated. -/
def flushLines (s : State) (p : Line → Bool) : State :=
  let out := s.llc.filter p
  out.foldl writeBack { s with llc := s.llc.filter (fun l => !p l) }

/-- Ways of a slice that a virtual function may fill (R220, R221). -/
def allowedWays (s : State) (h vf : Nat) : List Nat :=
  (List.range (16 - (s.die (h / 64)).cw)).filter (fun w => (s.vf vf).share.getLsbD w)

/-- The line that stands in a way. -/
def lineIn (s : State) (h set way : Nat) : Option Line :=
  s.llc.find? (fun l => l.way == way && setOf l.line == set && homeSlice s l.line == h)

/-- A way for a new line: an empty one, or a free choice among the allowed ways (log 9); none when no way is allowed. -/
def chooseWay (s : State) (h set vf : Nat) : Option Nat :=
  let ws := allowedWays s h vf
  match ws.find? (fun w => (lineIn s h set w).isNone) with
  | some w => some w
  | none => ws[Config.victimWay (s.freeAt (h * 2 ^ 13 + set)) % ws.length]?

/-- A line is filled from its physical line, its way's old line leaving. -/
def fillLine (s : State) (h ctx line pa way : Nat) : Line × State :=
  let s := match lineIn s h (setOf line) way with
    | none => s
    | some v => flushLines s (fun l => l.ctx == v.ctx && l.line == v.line)
  let l : Line := { ctx := ctx, line := line, pa := pa, way := way, dirty := false, data := memBytes s.pmem pa 128, poison := s.poisoned pa }
  (l, { s with llc := s.llc ++ [l] })

/-! ### Pins (R243, R244) -/

/-- Who makes an access, for the region of a pin: an agent of a tile, or one outside every tile. -/
inductive Agent | tile (t : Nat) | outside
  deriving DecidableEq, Repr

/-- The agent lies in the region of a pin. -/
def Pin.admits (s : State) (p : Pin) : Agent → Bool
  | .outside => false
  | .tile t => t == p.owner || (p.scope == 1 && dieOf t == dieOf p.owner && (s.tile t).inst == p.inst && (s.tile t).tidx == p.tidx)

def State.pin? (s : State) (ctx line : Nat) : Option Pin := s.pins.find? (fun p => p.ctx == ctx && p.line == line)

/-- The line is pinned against the agent (R244). -/
def pinnedAgainst (s : State) (a : Agent) (ctx line : Nat) : Bool :=
  match s.pin? ctx line with
  | none => false
  | some p => !p.admits s a

/-- Pinned lines a slice can hold (R243). -/
def pinCapacity : Nat := 2048

/-- A narrow write pins its line, unless it is pinned or the slice's pins are all in use (R243). -/
def pinLine (s : State) (t ctx line scope : Nat) : State :=
  let h := homeSlice s line
  if (s.pin? ctx line).isSome ∨ pinCapacity ≤ (s.pins.filter (fun p => homeSlice s p.line == h)).length then s
  else { s with pins := s.pins ++ [{ ctx := ctx, line := line, owner := t, scope := scope, inst := (s.tile t).inst, tidx := (s.tile t).tidx }] }

/-! ### The lehr's blocks (R366, R367) -/

def Lehr.ctx (l : Lehr) : Nat := bits l.desc 311 302
def Lehr.base (l : Lehr) : Nat := bits l.desc 399 344
def Lehr.len (l : Lehr) : Nat := bits l.desc 343 320

/-- The number of the block that holds an address, when the armed range holds it. -/
def Lehr.block? (l : Lehr) (ctx va : Nat) : Option Nat :=
  if (l.st = .armed ∨ l.st = .opened) ∧ ctx = l.ctx ∧ l.base ≤ va ∧ va < l.base + l.len * 0x10000 then some ((va - l.base) / 0x10000)
  else none

/-- A write marks its block dirty. -/
def markDirty (s : State) (ctx va : Nat) : State :=
  match s.lehr.block? ctx va with
  | none => s
  | some b => if s.lehr.dirty.contains b then s else { s with lehr := { s.lehr with dirty := b :: s.lehr.dirty } }

/-- What one line of a read stream meets (R230): a present line, or the bytes in memory. -/
inductive Read | data (bs : List Byte) | retry | bad (va : Nat)
  deriving DecidableEq, Repr

def streamRead (s : State) (ctx va : Nat) : State × Read :=
  if pinnedAgainst s .outside ctx va then (s, .retry)
  else match s.line? ctx va with
    | some l => (s, if l.poison then .bad va else .data l.data)
    | none =>
      match translate s (homeSlice s va) ctx va true false with
      | (s, .ok pa _ _) => (s, if s.poisoned pa then .bad va else .data (memBytes s.pmem pa 128))
      | (s, _) => (s, .bad va)

/-- An error response stops the lehr with an error record (R367). -/
def lehrError (s : State) (va : Nat) : State :=
  ({ s with lehr := { s.lehr with st := .stopped, todo := [] } }).record 0 { va := va, kind := 0x57, ctx := s.lehr.ctx }

/-- n lines of a block from number k on are copied to their targets; `none` when a pinned line holds the copy back. -/
def lehrLines (s : State) (b k : Nat) : Nat → Option State
  | 0 => some s
  | n + 1 =>
    let src := s.lehr.base + b * 0x10000 + k * 128
    let dst := bits s.lehr.desc 511 456 + b * 0x10000 + k * 128
    match streamRead s s.lehr.ctx src with
    | (_, .retry) => none
    | (s, .bad va) => some (lehrError s va)
    | (s, .data bs) =>
      match translate s (homeSlice s dst) s.lehr.ctx dst false true with
      | (s, .ok pa _ .host) => lehrLines { s with pmem := memPut s.pmem pa bs } b (k + 1) n
      | (s, .ok pa _ .remote) => lehrLines { s with pmem := memPut s.pmem pa bs } b (k + 1) n
      | (s, _) => some (lehrError s dst)

/-- One block of C is copied (R367). -/
def lehrBlock (s : State) (b : Nat) : Option State :=
  match lehrLines s b 0 512 with
  | none => none
  | some s => some { s with lehr := { s.lehr with todo := s.lehr.todo.filter (· != b) } }

/-- A write to a block of C that is not copied is held until the block's present bytes have been copied. -/
def lehrHold (s : State) (ctx va : Nat) : Option State :=
  match s.lehr.block? ctx va with
  | none => some s
  | some b => if s.lehr.st = .opened ∧ s.lehr.todo.contains b then lehrBlock s b else some s

/-- One line of a write stream (R230): the cache's line is written back and invalidated, then memory is written. `hbm` for a
stream that reaches neither host memory nor another module (R341). -/
def streamWrite (s : State) (a : Agent) (ctx va : Nat) (hbm : Bool) (bs : List Byte) : State × Resp :=
  if pinnedAgainst s a ctx va then (s, .retry)
  else if s.dieDown (homeSlice s va / 64) then (s, .error 0x20)
  else match lehrHold s ctx va with
    | none => (s, .retry)
    | some s =>
      match translate s (homeSlice s va) ctx va false true with
      | (s, .pageFault) => (s, .pageFault va)
      | (s, .error) => (s, .error 0x20)
      | (s, .ok pa _ tg) =>
        if hbm && (tg == .host || tg == .remote) then (s, .error 0x21)
        else
          let s := flushLines s (fun l => l.ctx == ctx && l.line == va)
          (markDirty ({ s with pmem := memPut s.pmem pa bs }.setPoison pa false) ctx va, .data 0)

/-! ### One access within one line -/

/-- An access of n bytes within one line as its home sees it: permissions, whether poison is reported to it (R312), the
scope of a narrow write, and the targets it may reach (R228). -/
structure HReq where
  ctx    : Nat
  va     : Nat
  n      : Nat
  r      : Bool
  w      : Bool
  reads  : Bool
  agent  : Agent
  narrow : Option Nat := none
  host   : Bool := true
  remote : Bool := true
  deriving DecidableEq, Repr

/-- A home's answer: the bytes as they were, or a failure. -/
inductive HAns | data (bs : List Byte) | bad (r : Resp)
  deriving DecidableEq, Repr

/-- Bytes replaced within a line. -/
def splice (line : List Byte) (off : Nat) (bs : List Byte) : List Byte := line.take off ++ bs ++ line.drop (off + bs.length)

/-- What follows a performed write: its pin and its block's dirty bit. -/
def HReq.wrote (q : HReq) (s : State) (pinnable : Bool) : State :=
  let s := markDirty s q.ctx q.va
  match q.narrow, q.agent with
  | some sc, .tile t => if pinnable then pinLine s t q.ctx (q.va / 128 * 128) sc else s
  | _, _ => s

/-- Served from a line of the cache. -/
def serveLine (s : State) (q : HReq) (l : Line) (f : List Byte → Option (List Byte)) : State × HAns :=
  if q.reads && l.poison then (s, .bad .poisoned)
  else
    let old := (l.data.drop (q.va % 128)).take q.n
    match f old with
    | none => (s, .data old)
    | some new =>
      (q.wrote (s.setLine { l with dirty := true, data := splice l.data (q.va % 128) new, poison := l.poison && q.n != 128 }) true, .data old)

/-- Fabric bytes count for a virtual function that has selected their event (R333, log 47). -/
def countFabric (s : State) (v code va : Nat) : State :=
  if [0, 1, 2, 3].any (fun k => bits (s.vf v).cfg (16 * k + 5) (16 * k) == code) then s.count v code (Config.fabricBytes s.free va) else s

/-- The access leaves the module over the Cord or the UALink. -/
def countTarget (s : State) (q : HReq) : Target → State
  | .host => countFabric s (s.ctx q.ctx).vf 18 q.va
  | .remote => countFabric s (s.ctx q.ctx).vf 17 q.va
  | _ => s

/-- The access crosses to a home slice of the other die. -/
def countDie (s : State) (q : HReq) (h : Nat) : State :=
  match q.agent with
  | .tile t => if dieOf t = h / 64 then s else countFabric s (s.ctx q.ctx).vf 16 q.va
  | .outside => s

/-- Served at the physical address, with no line. -/
def serveUncached (s : State) (q : HReq) (pa : Nat) (tg : Target) (f : List Byte → Option (List Byte)) : State × HAns :=
  let s := countTarget s q tg
  if q.reads && s.poisoned pa then (s, .bad .poisoned)
  else
    let old := memBytes s.pmem pa q.n
    match f old with
    | none => (s, .data old)
    | some new =>
      let s := { s with pmem := memPut s.pmem pa new }
      let s := if q.n = 128 then s.setPoison pa false else s
      (q.wrote s (tg != .host && tg != .remote), .data old)

/-- A unit's operations that its place supports (R228, R254). -/
def HReq.allowed (q : HReq) : Target → Bool
  | .host => q.host
  | .remote => q.remote
  | _ => true

/-- An access at its home slice (R217, R218): f gives the bytes it writes, or none. -/
def homeAccess (s : State) (q : HReq) (f : List Byte → Option (List Byte)) : State × HAns :=
  let line := q.va / 128 * 128
  let h := homeSlice s q.va
  let v := (s.ctx q.ctx).vf
  if s.dieDown (h / 64) then (s, .bad (.error 0x20))
  else if pinnedAgainst s q.agent q.ctx line then (s, .bad .retry)
  else match (if q.w then lehrHold s q.ctx q.va else some s) with
    | none => (s, .bad .retry)
    | some s =>
      let s := countDie s q h
      match s.line? q.ctx line with
      | some l => serveLine (s.count v 6 1) q l f
      | none =>
        match translate (s.count v 7 1) h q.ctx q.va q.r q.w with
        | (s, .pageFault) => (s, .bad (.pageFault q.va))
        | (s, .error) => (s, .bad (.error 0x20))
        | (s, .ok pa uc tg) =>
          if !q.allowed tg then (s, .bad (.error 0x21))
          else if tg = .hbm ∧ uc = false then
            match chooseWay s h (setOf line) v with
            | none => serveUncached s q pa tg f
            | some way =>
              let (l, s) := fillLine s h q.ctx line (pa / 128 * 128) way
              serveLine s q l f
          else serveUncached s q pa tg f

/-- The pieces, each within one line, of an access of n bytes. -/
def pieces : Nat → Nat → Nat → List (Nat × Nat)
  | 0, _, _ => []
  | k + 1, va, n =>
    if n = 0 then []
    else
      let m := min n (128 - va % 128)
      (va, m) :: pieces k (va + m) (n - m)

/-- A read of n bytes, piece by piece (R238: no order among the lanes). -/
def homeRead (s : State) (q : HReq) : List (Nat × Nat) → List Byte → State × HAns
  | [], acc => (s, .data acc)
  | (va, n) :: rest, acc =>
    match homeAccess s { q with va := va, n := n } (fun _ => none) with
    | (s, .bad r) => (s, .bad r)
    | (s, .data bs) => homeRead s q rest (acc ++ bs)

/-- A write of bytes, piece by piece. -/
def homeWrite (s : State) (q : HReq) : List (Nat × Nat) → List Byte → State × HAns
  | [], _ => (s, .data [])
  | (va, n) :: rest, bs =>
    match homeAccess s { q with va := va, n := n } (fun _ => some (bs.take n)) with
    | (s, .bad r) => (s, .bad r)
    | (s, .data _) => homeWrite s q rest (bs.drop n)

/-! ### The gather cache (R227) -/

/-- The new value of an atomic of s bits (R252). -/
def atomicNew (op : AmoOp) (s : Nat) (mode : BitVec 3) (seed : Word) (v b : Nat) : Nat :=
  match op with
  | .fadd => fAdd fmtFP32 { mode := mode.toNat, seed := seed, i := 0 } v b
  | op => amoNew op s v b

/-- An atomic's write on the bytes of its location. -/
def atomicBytes (op : AmoOp) (n : Nat) (mode : BitVec 3) (seed : Word) (b : Nat) (old : List Byte) : Option (List Byte) :=
  some (leBytes n (atomicNew op (8 * n) mode seed (leNat old) (b % 2 ^ (8 * n))))

/-- The request that an atomic makes; `ret` for one that answers a value. -/
def atomicReq (ctx va n : Nat) (op : AmoOp) (ret : Bool) (a : Agent) (scope : Nat) : HReq :=
  { ctx := ctx, va := va, n := n, r := true, w := true, reads := ret, agent := a, narrow := if scope ≤ 1 then some scope else none,
    host := op == .add || (op == .swap && ret), remote := op != .fadd }

/-- The transaction of one gathered operand that is sent home. -/
def GatherLine.txn (g : GatherLine) (s : State) (t : Nat) (o : Nat × Nat) : Txn :=
  { id := 0, tile := t, inst := (s.tile t).inst, tidx := (s.tile t).tidx, front := .a, ipc := g.ipc, user := g.user, ctx := g.ctx,
    kind := .amo (g.line + o.1) g.size g.op o.2 false, dest := .none, places := 0, cls := g.cls, scope := g.scope, acq := false,
    rel := false, mode := g.mode, seed := g.seed, resp := .pending, tval := BitVec.ofNat 64 (g.line + o.1) }

/-- A gathered line sets out for its home: one access per operand. -/
def sendHome (s : State) (t : Nat) (g : GatherLine) : State :=
  let s := s.modTile t (fun T => { T with gather := T.gather.filter (fun h => !(h.ctx == g.ctx && h.line == g.line)) })
  g.ops.foldl (fun s o => s.launch (g.txn s t o) .globalRequest) s

/-- Gathered lines of a tile that a condition names set out. -/
def sendHomeIf (s : State) (t : Nat) (p : GatherLine → Bool) : State :=
  ((s.tile t).gather.filter p).foldl (fun s g => sendHome s t g) s

/-- A recalled operand is combined at its home at once; a failure goes back to its strand. -/
def recallOp (t : Nat) (g : GatherLine) (s : State) (o : Nat × Nat) : State :=
  match homeAccess s (atomicReq g.ctx (g.line + o.1) g.size g.op false (.tile t) g.scope)
      (atomicBytes g.op g.size g.mode g.seed o.2) with
  | (s, .data _) => s
  | (s, .bad r) => s.launch { g.txn s t o with resp := r } .globalResponse

/-- The home recalls and combines every gather copy of a line before it serves another access (R227). -/
def recallLine (s : State) (ctx line : Nat) : State :=
  s.tiles.foldl (fun s p =>
    (p.2.gather.filter (fun g => g.ctx == ctx && g.line == line)).foldl (fun s g =>
      g.ops.foldl (recallOp p.1 g)
        (s.modTile p.1 (fun T => { T with gather := T.gather.filter (fun h => !(h.ctx == ctx && h.line == line)) }))) s) s

/-- Recall for every line of an access. -/
def recallAll (s : State) (ctx : Nat) (ps : List (Nat × Nat)) : State := ps.foldl (fun s p => recallLine s ctx (p.1 / 128 * 128)) s

end Sys2Proof.Machine
end

