-- ==== Sys2Proof/Machine/Global.lean ====
section
/-! DEFINITION. Global accesses (15, 16): LD, ST, VLD, VST, AMO, CAS, RED, FENCE, PROMOTE, HASH, and the steps that carry
an access: its arrival at the home, the response, the reissue after a retry, a promotion request, a gathered line's way
home, the arrival at a peer's scratchpad (R210, R215), and the pushes of proxy queues (R359, R360). -/

namespace Sys2Proof.Machine

/-! ### Members (R197, R215) -/

/-- A strand named by a member word or a tile-window address. -/
structure Member where
  g    : Bool
  tidx : Nat
  rank : Nat
  deriving DecidableEq, Repr

/-- The member of a member word (R197). -/
def memberOf (w : Nat) : Member := { g := fld w 23 23 == 1, tidx := fld w 22 12, rank := fld w 11 4 }

/-- The member of a tile-window address (R215). -/
def windowMember (x : Nat) : Member := { g := fld x 47 47 == 1, tidx := fld x 46 36, rank := fld x 35 28 }

/-- An address in the tile window. -/
def isWindow (x : Nat) : Bool := fld x 55 48 == 0xFF

/-- The record of the task that a member names; the issuing strand's own, or a member of its gang. -/
def memberRec (s : State) (t : Nat) (m : Member) : Option Rec :=
  let T := s.tile t
  match s.rec? (dieOf t) T.inst T.tidx with
  | none => none
  | some r =>
    if m.g then (s.gang (dieOf t) r).find? (fun q => q.tidx == m.tidx) else if m.tidx = 0 then some r else none

/-- The rules of R197: fields that must be zero, a rank below the task's tiles, a member of the gang. -/
def memberOk (s : State) (t : Nat) (m : Member) : Bool :=
  match memberRec s t m with
  | none => !m.g && m.tidx == 0 && decide (m.rank < (s.tile t).tiles)
  | some r => decide (m.rank < r.tiles)

/-- The peer number of a member. -/
def peerNo (s : State) (t : Nat) (m : Member) : Nat :=
  match memberRec s t m with
  | none => if m.rank = (s.tile t).rank.toNat then ownPeer else m.rank
  | some r => if r.place.getD m.rank 0x1FFFF = t then ownPeer else r.tidx * 256 + m.rank

/-- Where a peer is (R381): not started, on a tile, or retired. -/
inductive PeerAt | notYet | at (t : Nat) | gone
  deriving DecidableEq, Repr

def peerAt (s : State) (t inst peer : Nat) : PeerAt :=
  if peer = ownPeer then .at t
  else match s.rec? (dieOf t) inst (peer / 256) with
    | none => .gone
    | some r =>
      match r.st with
      | .done => .gone
      | .free => .gone
      | .cancelled => .gone
      | _ =>
        match r.place[peer % 256]? with
        | none => .notYet
        | some u =>
          match (s.tile u).phase with
          | .running => .at u
          | .waiting => .at u
          | .retired => .gone
          | _ => .notYet

/-- Scope of an access to a peer: 1 within the task, 3 to a gang member (R210). -/
def memberScope (m : Member) : Nat := if m.g then 3 else 1

/-! ### Checks and places (R247, R248) -/

/-- Places of a front's outstanding transactions (R7). -/
def placesTotal : Nat := 64

def placesUsed (s : State) (t : Nat) : Nat := ((s.strandTxns t).map Txn.places).sum

/-- n places are free. -/
def placesFree (s : State) (t n : Nat) : Bool := decide (placesUsed s t + n ≤ placesTotal)

/-- The cause that an address raises (R247, R215): range, alignment, then the checks of the tile window. -/
def globalCause (s : State) (x n align : Nat) : Option Nat :=
  if 2 ^ 56 ≤ x then some 0x09
  else if x % align ≠ 0 then some 0x0A
  else if isWindow x then
    if !memberOk s s.focus.1 (windowMember x) then some 0x0C
    else if 2 ^ 20 < x % 2 ^ 20 + n then some 0x07 else none
  else none

/-- Lines of 128 bytes that n bytes from x touch. -/
def linesOf (x n : Nat) : Nat := (x + n - 1) / 128 - x / 128 + 1

/-- Code of a scope (R56), and the scope at which it is performed where the word names no rectangle (R65). -/
def scopeCode : Scope → Nat
  | .tile => 0
  | .cluster => 1
  | .rect => 2
  | .die => 3
  | .module => 4
  | .pod => 5

def scopePerformed (p : Scope) : Nat := if p = .rect then 3 else scopeCode p

/-- A transaction of the word that issues. -/
def newTxn (s : State) (I : Issue) (k : TxnKind) (places cls scope : Nat) (tval : Word) : Txn :=
  let T := s.cur
  { id := 0, tile := s.focus.1, inst := T.inst, tidx := T.tidx, front := s.focus.2, ipc := I.ipc, user := !T.slv, ctx := T.ctx.toNat,
    kind := k, dest := .none, places := places, cls := cls, scope := scope, acq := false, rel := false, mode := 0, seed := 0,
    resp := .pending, tval := tval }

/-- A transaction sets out with its destination reserved at issue (R28). -/
def launchTo (s : State) (x : Txn) (res : Tile → Nat → Dest × Tile) (e : Nat → Instr) : State :=
  let (id, s) := s.fresh
  let (d, T) := res (s.tile x.tile) id
  ({ s.setTile x.tile T with txns := s.txns ++ [{ x with id := id, dest := d }] }).post (e id)

/-- A global access as a transaction: to its home, or over the mesh to a peer's scratchpad (R215). A nonzero bit [27:20]
of a window address is kept in the address, which the peer's unit refuses. -/
def accessTxn (s : State) (x : Nat) (glob : TxnKind) (win : Nat → Nat → TxnKind) (txn : TxnKind → Nat → Txn) (sc : Nat)
    (res : Tile → Nat → Dest × Tile) : State :=
  if isWindow x then
    let m := windowMember x
    launchTo s (txn (win (peerNo s s.focus.1 m) (x % 2 ^ 28)) (memberScope m)) res .peerAccessArrival
  else launchTo s (txn glob sc) res .globalRequest

/-- warn.ofb of a scope that falls back (R65). -/
def ofb (s : State) (p : Scope) : State := s.modTile s.focus.1 (fun T => T.warnIf warnOfb (p == .rect))

/-- Reserving a scalar destination of the front in focus; none for a word without one. -/
def resS (s : State) (d : Reg) : Tile → Nat → Dest × Tile := fun T id => T.reserveS s.focus.2 d id
def resNone : Tile → Nat → Dest × Tile := fun T _ => (.none, T)

/-! ### LD, ST, VLD, VST (R249, R250) -/

/-- LD (R249). -/
def execLd (d b : Reg) (c : BitVec 3) (p : Scope) (z : Width) (x : Bool) (q : Bool) (o : BitVec 6) (s : State) : Out :=
  issue s { instr := .ld d b c p z x q o, onX := false, rs := [b], ws := [d], himm := true, hpri := true } (fun s I =>
    let n := z.nbytes
    let va := addrOf (I.s 0) I.himm 6 o.toNat n
    match globalCause s va.toNat n n with
    | some k => .trap k va
    | none =>
      if fenced s s.focus.1 c.toNat || !placesFree s s.focus.1 1 then .wait
      else .done (accessTxn (ofb s p) va.toNat (.ld va.toNat n x) (fun pe a => .ldx pe a n x)
        (fun k sc => { newTxn s I k 1 c.toNat sc va with acq := q }) (scopePerformed p) (resS s d)))

/-- ST (R249): the address is read before the data. -/
def execSt (d b : Reg) (c : BitVec 3) (p : Scope) (z : Width) (q : Bool) (o : BitVec 6) (s : State) : Out :=
  issue s { instr := .st d b c p z q o, onX := false, rs := [b, d], himm := true, hpri := true } (fun s I =>
    let n := z.nbytes
    let va := addrOf (I.s 0) I.himm 6 o.toNat n
    let v := (I.s 1).toNat % 2 ^ (8 * n)
    match globalCause s va.toNat n n with
    | some k => .trap k va
    | none =>
      if fenced s s.focus.1 c.toNat || !placesFree s s.focus.1 1 then .wait
      else .done (accessTxn (ofb s p) va.toNat (.st va.toNat n v) (fun pe a => .stx pe a n v)
        (fun k sc => { newTxn s I k 1 c.toNat sc va with rel := q }) (scopePerformed p) resNone))

/-- VLD (R250). -/
def execVld (d b : Reg) (c : BitVec 3) (p : Scope) (q : Bool) (o : BitVec 6) (s : State) : Out :=
  issue s { instr := .vld d b c p q o, onX := false, rs := [b], wv := [d], himm := true, hpri := true } (fun s I =>
    let va := addrOf (I.s 0) I.himm 6 o.toNat 256
    match globalCause s va.toNat 256 4 with
    | some k => .trap k va
    | none =>
      let n := linesOf va.toNat 256
      if fenced s s.focus.1 c.toNat || !placesFree s s.focus.1 n then .wait
      else .done (accessTxn (ofb s p) va.toNat (.vld va.toNat) (fun pe a => .twVld pe a)
        (fun k sc => { newTxn s I k n c.toNat sc va with acq := q }) (scopePerformed p) (fun T id => T.reserveV d id)))

/-- VST (R250). -/
def execVst (d b : Reg) (c : BitVec 3) (p : Scope) (q : Bool) (o : BitVec 6) (s : State) : Out :=
  issue s { instr := .vst d b c p q o, onX := false, rs := [b], rv := [d], himm := true, hpri := true } (fun s I =>
    let va := addrOf (I.s 0) I.himm 6 o.toNat 256
    match globalCause s va.toNat 256 4 with
    | some k => .trap k va
    | none =>
      let n := linesOf va.toNat 256
      if fenced s s.focus.1 c.toNat || !placesFree s s.focus.1 n then .wait
      else .done (accessTxn (ofb s p) va.toNat (.vst va.toNat (I.v 0)) (fun pe a => .twVst pe a (I.v 0))
        (fun k sc => { newTxn s I k n c.toNat sc va with rel := q }) (scopePerformed p) resNone))

/-! ### AMO, CAS, RED (R251 to R254) -/

/-- Bytes that an atomic works on: FADD of size 64 falls back to 32 bits (R65). -/
def amoBytes (o : AmoOp) (z : Bool) : Nat := if z && o != .fadd then 8 else 4

/-- Bytes of the encoded size, to which the address is aligned (R247). -/
def amoAlign (z : Bool) : Nat := if z then 8 else 4

/-- The draw of FADD in SR (R252). -/
def amoSample (s : State) (o : AmoOp) : Rnd × State :=
  let (r, T) := s.cur.sample s.focus.2 (o == .fadd)
  (r, s.setTile s.focus.1 T)

/-- The sticky bits of an atomic. -/
def amoWarn (s : State) (o : AmoOp) (z : Bool) (p : Scope) : State :=
  (ofb s p).modTile s.focus.1 (fun T => T.warnIf warnAfb (z && o == .fadd))

/-- AMO (R252). -/
def execAmo (d a b : Reg) (o : AmoOp) (z : Bool) (c : BitVec 3) (p : Scope) (s : State) : Out :=
  issue s { instr := .amo d a b o z c p, onX := false, rs := [a, b], ws := [d], hmod := 3, hpri := true } (fun s I =>
    let va := I.s 0
    let n := amoBytes o z
    let v := (I.s 1).toNat % 2 ^ (8 * n)
    match globalCause s va.toNat (amoAlign z) (amoAlign z) with
    | some k => .trap k va
    | none =>
      if fenced s s.focus.1 c.toNat || !placesFree s s.focus.1 1 then .wait
      else
        let (r, s) := amoSample (amoWarn s o z p) o
        .done (accessTxn s va.toNat (.amo va.toNat n o v true) (fun pe x => .twAmo pe x n o v true)
          (fun k sc => { newTxn s I k 1 c.toNat sc va with acq := I.mod 0, rel := I.mod 1, mode := BitVec.ofNat 3 r.mode, seed := r.seed })
          (scopePerformed p) (resS s d)))

/-- CAS (R253): operands in the order a, b, d. -/
def execCas (d a b : Reg) (z : Bool) (c : BitVec 3) (p : Scope) (s : State) : Out :=
  issue s { instr := .cas d a b z c p, onX := false, rs := [a, b, d], ws := [d], hmod := 3, hpri := true } (fun s I =>
    let va := I.s 0
    let n := amoAlign z
    let new := (I.s 1).toNat % 2 ^ (8 * n)
    let cmp := (I.s 2).toNat % 2 ^ (8 * n)
    match globalCause s va.toNat n n with
    | some k => .trap k va
    | none =>
      if fenced s s.focus.1 c.toNat || !placesFree s s.focus.1 1 then .wait
      else .done (accessTxn (ofb s p) va.toNat (.cas va.toNat n cmp new) (fun pe x => .twCas pe x n cmp new)
        (fun k sc => { newTxn s I k 1 c.toNat sc va with acq := I.mod 0, rel := I.mod 1 }) (scopePerformed p) (resS s d)))

/-- The location is HBM as far as its home knows without serving it. -/
def isHbmLoc (s : State) (ctx va : Nat) : Bool :=
  (s.line? ctx (va / 128 * 128)).isSome ||
    (match (translate s (homeSlice s va) ctx va false false).2 with
     | .ok _ _ .hbm => true
     | _ => false)

/-- Lines of a gather cache (R227). -/
def gatherDepth : Nat := 512

/-- A gathered operand combined with another for the same location. -/
def gatherAdd (g : GatherLine) (off b : Nat) : GatherLine :=
  match g.ops.find? (fun o => o.1 == off) with
  | none => { g with ops := g.ops ++ [(off, b)] }
  | some o => { g with ops := g.ops.map (fun p => if p.1 == off then (off, atomicNew g.op (8 * g.size) g.mode g.seed o.2 b) else p) }

/-- A RED is combined into the gather cache (R227). -/
def gatherRed (s : State) (g : GatherLine) (off b : Nat) : State :=
  let t := s.focus.1
  let same := fun (h : GatherLine) => h.ctx == g.ctx && h.line == g.line
  let tag := fun (h : GatherLine) => same h && h.op == g.op && h.size == g.size && h.mode == g.mode && h.cls == g.cls
  let s := sendHomeIf s t (fun h => same h && !tag h)
  s.modTile t (fun T =>
    if T.gather.any tag then { T with gather := T.gather.map (fun h => if tag h then gatherAdd h off b else h) }
    else { T with gather := T.gather ++ [gatherAdd g off b] })

/-- RED (R252, R227): gathered when its location is HBM, its scope wider than the cluster, nothing orders it behind an
access that is not performed, and it is no release (log 19); else it goes home directly. -/
def execRed (a b : Reg) (o : AmoOp) (z : Bool) (c : BitVec 3) (p : Scope) (s : State) : Out :=
  issue s { instr := .red a b o z c p, onX := false, rs := [a, b], hmod := 2, hpri := true } (fun s I =>
    let va := I.s 0
    let n := amoBytes o z
    let v := (I.s 1).toNat % 2 ^ (8 * n)
    match globalCause s va.toNat (amoAlign z) (amoAlign z) with
    | some k => .trap k va
    | none =>
      if fenced s s.focus.1 c.toNat || !placesFree s s.focus.1 1 then .wait
      else
        let (r, s) := amoSample (amoWarn s o z p) o
        let T := s.cur
        let x := { newTxn s I (.amo va.toNat n o v false) 1 c.toNat (scopePerformed p) va with
          rel := I.mod 1, mode := BitVec.ofNat 3 r.mode, seed := r.seed, id := s.nextId }
        let g : GatherLine :=
          { ctx := x.ctx, line := va.toNat / 128 * 128, op := o, size := n, mode := x.mode, ops := [],
            seed := r.seed, scope := x.scope, cls := x.cls, ipc := I.ipc, user := x.user }
        if !isWindow va.toNat && !I.mod 1 && 2 ≤ (scopePerformed p) && isHbmLoc s T.ctx.toNat va.toNat && T.gather.length < gatherDepth
            && !x.mustWait s then
          .done (gatherRed s g (va.toNat % 128) v)
        else .done (accessTxn s va.toNat x.kind (fun pe y => .twAmo pe y n o v false) (fun k sc => { x with kind := k, scope := sc })
          (scopePerformed p) resNone))

/-! ### FENCE, PROMOTE, HASH (R255 to R257) -/

/-- The rectangle register of scope 2 breaks R234. -/
def rectBad (t : Nat) (w : Word) : Bool :=
  let lo := bits w 15 0
  let hi := bits w 31 16
  bits w 63 32 != 0 || lo / 512 != 0 || hi / 512 != 0 || dieOf lo != dieOf t || dieOf hi != dieOf t ||
    decide (9 < yOf lo) || decide (9 < yOf hi) || decide (xOf hi < xOf lo) || decide (yOf hi < yOf lo) ||
    decide (xOf t < xOf lo) || decide (xOf hi < xOf t) || decide (yOf t < yOf lo) || decide (yOf hi < yOf t)

/-- Fences whose masked accesses are all performed hold nothing back. -/
def pruneFences (s : State) : State :=
  { s with fences := s.fences.filter (fun f => (s.strandTxns f.tile).any (fun x =>
      decide (x.id < f.before) && x.unperformed && x.access.isSome && f.mask.getLsbD x.cls)) }

/-- FENCE (R255): gathered lines of the masked classes go home; at scope 3 or wider it promotes once the accesses before
it are performed (R245). -/
def execFence (a : Reg) (m : BitVec 8) (p : Scope) (s : State) : Out :=
  issue s { instr := .fence a m p, onX := false, rs := if p = .rect then [a] else [] } (fun s I =>
    if p = .rect ∧ rectBad s.focus.1 (I.s 0) then .trap 0x0D (I.s 0)
    else
      let s := sendHomeIf s s.focus.1 (fun g => m.getLsbD g.cls || (decide (3 ≤ scopeCode p) && m != 0))
      let s := pruneFences { s with fences := s.fences ++ [{ tile := s.focus.1, mask := m, before := s.nextId }] }
      .done (if 3 ≤ scopeCode p then s.launch (newTxn s I .promoteSelf 0 0 (scopeCode p) 0) .globalRequest else s))

/-- PROMOTE (R256). -/
def execPromote (a : Reg) (p : Scope) (s : State) : Out :=
  issue s { instr := .promote a p, onX := false, rs := [a], hpri := true } (fun s I =>
    let va := I.s 0
    match globalCause s va.toNat 1 1 with
    | some k => .trap k va
    | none =>
      if !placesFree s s.focus.1 1 then .wait
      else if isWindow va.toNat ∧ fld va.toNat 27 20 = 0 then .done s
      else .done (s.launch (newTxn s I (.promote va.toNat none) 1 0 (scopeCode p) va) .globalRequest))

/-- HASH (R257): the low half to d, the high half to d + 1. -/
def execHash (d a b c : Reg) (s : State) : Out :=
  issueTile s { instr := .hash d a b c, onX := false, rs := [a, b, c], ws := [d, d + 1] } (fun T f I =>
    let t := mix (I.s 0 ^^^ I.s 2)
    let u := mix (I.s 1 + t + goldenRatio)
    (T.putS f d (t ^^^ u)).putS f (d + 1) u)

/-! ### At the home (R217, R243, R246) -/

/-- A home's answer as a response. -/
def respOf : State × HAns → State × Resp
  | (s, .data bs) => (s, .data (BitVec.ofNat 2048 (leNat bs)))
  | (s, .bad r) => (s, r)

/-- Some line of an access is pinned against its agent. -/
def anyPinned (s : State) (a : Agent) (ctx : Nat) (ps : List (Nat × Nat)) : Bool :=
  ps.any (fun p => pinnedAgainst s a ctx (p.1 / 128 * 128))

/-- A strand's scalar or vector access performed at its home. -/
def performGlobal (s : State) (x : Txn) : State × Resp :=
  let q : HReq := { ctx := x.ctx, va := 0, n := 0, r := true, w := false, reads := true, agent := .tile x.tile }
  let nw : Option Nat := if x.scope ≤ 1 then some x.scope else none
  let wq : HReq := { q with r := false, w := true, reads := false, narrow := nw }
  match x.kind with
  | .ld va n _ => respOf (homeRead (recallLine s x.ctx (va / 128 * 128)) q [(va, n)] [])
  | .st va n v => respOf (homeWrite (recallLine s x.ctx (va / 128 * 128)) wq [(va, n)] (leBytes n v))
  | .vld va =>
    let ps := pieces 4 va 256
    if anyPinned s q.agent x.ctx ps then (s, .retry) else respOf (homeRead (recallAll s x.ctx ps) q ps [])
  | .vst va v =>
    let ps := pieces 4 va 256
    if anyPinned s q.agent x.ctx ps then (s, .retry) else respOf (homeWrite (recallAll s x.ctx ps) wq ps (leBytes 256 v.toNat))
  | .amo va n o b ret =>
    respOf (homeAccess (recallLine s x.ctx (va / 128 * 128)) (atomicReq x.ctx va n o ret q.agent x.scope) (atomicBytes o n x.mode x.seed b))
  | .cas va n cmp new =>
    respOf (homeAccess (recallLine s x.ctx (va / 128 * 128)) { atomicReq x.ctx va n .swap true q.agent x.scope with va := va }
      (fun old => if leNat old = cmp then some (leBytes n new) else none))
  | _ => (s, .data 0)

/-- The access wrote: a CAS that does not match makes no release (R253). -/
def Txn.releases (x : Txn) (r : Resp) : Bool :=
  x.rel && (match x.kind, r with
    | .cas _ n cmp _, .data v => v.toNat % 2 ^ (8 * n) == cmp
    | _, .data _ => true
    | _, _ => false)

/-- The scope at which an access is performed: at least 4 in host memory, 5 on another module (R233). -/
def Txn.scopeAt (s : State) (x : Txn) : Nat :=
  match x.kind.loc x.ctx with
  | some (_, .glob _, va, n) =>
    [va, va + n - 1].foldl (fun k a => match (translate s (homeSlice s a) x.ctx a false false).2 with
      | .ok _ _ .host => Nat.max k 4
      | .ok _ _ .remote => Nat.max k 5
      | _ => k) x.scope
  | _ => x.scope

/-- A response is on its way to the strand. -/
def answer (s : State) (id : Nat) (r : Resp) : State := (s.modTxn id (fun x => { x with resp := r })).post (.globalResponse id)

/-! ### Proxy queues (R359, R360) -/

def Proxy.sva (p : Proxy) : Nat := bits p.reg 511 456
def Proxy.tva (p : Proxy) : Nat := bits p.reg 455 400
def Proxy.ctx (p : Proxy) : Nat := bits p.reg 399 390
def Proxy.m (p : Proxy) : Nat := bits p.reg 389 385
def Proxy.t (p : Proxy) : Nat := bits p.reg 384 380
def Proxy.st (p : Proxy) : Nat := bits p.reg 379 378

def Proxy.reset : Proxy := { reg := 0, held := [], timed := false, since := 0 }
def State.proxy (s : State) (d p : Nat) : Proxy := Sparse.get Proxy.reset (s.die d).prox p
def State.setProxy (s : State) (d p : Nat) (x : Proxy) : State := s.modDie d (fun D => { D with prox := Sparse.set Proxy.reset D.prox p x })

/-- The pair whose shadow index a push advances: AMO.add.e64.rel at scope 4 or wider on wi (R359). -/
def pairOf (s : State) (x : Txn) : Option (Nat × Nat) :=
  match x.kind with
  | .amo va 8 .add _ true =>
    if x.rel ∧ 4 ≤ x.scope then
      let hit := fun (d : Nat) => ((s.die d).prox.find? (fun e => e.2.ctx == x.ctx && e.2.sva == va && (e.2.st == 1 || e.2.st == 2))).map
        (fun e => (d, e.1))
      match hit 0 with
      | some p => some p
      | none => hit 1
    else none
  | _ => none

/-- A 64-bit word of a ring, read by the part's own engine. -/
def ringWord (s : State) (ctx va : Nat) : State × Option Nat :=
  match homeAccess (recallLine s ctx (va / 128 * 128)) { ctx := ctx, va := va, n := 8, r := true, w := false, reads := true, agent := .outside }
      (fun _ => none) with
  | (s, .data bs) => (s, some (leNat bs))
  | (s, .bad _) => (s, none)

/-- A write made by the part's own engine; false when it fails. -/
def ringPut (s : State) (ctx va : Nat) (bs : List Byte) : State × Bool :=
  let ps := pieces (bs.length / 128 + 2) va bs.length
  match homeWrite (recallAll s ctx ps) { ctx := ctx, va := va, n := 0, r := false, w := true, reads := false, agent := .outside } ps bs with
  | (s, .data _) => (s, true)
  | (s, .bad _) => (s, false)

/-- A push at its shadow (R359): with room it is made and forwarding follows; a frozen shadow answers the old value with
bit 63 set (R360); else it is held. The first component is none when it is held. -/
def proxyPush (s : State) (x : Txn) (d p : Nat) (b : Nat) : State × Option Resp :=
  let P := s.proxy d p
  let (s, wi) := ringWord s P.ctx P.sva
  let (s, fwd) := ringWord s P.ctx (P.sva + 16)
  match wi, fwd with
  | some wi, some fwd =>
    if P.st = 2 then (s, some (.data (BitVec.ofNat 2048 (wi % 2 ^ 63 + 2 ^ 63))))
    else if (wi + b - fwd) ≤ 2 ^ P.m then
      let (s, r) := performGlobal s x
      (s.post (.proxyForward d p), some r)
    else
      let P := if P.held.isEmpty then { P with since := s.cyc, timed := false } else P
      let s := if P.held.isEmpty then s.post (.proxyTimeout d p) else s
      (s.setProxy d p { P with held := P.held ++ [x.id] }, none)
  | _, _ =>
    let (s, r) := performGlobal s x
    (s, some r)

/-- The next line of a SCRUB (R341); a nonzero answer names the failed address. -/
def scrubStep (s : State) (id : Nat) (x : Txn) (va n : Nat) : State :=
  if 2 ^ 56 < va + 128 || isWindow va then answer (s.modTxn id (fun y => { y with tval := BitVec.ofNat 64 va })) id (.error 0x20)
  else match streamWrite (recallLine s x.ctx va) (.tile x.tile) x.ctx va true (List.replicate 128 0) with
    | (s, .data _) =>
      if n ≤ 128 then answer s id (.data 0)
      else (s.modTxn id (fun y => { y with kind := .scrub (va + 128) (n - 128) })).post (.globalRequest id)
    | (s, r) => answer (s.modTxn id (fun y => { y with tval := BitVec.ofNat 64 va })) id r

/-- GLOBAL_REQUEST (R217): an access reaches its home once R235 lets it; the home serves it and answers. -/
def execGlobalRequest (id : Nat) (s : State) : Out :=
  match s.txn? id with
  | none => .next s
  | some x =>
    if x.resp != .pending then .next s
    else
      let s := if x.rel then sendHomeIf s x.tile (fun _ => true)
        else sendHomeIf s x.tile (fun g => match x.access with
          | some y => orderedBefore { cls := g.cls, writes := true, acq := false, rel := false, space := .glob g.ctx, lo := g.line, n := 128 } y
          | none => false)
      let self := match x.kind with | .promoteSelf => true | _ => false
      if (s.tile x.tile).frozen || x.mustWait s || ((x.rel || self) && !canReleaseAt s x.tile id) then .next (s.post (.globalRequest id))
      else match x.kind with
        | .promoteSelf => .next (promote (s.dropTxn id) x.tile)
        | .scrub va n => .next (scrubStep s id x va n)
        | .promote va none =>
          if isWindow va then .next (answer s id (.error 0x20))
          else if s.dieDown (homeSlice s va / 64) then .next (answer s id (.error 0x20))
          else
            let (s, tr) := if (s.line? x.ctx (va / 128 * 128)).isSome then (s, Tr.ok 0 false .hbm)
              else translate s (homeSlice s va) x.ctx va true false
            match tr with
            | .pageFault => .next (answer s id (.pageFault va))
            | .error => .next (answer s id (.error 0x20))
            | .ok _ _ _ =>
              match s.pin? x.ctx (va / 128 * 128) with
              | none => .next (answer s id (.data 0))
              | some p => .next ((s.modTxn id (fun y => { y with kind := .promote va (some (p.owner, s.nextId)) })).post (.promoteRequest id))
        | _ =>
          match pairOf s x, x.kind with
          | some (d, p), .amo _ _ _ b _ =>
            match proxyPush s x d p b with
            | (s, none) => .next s
            | (s, some r) => .next (answer s id r)
          | _, _ =>
            let (s, r) := performGlobal s x
            .next (answer (if x.releases r then releaseAt s x.tile (x.scopeAt s) else s) id r)

/-- PROMOTE_REQUEST (R246): the owner's tile promotes once every write it issued before the request arrived is performed;
a frozen owner holds the request. -/
def execPromoteRequest (id : Nat) (s : State) : Out :=
  match s.txn? id with
  | none => .next s
  | some x =>
    match x.kind with
    | .promote _ (some (o, mark)) =>
      if (s.tile o).frozen || !canReleaseAt s o mark then .next (s.post (.promoteRequest id))
      else .next (answer (promote s o) id (.data 0))
    | _ => .next s

/-- GATHER_SEND_HOME (R227): line k of a tile's gather cache sets out for its home. -/
def execGatherSendHome (t k : Nat) (s : State) : Out :=
  if (s.tile t).frozen then .next s
  else match (s.tile t).gather[k]? with
    | none => .next s
    | some g => .next (sendHome s t g)

/-! ### The response (R248, R310, R312) -/

/-- The value that an answered access writes: sub-word loads extended, atomics by zero. -/
def Txn.value (x : Txn) (v : Vec) : Vec :=
  match x.kind with
  | .ld _ n sx => ((if sx then extS (8 * n) v.toNat else extZ v.toNat)).setWidth 2048
  | .ldx _ _ n sx => ((if sx then extS (8 * n) v.toNat else extZ v.toNat)).setWidth 2048
  | _ => v

/-- GLOBAL_RESPONSE (R248). A frozen strand's response is held in its latch (R325). -/
def execGlobalResponse (id : Nat) (s : State) : Out :=
  match s.txn? id with
  | none => .next s
  | some x =>
    let T := s.tile x.tile
    if T.frozen then .next (s.post (.globalResponse id))
    else match x.resp with
      | .pending => .next s
      | .retry => .next ((s.count T.vf 8 1).post (.retryReissue id))
      | .data v => .next (pruneFences ((s.dropTxn id).modTile x.tile (fun T => T.deliver x.front id x.dest (x.value v))))
      | .gone => .next (pruneFences ((s.dropTxn id).modTile x.tile (fun T => (T.warnBit warnPgone).wake)))
      | .pageFault va => .next (taskAbort (pruneFences (s.dropTxn id)) x.tile 0x40 va 0)
      | .error c =>
        if T.phase == .retired then .next (taskAbort (pruneFences (s.dropTxn id)) x.tile 0x40 x.tval.toNat 0)
        else .next (identifiedTrap (pruneFences ((s.dropTxn id).modTile x.tile (fun T => T.deliverFail x.front id x.dest)))
          x.tile c x.front x.ipc x.user x.tval)
      | .poisoned =>
        .next (identifiedTrap (pruneFences ((s.dropTxn id).modTile x.tile (fun T => T.deliverFail x.front id x.dest)))
          x.tile 0x23 x.front x.ipc x.user x.tval)

/-- RETRY_REISSUE (R244): no sooner than 64 cycles later, a bound on time alone. -/
def execRetryReissue (id : Nat) (s : State) : Out :=
  match s.txn? id with
  | none => .next s
  | some x =>
    if x.resp != .retry then .next s
    else if (s.tile x.tile).frozen then .next (s.post (.retryReissue id))
    else .next ((s.modTxn id (fun x => { x with resp := .pending })).post (.globalRequest id))

/-! ### Proxy forwarding (R359, R360) -/

/-- Entries i to wi − 1 are copied from the shadow to the true ring; the first failed write is named. -/
def proxyCopy (s : State) (P : Proxy) (i : Nat) : Nat → State × Option Nat
  | 0 => (s, none)
  | n + 1 =>
    let off := 64 + 256 * (i % 2 ^ P.m)
    let ps := pieces 4 (P.sva + off) 256
    match homeRead s { ctx := P.ctx, va := 0, n := 0, r := true, w := false, reads := true, agent := .outside } ps [] with
    | (s, .bad _) => (s, some (P.sva + off))
    | (s, .data bs) =>
      match ringPut s P.ctx (P.tva + off) bs with
      | (s, false) => (s, some (P.tva + off))
      | (s, true) => proxyCopy s P (i + 1) n

/-- Held pushes are tried again. -/
def proxyWake (s : State) (d p : Nat) : State :=
  let P := s.proxy d p
  P.held.foldl (fun s id => s.post (.globalRequest id)) (s.setProxy d p { P with held := [], timed := false })

/-- A forwarding write that fails freezes the shadow; the owner receives a queue error (R360). -/
def proxyFail (s : State) (d p va : Nat) : State :=
  let P := s.proxy d p
  let s := s.setProxy d p { P with reg := setBits P.reg 379 378 2 }
  let s := s.record d { va := va, kind := 0x59, ctx := P.ctx, info := p }
  proxyWake (s.interrupt (s.vf (s.ctx P.ctx).vf).irq 5) d p

/-- PROXY_FORWARD (R359): entries go to the true ring as far as its own room allows (log 20), then its wi and the
shadow's fwd advance. -/
def execProxyForward (d p : Nat) (s : State) : Out :=
  let P := s.proxy d p
  if P.st ≠ 1 then .next s
  else if s.pins.any (fun q => q.ctx == P.ctx && (overlap (P.sva, 64 + 256 * 2 ^ P.m) (q.line, 128) || overlap (P.tva, 64 + 256 * 2 ^ P.m) (q.line, 128)))
  then .next (s.post (.proxyForward d p))
  else
    let (s, wi) := ringWord s P.ctx P.sva
    let (s, fwd) := ringWord s P.ctx (P.sva + 16)
    let (s, ri) := ringWord s P.ctx (P.tva + 8)
    match wi, fwd, ri with
    | some wi, some fwd, some ri =>
      let n := min (wi - fwd) (2 ^ P.m - (fwd - ri))
      if n = 0 then .next (if wi = fwd then s else s.post (.proxyForward d p))
      else match proxyCopy s P fwd n with
        | (s, some va) => .next (proxyFail s d p va)
        | (s, none) =>
          match ringPut s P.ctx P.tva (leBytes 8 (fwd + n)) with
          | (s, false) => .next (proxyFail s d p P.tva)
          | (s, true) =>
            let (s, _) := ringPut s P.ctx (P.sva + 16) (leBytes 8 (fwd + n))
            .next (proxyWake (if fwd + n < wi then s.post (.proxyForward d p) else s) d p)
    | _, _, _ => .next (proxyFail s d p P.tva)

/-- PROXY_TIMEOUT (R359): once a held push has waited 2^t cycles the owner receives a queue-full event. -/
def execProxyTimeout (d p : Nat) (s : State) : Out :=
  let P := s.proxy d p
  if P.st ≠ 1 ∨ P.held.isEmpty ∨ P.timed then .next s
  else if (s.cyc - P.since).toNat < 2 ^ P.t then .next (s.post (.proxyTimeout d p))
  else
    let s := s.setProxy d p { P with timed := true }
    let s := s.record d { kind := 0x58, ctx := P.ctx, info := p }
    .next (s.interrupt (s.vf (s.ctx P.ctx).vf).irq 4)

end Sys2Proof.Machine
end

