-- ==== Sys2Proof/Machine/Parallel.lean ====
section
/-! DEFINITION. Mailbox, pipe and cluster instructions and remote scratchpad access (10, 12): SIGNAL, WAITCH, BLOCK,
UNBLOCK, FWPUSH, FWPOP, CARRIVE, CWAIT, LDX, STX, and the arrivals at a peer's tile. -/

namespace Sys2Proof.Machine

/-! ### Channels (R169) -/

def Tile.chan (T : Tile) (c : Nat) : Chan := if h : c < 16 then T.chans[c] else .reset
def Tile.setChan (T : Tile) (c : Nat) (x : Chan) : Tile := { T with chans := T.chans.setIfInBounds c x }

/-- A channel is eligible. -/
def Chan.eligible (c : Chan) : Bool := c.val && !c.blk && !c.payloads.isEmpty

/-- The eligible channel of highest priority, lowest number first (R169). -/
def Tile.pickChan (T : Tile) : Option Nat :=
  (List.range 16).foldl (fun best c =>
    if (T.chan c).eligible then
      match best with
      | none => some c
      | some b => if (T.chan b).cpri.toNat < (T.chan c).cpri.toNat then some c else best
    else best) none

/-- Taking a channel pops its oldest payload. -/
def Tile.takeChan (T : Tile) (c : Nat) : Nat × Tile :=
  match (T.chan c).payloads with
  | [] => (0, T)
  | p :: rest => (p.data.toNat, T.setChan c { T.chan c with payloads := rest })

/-! ### SIGNAL, WAITCH, BLOCK, UNBLOCK (R202 to R205) -/

/-- A member word breaks R197. -/
def memberBad (s : State) (w : Word) : Bool := bits w 63 24 != 0 || !memberOk s s.focus.1 (memberOf w.toNat)

/-- SIGNALs of a strand that are outstanding. -/
def signalsOut (s : State) (t : Nat) : Nat :=
  ((s.strandTxns t).filter (fun x => match x.kind with | .signal _ _ _ => true | _ => false)).length

/-- SIGNAL (R202). -/
def execSignal (a b : Reg) (s : State) : Out :=
  issue s { instr := .signal a b, onX := false, rs := [a, b] } (fun s I =>
    let w := I.s 0
    if memberBad s w then .trap 0x0C w
    else if 4 ≤ signalsOut s s.focus.1 then .wait
    else
      let m := memberOf w.toNat
      let k : TxnKind := .signal (peerNo s s.focus.1 m) (fld w.toNat 3 0) ((I.s 1).setWidth 32)
      .done (s.launch { newTxn s I k 0 0 (memberScope m) w with rel := true } .payloadArrival))

/-- WAITCH (R203): with HMOD bit 0 it does not wait. -/
def execWaitch (d : Reg) (s : State) : Out :=
  issue s { instr := .waitch d, onX := false, ws := [d], hmod := 1 } (fun s I =>
    let T := s.cur
    match T.pickChan with
    | none => if I.mod 0 then .done (s.setTile s.focus.1 (T.putS s.focus.2 d (BitVec.allOnes 64))) else .wait
    | some c =>
      let (p, T) := T.takeChan c
      .done (s.setTile s.focus.1 (T.putS s.focus.2 d (BitVec.ofNat 64 (c * 2 ^ 32 + p)))))

/-- Bit blk of a channel changes. -/
def Tile.setBlk (T : Tile) (c : Nat) (b : Bool) : Tile := (T.setChan c { T.chan c with blk := b }).wake

/-- BLOCK or UNBLOCK: at once on the own channel table, else by a message (R204). -/
def blockOn (s : State) (i : Instr) (a : Reg) (b : Bool) : Out :=
  issue s { instr := i, onX := false, rs := [a] } (fun s I =>
    let w := I.s 0
    if memberBad s w then .trap 0x0C w
    else
      let m := memberOf w.toNat
      let pe := peerNo s s.focus.1 m
      let c := fld w.toNat 3 0
      if pe = ownPeer then .done (s.modTile s.focus.1 (fun T => T.setBlk c b))
      else .done (s.launch (newTxn s I (.block pe c b) 0 0 (memberScope m) w) .blockArrival))

/-- BLOCK (R204). -/
def execBlock (a : Reg) (s : State) : Out := blockOn s (.block a) a true

/-- UNBLOCK (R204). -/
def execUnblock (a : Reg) (s : State) : Out := blockOn s (.unblock a) a false

/-- An earlier message of the same strand to the same peer and channel is still under way. -/
def olderTo (s : State) (x : Txn) (same : TxnKind → Bool) : Bool :=
  (s.strandTxns x.tile).any (fun y => decide (y.id < x.id) && y.resp == .pending && same y.kind)

/-- PAYLOAD_ARRIVAL (R202, R205): held while the target has not started, is frozen or holds four payloads. -/
def execPayloadArrival (id : Nat) (s : State) : Out :=
  match s.txn? id with
  | none => .next s
  | some x =>
    match x.kind with
    | .signal pe c p =>
      let s := sendHomeIf s x.tile (fun _ => true)
      let again := s.post (.payloadArrival id)
      if x.resp != .pending then .next s
      else if (s.tile x.tile).frozen || !canReleaseAt s x.tile id ||
          olderTo s x (fun k => match k with | .signal pe' c' _ => pe' == pe && c' == c | _ => false) then .next again
      else match peerAt s x.tile x.inst pe with
        | .notYet => .next again
        | .gone => .next (answer (releaseAt s x.tile x.scope) id .gone)
        | .at u =>
          let T := s.tile u
          if T.frozen then .next again
          else if !(T.chan c).val then .next (answer (releaseAt s x.tile x.scope) id .gone)
          else if 4 ≤ (T.chan c).payloads.length then .next again
          else
            let T := (T.setChan c { T.chan c with payloads := (T.chan c).payloads ++ [{ data := p }] }).wake
            .next (answer ((releaseAt s x.tile x.scope).setTile u T) id (.data 0))
    | _ => .next s

/-- BLOCK_ARRIVAL (R204, R205). -/
def execBlockArrival (id : Nat) (s : State) : Out :=
  match s.txn? id with
  | none => .next s
  | some x =>
    match x.kind with
    | .block pe c b =>
      let again := s.post (.blockArrival id)
      if x.resp != .pending then .next s
      else if (s.tile x.tile).frozen || olderTo s x (fun k => match k with | .block pe' c' _ => pe' == pe && c' == c | _ => false) then .next again
      else match peerAt s x.tile x.inst pe with
        | .notYet => .next again
        | .gone => .next (answer s id .gone)
        | .at u => if (s.tile u).frozen then .next again else .next (answer (s.modTile u (fun T => T.setBlk c b)) id (.data 0))
    | _ => .next s

/-! ### Pipes (R206 to R208) -/

def Pipe.reset : Pipe := { head := 0, filled := 0, held := 0 }
def Tile.pipe (T : Tile) (n : Nat) : Pipe := Sparse.get Pipe.reset T.pipes n
def Tile.setPipe (T : Tile) (n : Nat) (p : Pipe) : Tile := { T with pipes := Sparse.set Pipe.reset T.pipes n p }

/-- The mode-3 descriptors of a record with a pipe number. -/
def Rec.pipeEnds (r : Rec) (n : Nat) : List OpDesc := [r.op0, r.op1, r.op2].filter (fun o => o.mode == 3 && fld o.va 15 12 == n)

/-- The end in the direction named: 1 producing, 0 consuming (R167). -/
def Rec.pipeEnd (r : Rec) (n dir : Nat) : Option OpDesc := (r.pipeEnds n).find? (fun o => fld o.va 11 11 == dir)

/-- The record of a strand. -/
def strandRec (s : State) (t : Nat) : Option Rec := s.rec? (dieOf t) (s.tile t).inst (s.tile t).tidx

/-- The consuming end that a producing end feeds: the peer's descriptor. -/
def consumerEnd (s : State) (t : Nat) (o : OpDesc) (n : Nat) : Option OpDesc :=
  match s.rec? (dieOf t) (s.tile t).inst (fld o.va 10 0) with
  | none => none
  | some q => q.pipeEnd n 0

/-- Bytes that a strand has pushed into a peer's pipe and that have not arrived. -/
def pushing (s : State) (t n : Nat) : Nat :=
  ((s.strandTxns t).map (fun x => match x.kind with
    | .fwpush _ p _ _ data _ => if p = n ∧ x.resp = .pending then data.length else 0
    | _ => 0)).sum

/-- FWPUSH (R207): the pipe's number and direction, alignment and range, then the length; it waits for room. -/
def execFwpush (d a b : Reg) (s : State) : Out :=
  issue s { instr := .fwpush d a b, onX := false, rs := [b, d] } (fun s I =>
    let n := (I.s 0).toNat
    let x := (I.s 1).toNat
    let t := s.focus.1
    match (strandRec s t).bind (fun r => r.pipeEnd a.toNat 1) with
    | none => .trap 0x0C (a.setWidth 64)
    | some o =>
      let size := match consumerEnd s t o a.toNat with | some c => c.len * 256 | none => 0
      if x % 256 ≠ 0 then .trap 0x08 (I.s 1)
      else if n % 256 ≠ 0 then .trap 0x08 (I.s 0)
      else if n ≠ 0 ∧ spadEnd < x + n then .trap 0x07 (I.s 1)
      else if size < n then .trap 0x0C (I.s 0)
      else if n = 0 then .done s
      else
        let pe := fld o.va 10 0 * 256 + s.cur.rank.toNat
        match peerAt s t s.cur.inst pe with
        | .gone => .done (s.modTile t (fun T => T.warnBit warnPgone))
        | .notYet => .wait
        | .at u =>
          let P := (s.tile u).pipe a.toNat
          if size < P.filled + P.held + pushing s t a.toNat + n || s.cur.sbClash [(x, n)] false then .wait
          else
            let dst := match consumerEnd s t o a.toNat with | some c => c.dst | none => 0
            .done (s.launch (newTxn s I (.fwpush pe a.toNat dst size (s.cur.localBytes x n) 0) 0 0 3 0) .peerAccessArrival))

/-- FWPOP (R208): the previous block is freed at issue, before any wait. -/
def execFwpop (d a b : Reg) (s : State) : Out :=
  issue s { instr := .fwpop d a b, onX := false, rs := [b], ws := [d] } (fun s I =>
    let n := (I.s 0).toNat
    let t := s.focus.1
    match (strandRec s t).bind (fun r => r.pipeEnd a.toNat 0) with
    | none => .trap 0x0C (a.setWidth 64)
    | some o =>
      let size := o.len * 256
      if n % 256 ≠ 0 then .trap 0x08 (I.s 0)
      else if size < n then .trap 0x0C (I.s 0)
      else
        let T := s.cur
        let P := { T.pipe a.toNat with held := 0 }
        if n = 0 then .done (s.setTile t ((T.setPipe a.toNat P).putS s.focus.2 d (BitVec.ofNat 64 (o.dst + P.head))))
        else if n ≤ P.filled then
          let Q : Pipe := { head := (P.head + n) % size, filled := P.filled - n, held := n }
          .done (s.setTile t ((T.setPipe a.toNat Q).putS s.focus.2 d (BitVec.ofNat 64 (o.dst + P.head))))
        else match peerAt s t T.inst (fld o.va 10 0 * 256 + T.rank.toNat) with
          | .gone => .done (s.setTile t ((T.setPipe a.toNat P).putS s.focus.2 d (BitVec.allOnes 64)))
          | _ => .waitAfter (fun s => s.modTile t (fun T => T.setPipe a.toNat { T.pipe a.toNat with held := 0 })))

/-! ### The cluster barrier (R209) -/

/-- CARRIVE (R209). -/
def execCarrive (d : Reg) (s : State) : Out :=
  issue s { instr := .carrive d, onX := false, ws := [d] } (fun s I =>
    let T := s.cur
    let s := s.setTile s.focus.1 ({ T with arrivals := T.arrivals + 1 }.putS s.focus.2 d (BitVec.ofNat 64 T.arrivals))
    .done (s.launch { newTxn s I (.arrive T.rank.toNat) 0 0 1 0 with rel := true } (.clusterArrival s.focus.1)))

/-- A generation is complete as far as the tile knows. -/
def Tile.genDone (T : Tile) (g : Nat) : Bool :=
  decide (g < T.arrivals) && (List.range T.tiles).all (fun r => r == T.rank.toNat || decide (g < Sparse.get 0 T.seen r))

/-- CWAIT (R209). -/
def execCwait (a : Reg) (s : State) : Out :=
  issue s { instr := .cwait a, onX := false, rs := [a] } (fun s I =>
    let T := s.cur
    if T.arrivals ≤ (I.s 0).toNat then .trap 0x0C (I.s 0)
    else if T.genDone (I.s 0).toNat then .done s else .wait)

/-- CLUSTER_ARRIVAL (R209): the arrival reaches the other members once every released write has been performed. -/
def execClusterArrival (t id : Nat) (s : State) : Out :=
  match s.txn? id with
  | none => .next s
  | some x =>
    match x.kind with
    | .arrive rank =>
      let s := sendHomeIf s t (fun _ => true)
      if (s.tile t).frozen || !canReleaseAt s t id || olderTo s x (fun k => match k with | .arrive _ => true | _ => false)
      then .next (s.post (.clusterArrival t id))
      else
        let members := match s.rec? (dieOf t) x.inst x.tidx with | some r => r.place.filter (· != t) | none => []
        .next (members.foldl (fun s u => s.modTile u (fun U => { U with seen := Sparse.set 0 U.seen rank (Sparse.get 0 U.seen rank + 1) }.wake))
          (s.dropTxn id))
    | _ => .next s

/-! ### LDX and STX (R210) -/

/-- The checks of LDX and STX: the member word, then the address. -/
def remoteCause (s : State) (w x : Word) (n : Nat) : Option (Nat × Word) :=
  if memberBad s w || bits w 3 0 != 0 then some (0x0C, w)
  else if spadEnd < x.toNat + n then some (0x07, x)
  else if x.toNat % n ≠ 0 then some (0x08, x)
  else none

/-- LDX (R210). -/
def execLdx (d a b : Reg) (c : BitVec 3) (z : Width) (s : State) : Out :=
  issue s { instr := .ldx d a b c z, onX := false, rs := [a, b], ws := [d] } (fun s I =>
    match remoteCause s (I.s 1) (I.s 0) z.nbytes with
    | some (k, v) => .trap k v
    | none =>
      if fenced s s.focus.1 c.toNat || !placesFree s s.focus.1 1 then .wait
      else
        let m := memberOf (I.s 1).toNat
        .done (launchTo s (newTxn s I (.ldx (peerNo s s.focus.1 m) (I.s 0).toNat z.nbytes false) 1 c.toNat (memberScope m) (I.s 1))
          (resS s d) .peerAccessArrival))

/-- STX (R210): operands in the order a, b, d. -/
def execStx (d a b : Reg) (c : BitVec 3) (z : Width) (s : State) : Out :=
  issue s { instr := .stx d a b c z, onX := false, rs := [a, b, d] } (fun s I =>
    match remoteCause s (I.s 1) (I.s 0) z.nbytes with
    | some (k, v) => .trap k v
    | none =>
      if fenced s s.focus.1 c.toNat || !placesFree s s.focus.1 1 then .wait
      else
        let m := memberOf (I.s 1).toNat
        .done (launchTo s (newTxn s I (.stx (peerNo s s.focus.1 m) (I.s 0).toNat z.nbytes ((I.s 2).toNat % 2 ^ (8 * z.nbytes)))
          1 c.toNat (memberScope m) (I.s 1)) resNone .peerAccessArrival))

/-! ### Barrier objects (R270, R271): updates at the tile's scratchpad unit -/

/-- A barrier object's update: pend by a difference, arrivals, error bits, and the fault close. -/
structure BarUpd where
  pend  : Int := 0
  arr   : Nat := 0
  err   : Nat := 0
  close : Bool := false

/-- The object after an update, with its flip (R271). -/
def barApply (o : BitVec 128) (u : BarUpd) : BitVec 128 :=
  let exp := bits o 31 16
  let arr0 := if u.close then exp else bits o 15 0 + u.arr
  let aovf := decide (0 < u.arr) && decide (exp < arr0) && !u.close
  let arr := if aovf then exp else arr0
  let p0 : Int := if u.close then 0 else signedOf 30 (bits o 119 90) + u.pend
  let povf := decide (p0 < -(2 ^ 29)) || decide (2 ^ 29 ≤ p0)
  let pend := wrapInt 30 p0
  let err := bits o 127 120 ||| u.err ||| (if povf then 1 else 0) ||| (if aovf then 32 else 0)
  let flip := arr == exp && pend == 0
  let o := setBits (setBits o 127 120 err) 119 90 pend
  let o := setBits o 15 0 (if flip then 0 else arr)
  if flip then setBits o 32 32 (1 - bits o 32 32) else o

/-- The barrier object at a scratchpad address. -/
def Tile.bar (T : Tile) (a : Nat) : BitVec 128 := BitVec.ofNat 128 (memNat T.spad a 16)

/-- An update of one object; those who wait for its flip try again. -/
def Tile.barUpd (T : Tile) (a : Nat) (u : BarUpd) : Tile :=
  { T with spad := memPutNat T.spad a 16 (barApply (T.bar a) u).toNat }.wake

/-! ### Arrival at a peer's scratchpad (R207, R210, R215, R290, R381) -/

/-- Bytes of a pipe's ring written from an offset, wrapping. -/
def ringBytes (m : List Host.Cell) (dst size off : Nat) : List Byte → List Host.Cell
  | [] => m
  | b :: bs => ringBytes (memSet m (dst + off % size) b) dst size (off + 1) bs

/-- An access performed in the scratchpad of a tile; the answer, and the tile after it. -/
def Txn.atPeer (x : Txn) (T : Tile) : Resp × Tile :=
  match x.kind with
  | .ldx _ a n _ => (.data (BitVec.ofNat 2048 (memNat T.spad a n)), T)
  | .stx _ a n v => (.data 0, T.spadPut a n v)
  | .twAmo _ a n o b _ =>
    let v := memNat T.spad a n
    (.data (BitVec.ofNat 2048 v), T.spadPut a n (atomicNew o (8 * n) x.mode x.seed v b))
  | .twCas _ a n cmp new =>
    let v := memNat T.spad a n
    (.data (BitVec.ofNat 2048 v), if v = cmp then T.spadPut a n new else T)
  | .twVld _ a => (.data (BitVec.ofNat 2048 (memNat T.spad a 256)), T)
  | .twVst _ a v => (.data 0, T.spadPut a 256 v.toNat)
  | .fwpush _ n dst size data _ =>
    let P := T.pipe n
    (.data 0, { T with spad := ringBytes T.spad dst size (P.head + P.filled) data }.setPipe n { P with filled := P.filled + data.length })
  | .mcastWrite _ _ _ bar data bytes _ err =>
    (.data 0, { T with spad := data.foldl (fun (m : List Host.Cell) (c : Nat × Byte) => memSet m c.1 c.2) T.spad }.barUpd bar { pend := -(bytes : Int), arr := 1, err := err })
  | _ => (.data 0, T)

/-- The peer and the address of an access over the mesh. -/
def TxnKind.peer : TxnKind → Option (Nat × Nat)
  | .ldx p a _ _ => some (p, a)
  | .stx p a _ _ => some (p, a)
  | .twAmo p a _ _ _ _ => some (p, a)
  | .twCas p a _ _ _ => some (p, a)
  | .twVld p a => some (p, a)
  | .twVst p a _ => some (p, a)
  | .fwpush p _ _ _ _ _ => some (p, 0)
  | .mcastWrite p _ _ _ _ _ _ _ => some (p, 0)
  | _ => none

/-- An access to a retired strand answers the peer-gone error, or is a store that is discarded (R210, R248). -/
def TxnKind.goneResp : TxnKind → Resp
  | .stx _ _ _ _ => .gone
  | .twVst _ _ _ => .gone
  | .fwpush _ _ _ _ _ _ => .gone
  | .mcastWrite _ _ _ _ _ _ _ _ => .gone
  | _ => .error 0x22

/-- The same strand's earlier push on the same pipe. -/
def samePipe (k j : TxnKind) : Bool :=
  match k, j with
  | .fwpush p n _ _ _ _, .fwpush q m _ _ _ _ => p == q && n == m
  | _, _ => false

/-- A multicast write whose source has still to be read (R275, R290). -/
def sourceUnread (s : State) (k : TxnKind) : Bool :=
  match k with
  | .mcastWrite _ _ _ _ _ _ parent _ => s.txns.any (fun x => x.id == parent && x.unperformed)
  | _ => false

/-- PEER_ACCESS_ARRIVAL (R210, R381). -/
def execPeerAccessArrival (id : Nat) (s : State) : Out :=
  match s.txn? id with
  | none => .next s
  | some x =>
    match x.kind.peer with
    | none => .next s
    | some (pe, a) =>
      let s := if x.rel then sendHomeIf s x.tile (fun _ => true) else s
      let again := s.post (.peerAccessArrival id)
      if x.resp != .pending then .next s
      else if (s.tile x.tile).frozen || x.mustWait s || (x.rel && !canReleaseAt s x.tile id) || sourceUnread s x.kind || olderTo s x (samePipe x.kind) then .next again
      else if spadEnd ≤ a then .next (answer s id (.error 0x20))
      else match peerAt s x.tile x.inst pe with
        | .notYet => .next again
        | .gone => .next (answer s id x.kind.goneResp)
        | .at u =>
          if (s.tile u).frozen then .next again
          else
            let (r, T) := x.atPeer (s.tile u)
            let s := s.setTile u T.wake
            .next (answer (if x.releases r then releaseAt s x.tile x.scope else s) id r)

end Sys2Proof.Machine
end

