-- ==== Sys2Proof/Machine/Claims.lean ====
section
/-! DEFINITION. The claim table (16/R258 to R266, 20/R322, 24/R356): CLAIM, CFULFIL, CABANDON, CPIN, CUNPIN, the delivery of
a deferred result and the expiry of a lease. -/

namespace Sys2Proof.Machine

/-! ### Names and homes (R258) -/

/-- What a claim names: digest, function, version and context. -/
structure ClaimName where
  dg  : Nat
  fid : Nat
  ver : Nat
  ctx : Nat
  deriving DecidableEq, Repr

/-- The home of a name: die and set; in minimal mode die 0 (R377). -/
def claimHome (s : State) (n : ClaimName) : Nat × Nat :=
  let z := mix (BitVec.ofNat 64 (n.dg % 2 ^ 64) ^^^ BitVec.ofNat 64 (n.dg / 2 ^ 64) ^^^ BitVec.ofNat 64 (n.ctx * 2 ^ 32 + n.ver * 2 ^ 16 + n.fid))
  (if s.mg.min then 0 else bits z 18 18, bits z 17 0)

/-- The key of an entry that a status word names (R261). -/
def statusKey (w : Word) : Nat := claimKey (bits w 29 29) (bits w 28 11) (bits w 10 8)

/-- The ways of a set. -/
def setKeys (die set : Nat) : List Nat := (List.range 8).map (claimKey die set)

/-- The way that holds a name (R262). -/
def claimFind (s : State) (n : ClaimName) (keys : List Nat) : Option Nat :=
  keys.find? (fun k =>
    let e := s.claim k
    e.st != .free && e.ctx == n.ctx && e.dg.toNat == n.dg && e.fid.toNat == n.fid && e.ver.toNat == n.ver)

/-! ### Claim slots of a tile (R259) -/

def Tile.cslot (T : Tile) (j : Nat) : Option ClaimSlot := if h : j < 16 then T.cslots[j] else none
def Tile.setCslot (T : Tile) (j : Nat) (c : Option ClaimSlot) : Tile := { T with cslots := T.cslots.setIfInBounds j c }

/-- The lowest free slot. -/
def Tile.freeCslot (T : Tile) : Option Nat := (List.range 16).find? (fun j => (T.cslot j).isNone)

/-- The slot of a make on an entry is freed. -/
def Tile.dropMake (T : Tile) (key : Nat) : Tile :=
  match (List.range 16).find? (fun j => match T.cslot j with | some c => c.make && c.key == key | none => false) with
  | some j => T.setCslot j none
  | none => T

/-! ### Eviction (R265) -/

/-- Records of a context's eviction ring: the room it has, its read index read from memory; a ring whose indices cannot be
read has none (log 21). -/
def ringRoom (s : State) (c : Nat) : State × Bool :=
  let C := s.ctx c
  if C.evm = 0 || C.evStop then (s, false)
  else match ringWord s c (C.evb + 8) with
    | (s, some ri) => (s, decide ((C.evwi + 2 ^ 64 - ri) % 2 ^ 64 < 2 ^ C.evm))
    | (s, none) => (s, false)

/-- The age of an entry's last use, modulo 2^46. -/
def useAge (s : State) (e : Claim) : Nat := (bits s.cyc 45 0 + 2 ^ 46 - e.last.toNat) % 2 ^ 46

/-- The victim among the ways of a set: Ready, not pinned, its ring with room, the oldest last use, then the lowest way. -/
def claimVictim (s : State) : List Nat → State × Option Nat
  | [] => (s, none)
  | k :: rest =>
    let (s, best) := claimVictim s rest
    let e := s.claim k
    if e.st == .ready && e.pins == 0 then
      let (s, room) := ringRoom s e.ctx
      if room then
        match best with
        | none => (s, some k)
        | some b => (s, if useAge s (s.claim b) ≤ useAge s e then some k else some b)
      else (s, best)
    else (s, best)

/-- The eviction record (R265). -/
def evictRecord (e : Claim) : List Byte :=
  leBytes 32 (e.dg.toNat * 2 ^ 128 + e.fid.toNat * 2 ^ 112 + e.ver.toNat * 2 ^ 96 + e.handle.toNat)

/-- A Ready entry's record goes to its context's ring, then its index, and the entry becomes Free; a failed write leaves
it Ready and stops the ring with an error record (R265). -/
def evictEntry (s : State) (k : Nat) : State × Bool :=
  let e := s.claim k
  let C := s.ctx e.ctx
  let fail := fun (s : State) (va : Nat) =>
    ((s.setCtx e.ctx { s.ctx e.ctx with evStop := true }).record (k / 2 ^ 21) { va := va, kind := 0x54, ctx := e.ctx }, false)
  let at_ := C.evb + 64 + 32 * (C.evwi % 2 ^ C.evm)
  match ringPut s e.ctx at_ (evictRecord e) with
  | (s, false) => fail s at_
  | (s, true) =>
    match ringPut s e.ctx C.evb (leBytes 8 (C.evwi + 1)) with
    | (s, false) => fail s C.evb
    | (s, true) =>
      ((s.setCtx e.ctx { s.ctx e.ctx with evwi := (C.evwi + 1) % 2 ^ 64 }).setClaim k { Claim.reset with tkt := e.tkt }, true)

/-- A way for a new name: the lowest Free one, else a victim that is evicted; n bounds the victims tried. -/
def claimWay (s : State) (keys : List Nat) : Nat → State × Option Nat
  | 0 => (s, none)
  | n + 1 =>
    match keys.find? (fun k => (s.claim k).st == .free) with
    | some k => (s, some k)
    | none =>
      match claimVictim s keys with
      | (s, none) => (s, none)
      | (s, some k) =>
        match evictEntry s k with
        | (s, true) => (s, some k)
        | (s, false) => claimWay s keys n

/-! ### CLAIM (R262) -/

/-- What the home answers to a CLAIM: status and handle; none while an eviction holds the request. -/
def claimAt (s : State) (t : Nat) (n : ClaimName) (w : Word) : State × Option (Word × Word) :=
  let (die, set) := claimHome s n
  let T := s.tile t
  let slot := T.freeCslot
  let put := fun (s : State) (j key : Nat) (make : Bool) (tkt : BitVec 32) => s.modTile t (fun T => T.setCslot j (some
    { make := make, die := die, key := key, tkt := tkt, chan := bits w 35 32, recd := bits w 59 44, lease := bits w 39 36 }))
  if s.dieDown die then (s, some (3, 0))
  else match claimFind s n (setKeys die set) with
    | some k =>
      let e := s.claim k
      match e.st with
      | .ready =>
        let e' := { e with last := BitVec.ofNat 46 (bits s.cyc 45 0), pins := if bits w 40 40 = 1 ∧ e.pins < 65535 then e.pins + 1 else e.pins }
        (s.setClaim k e', some (claimStatus 2 k 0 0, e.handle))
      | .making =>
        match slot with
        | none => (s, some (4, 0))
        | some j =>
          if 15 ≤ e.wl.length then (s, some (4, 0))
          else
            let wt : Waiter := { pin := bits w 40 40 == 1, tile := t, slot := j, lease := bits w 39 36 }
            (put (s.setClaim k { e with wl := e.wl ++ [wt] }) j k false e.tkt, some (claimStatus 1 k e.wl.length 0, 0))
      | _ => (s, none)
    | none =>
      match slot with
      | none =>
        let keys := setKeys die set
        let (s, v) := claimVictim s keys
        (s, some (if v.isSome || keys.any (fun k => (s.claim k).st == .free) then 4 else 3, 0))
      | some j =>
        match claimWay s (setKeys die set) 8 with
        | (s, none) => (s, some (3, 0))
        | (s, some k) =>
          let tkt := (s.claim k).tkt + 1
          let e : Claim :=
            { Claim.reset with dg := BitVec.ofNat 128 n.dg, fid := BitVec.ofNat 16 n.fid, ver := BitVec.ofNat 16 n.ver, ctx := n.ctx,
                               st := .making, mtile := t, mslot := j, lease := bits w 39 36, tkt := tkt,
                               lst := BitVec.ofNat 30 (bits s.cyc 45 16) }
          (put (s.setClaim k e) j k true tkt, some (claimStatus 0 k 0 tkt.toNat, 0))

/-- CLAIM (R258, R261, R262): the status word to d, the handle to d + 1. -/
def execClaim (d a b : Reg) (s : State) : Out :=
  issue s { instr := .claim d a b, onX := false, rs := [a, a + 1, b], ws := [d, d + 1], hpri := true } (fun s I =>
    let w := I.s 2
    let t := s.focus.1
    if bits w 63 60 ≠ 0 ∨ bits w 43 41 ≠ 0 then .trap 0x0E w
    else if !placesFree s t 1 then .wait
    else
      let n : ClaimName :=
        { dg := (I.s 1).toNat * 2 ^ 64 + (I.s 0).toNat, fid := bits w 15 0, ver := bits w 31 16, ctx := s.cur.ctx.toNat }
      match claimAt s t n w with
      | (_, none) => .wait
      | (s, some (st, h)) => .done (s.modTile t (fun T => (T.putS s.focus.2 d st).putS s.focus.2 (d + 1) h)))

/-! ### CFULFIL, CABANDON, CPIN, CUNPIN (R263) -/

/-- A status word that R261 does not allow for an operation with that code. -/
def statusBad (w : Word) (code : Nat) : Bool := bits w 31 30 != 0 || bits w 3 0 != code

/-- The make that a status word names is this tile's and still its own. -/
def makeMatches (s : State) (t : Nat) (w : Word) : Bool :=
  let e := s.claim (statusKey w)
  !s.dieDown (bits w 29 29) && e.st == .making && e.mtile == t && e.tkt.toNat == bits w 63 32

/-- READY goes to each waiter, oldest first; the pins they ask for are counted (R263). -/
def fulfil (s : State) (k : Nat) (handle : Word) : State :=
  let e := s.claim k
  let s := s.setClaim k { e with st := .ready, handle := handle, pins := (e.wl.filter Waiter.pin).length, wl := [],
                                 last := BitVec.ofNat 46 (bits s.cyc 45 0) }
  e.wl.foldl (fun s w => sendClaimResult s w.tile w.slot (claimStatus 2 k 0 0) handle) s

/-- A claim instruction other than CLAIM: its status word is checked, and its answer is written at once. -/
def claimOp (s : State) (i : Instr) (d : Reg) (rs : List Reg) (code : Nat) (rel : Bool) (act : State → Nat → Word → Word → State × Nat) : Out :=
  issue s { instr := i, onX := false, rs := rs, ws := [d], hpri := true } (fun s I =>
    let t := s.focus.1
    let w := I.s 0
    if statusBad w code then .trap 0x0E w
    else if !placesFree s t 1 then .wait
    else if rel && !canRelease s t then .waitAfter (fun s => sendHomeIf s t (fun _ => true))
    else
      let (s, r) := act s t w (I.s 1)
      .done (s.modTile t (fun T => T.putS s.focus.2 d (extZ r))))

/-- CFULFIL (R263, R266): a release at scope 4. -/
def execCfulfil (d a b : Reg) (s : State) : Out :=
  claimOp s (.cfulfil d a b) d [a, b] 0 true (fun s t w h =>
    let s := releaseAt s t 4
    let ok := makeMatches s t w
    let s := s.modTile t (fun T => T.dropMake (statusKey w))
    if ok then (fulfil s (statusKey w) h, 0) else (s, 1))

/-- CABANDON (R263). -/
def execCabandon (d a : Reg) (s : State) : Out :=
  claimOp s (.cabandon d a) d [a] 0 false (fun s t w _ =>
    let k := statusKey w
    let ok := makeMatches s t w
    let r := if ok then (if (s.claim k).wl.isEmpty then 1 else 0) else 2
    let s := s.modTile t (fun T => T.dropMake k)
    (if ok then handOver s k else s, r))

/-- A READY result names its entry by handle and context (R263). -/
def readyMatches (s : State) (t : Nat) (w h : Word) : Bool :=
  let e := s.claim (statusKey w)
  !s.dieDown (bits w 29 29) && e.st == .ready && e.handle == h && e.ctx == (s.tile t).ctx.toNat

/-- CPIN (R263). -/
def execCpin (d a b : Reg) (s : State) : Out :=
  claimOp s (.cpin d a b) d [a, b] 2 false (fun s t w h =>
    let e := s.claim (statusKey w)
    if !readyMatches s t w h then (s, 1)
    else if 65535 ≤ e.pins then (s, 2)
    else (s.setClaim (statusKey w) { e with pins := e.pins + 1 }, 0))

/-- CUNPIN (R263). -/
def execCunpin (d a b : Reg) (s : State) : Out :=
  claimOp s (.cunpin d a b) d [a, b] 2 false (fun s t w h =>
    let e := s.claim (statusKey w)
    if !readyMatches s t w h then (s, 1)
    else if e.pins = 0 then (s, 2)
    else (s.setClaim (statusKey w) { e with pins := e.pins - 1 }, 0))

/-! ### Deferred results and leases (R260, R264) -/

/-- The 16-byte result record (R264). -/
def Tile.claimRecord (T : Tile) (c : ClaimSlot) (status handle : Word) : Tile :=
  { T with spad := memPutNat T.spad (c.recd * 16) 16 (handle.toNat * 2 ^ 64 + status.toNat) }

/-- CLAIM_RESULT_DELIVERY (R264): held for a frozen waiter, behind earlier engine commands on the record, and while its
channel is full. -/
def execClaimResultDelivery (id : Nat) (s : State) : Out :=
  match s.txn? id with
  | none => .next s
  | some x =>
    match x.kind with
    | .claimResult j st h =>
      let T := s.tile x.tile
      match (if T.inst = x.inst ∧ T.tidx = x.tidx then T.cslot j else none) with
      | none => .next (s.dropTxn id)
      | some c =>
        let maker := bits st 3 0 == 0
        let after := if maker then some { c with make := true, tkt := BitVec.ofNat 32 (bits st 63 32) } else none
        if T.frozen || T.sbClash [(c.recd * 16, 16)] true then .next (s.post (.claimResultDelivery id))
        else if !(T.chan c.chan).val then
          if maker then
            let s := (s.dropTxn id).modTile x.tile (fun T => T.setCslot j none)
            .next (if (s.claim c.key).mtile = x.tile ∧ (s.claim c.key).tkt.toNat = bits st 63 32 then handOver s c.key else s)
          else .next ((s.dropTxn id).setTile x.tile (((T.claimRecord c st h).warnBit warnPgone).setCslot j none))
        else if 4 ≤ (T.chan c.chan).payloads.length then .next (s.post (.claimResultDelivery id))
        else
          let T := T.claimRecord c st h
          let T := T.setChan c.chan { T.chan c.chan with payloads := (T.chan c.chan).payloads ++ [{ data := st.setWidth 32 }] }
          .next ((s.dropTxn id).setTile x.tile (T.setCslot j after).wake)
    | _ => .next s

/-- The lease of a Making entry has passed (R260). -/
def leasePassed (s : State) (e : Claim) : Bool :=
  e.st == .making && e.lease != 0 && !e.hold && decide (2 ^ e.lease ≤ (bits s.cyc 45 16 + 2 ^ 30 - e.lst.toNat) % 2 ^ 30)

/-- LEASE_EXPIRY (R260, R263): the home takes the entry away from its maker. -/
def execLeaseExpiry (_die key : Nat) (s : State) : Out :=
  let e := s.claim key
  if leasePassed s e then .next (handOver (s.modTile e.mtile (fun T => T.dropMake key)) key) else .next s

end Sys2Proof.Machine
end

