-- ==== Sys2Proof/Machine/Graph.lean ====
section
/-! DEFINITION. Graphs (10, 11, 12, 24): launch packets and template records, the checks of R199, phases and jobs (R156),
materialisation, spill and refill (R162, R193 to R195), decrements (R184, R354, R355), the end of a share (R155, R351),
and cancels (R157). -/

namespace Sys2Proof.Machine

/-! ### Reads at a context's translation -/

/-- A read by the dispatcher. -/
inductive VRead | data (bs : List Byte) | retry | pageFault (va : Nat) | error (va : Nat) | poisoned (va : Nat)
  deriving DecidableEq, Repr

/-- n bytes of a context's global space, read by an agent outside every tile; the failed address is the first line that
fails. -/
def readLines (s : State) (ctx : Nat) : List (Nat × Nat) → List Byte → State × VRead
  | [], acc => (s, .data acc)
  | (va, n) :: rest, acc =>
    match homeAccess s { ctx := ctx, va := va, n := n, r := true, w := false, reads := true, agent := .outside } (fun _ => none) with
    | (s, .data bs) => readLines s ctx rest (acc ++ bs)
    | (s, .bad .retry) => (s, .retry)
    | (s, .bad (.pageFault _)) => (s, .pageFault va)
    | (s, .bad .poisoned) => (s, .poisoned va)
    | (s, .bad _) => (s, .error va)

def readVirt (s : State) (ctx va n : Nat) : State × VRead :=
  let ps := pieces (n / 128 + 2) va n
  readLines (recallAll s ctx ps) ctx ps []

/-! ### Launch packets (R177) -/

structure Packet where
  wdog  : Nat
  phase : Nat
  nren  : Nat
  span  : Bool
  nm1   : Nat
  tva   : Nat
  base  : List Nat
  rsv   : Bool
  deriving DecidableEq, Repr

/-- The packet in 256 bytes; `rsv` when a reserved bit is set. -/
def packetOf (bs : List Byte) : Packet :=
  let h := leNat (bs.take 16)
  { wdog := fld h 127 112, phase := fld h 111 104, nren := fld h 103 99, span := fld h 98 98 == 1, nm1 := fld h 95 85, tva := fld h 55 0,
    base := (List.range 16).map (fun e => leNat ((bs.drop (64 + 8 * e)).take 7)),
    rsv := fld h 97 96 != 0 || fld h 84 56 != 0 || leNat ((bs.drop 16).take 48) != 0 || leNat (bs.drop 192) != 0 }

/-! ### Records (R158, R159) -/

/-- A renamed address (R162). -/
def renamed (p : Packet) (a : Nat) : Nat :=
  if fld a 55 55 = 1 then (p.base.getD (fld a 54 51) 0 + fld a 50 0) % 2 ^ 56 else a

/-- A rename reference beyond the vector. -/
def renameBad (p : Packet) (a : Nat) : Bool := fld a 55 55 == 1 && decide (p.nren ≤ fld a 54 51)

/-- An operand descriptor in 128 bits (R159). -/
def opDescOf (p : Packet) (n : Nat) : OpDesc :=
  let mode := fld n 127 126
  { mode := mode, sen := fld n 125 125 == 1, sl := fld n 124 121, len := fld n 116 105, dst := fld n 104 85,
    va := if mode = 1 ∨ mode = 2 then renamed p (fld n 55 0) else fld n 55 0 }

/-- The successor entries succ0 to succ7. -/
def succOf (n : Nat) : List Nat := (List.range 8).map (fun k => fld n (719 + 16 * k) (704 + 16 * k))

/-- A template record as a fresh record (R162). -/
def recOf (p : Packet) (ctx inst tidx n : Nat) : Rec :=
  { ctx := ctx, inst := inst, tidx := tidx, gang := fld n 994 984, st := .waiting, pri := fld n 971 969, chk := fld n 968 968 == 1,
    kind := fld n 967 966, ev := fld n 965 965 == 1, dep := fld n 959 944, opend := 0, tiles := fld n 931 924, aent := fld n 923 914,
    xent := fld n 913 904, nsx := fld n 895 888, sxva := renamed p (fld n 887 832), succ := succOf n,
    op0 := opDescOf p (fld n 447 320), op1 := opDescOf p (fld n 575 448), op2 := opDescOf p (fld n 703 576),
    seed := BitVec.ofNat 64 (fld n 319 256), arg1 := BitVec.ofNat 64 (fld n 255 192), arg0 := BitVec.ofNat 64 (fld n 191 128),
    slen := fld n 127 120, sva := renamed p (fld n 119 64), cm1 := fld n 63 56, cva := renamed p (fld n 55 0), left := 0, place := [],
    crect := 0, aborts := 0, parkKind := 0, started := 0, joined := 0, spill := none, reserve := false }

/-- The three operand descriptors. -/
def Rec.ops (r : Rec) : List OpDesc := [r.op0, r.op1, r.op2]

/-- Descriptors that make a transfer (modes 1 and 2). -/
def OpDesc.moves (o : OpDesc) : Bool := o.mode == 1 || o.mode == 2

/-- An operand descriptor as 128 bits. -/
def OpDesc.bits (o : OpDesc) : Nat :=
  o.mode * 2 ^ 126 + (if o.sen then 2 ^ 125 else 0) + o.sl * 2 ^ 121 + o.len * 2 ^ 105 + o.dst * 2 ^ 85 + o.va

/-- Codes of R161. -/
def RecSt.code : RecSt → Nat
  | .free => 0
  | .waiting => 1
  | .fetching => 2
  | .runnable => 3
  | .running => 4
  | .done => 5
  | .parked => 6
  | .cancelled => 7

/-- A record as the 128 bytes that its spill slot holds (R193). -/
def Rec.image (r : Rec) : List Byte :=
  leBytes 128 (r.inst * 2 ^ 1006 + r.tidx * 2 ^ 995 + r.gang * 2 ^ 984 + r.st.code * 2 ^ 972 + r.pri * 2 ^ 969 +
    (if r.chk then 2 ^ 968 else 0) + r.kind * 2 ^ 966 + (if r.ev then 2 ^ 965 else 0) + r.dep * 2 ^ 944 + r.opend * 2 ^ 932 +
    r.tiles * 2 ^ 924 + r.aent * 2 ^ 914 + r.xent * 2 ^ 904 + r.nsx * 2 ^ 888 + r.sxva * 2 ^ 832 + packElems 16 r.succ * 2 ^ 704 +
    r.op2.bits * 2 ^ 576 + r.op1.bits * 2 ^ 448 + r.op0.bits * 2 ^ 320 + r.seed.toNat * 2 ^ 256 + r.arg1.toNat * 2 ^ 192 +
    r.arg0.toNat * 2 ^ 128 + r.slen * 2 ^ 120 + r.sva * 2 ^ 64 + r.cm1 * 2 ^ 56 + r.cva)

/-! ### The checks of R199 -/

/-- Reserved bits of a template record, its entries and its descriptors. -/
def templateRsv (n : Nat) : Bool :=
  fld n 1023 1022 != 0 || fld n 964 960 != 0 || fld n 903 896 != 0 || (succOf n).any (fun e => fld e 13 11 != 0) ||
    [fld n 447 320, fld n 575 448, fld n 703 576].any (fun o => fld o 120 117 != 0 || fld o 84 56 != 0)

/-- A rename reference of a record beyond the vector. -/
def templateRename (p : Packet) (n : Nat) : Bool :=
  renameBad p (fld n 55 0) || renameBad p (fld n 119 64) || renameBad p (fld n 887 832) ||
    [fld n 447 320, fld n 575 448, fld n 703 576].any (fun o => (fld o 127 126 == 1 || fld o 127 126 == 2) && renameBad p (fld o 55 0))

/-- Pages of a die that a virtual function owns (R323); in minimal mode page 0 of die 0 alone (R377). -/
def vfPages (s : State) (v d : Nat) : List Nat :=
  let part := (s.vf v).part
  let m := if d = 0 then bits part 107 88 else bits part 127 108
  (List.range 20).filter (fun p => m.testBit p && (!s.mg.min || (d == 0 && p == 0)))

/-- Members of a kind on n pages. -/
def kindTiles (kind n : Nat) : Nat := if kind = 1 then 6 * n else if kind = 2 then 2 * n else 8 * n

/-- R163: tiles = 0 or more than the kind allows. -/
def tilesBad (s : State) (v : Nat) (die : Nat → Nat) (rs : List Rec) : Bool :=
  rs.any (fun r => r.tiles == 0 || decide (kindTiles r.kind (vfPages s v (die r.tidx)).length < r.tiles))

/-- R163: a gang that needs more than one die holds. -/
def gangBad (s : State) (v : Nat) (die : Nat → Nat) (rs : List Rec) : Bool :=
  rs.any (fun r =>
    let g := rs.filter (fun q => q.gang == r.gang)
    let n := (vfPages s v (die r.tidx)).length
    let sum := fun (p : Rec → Bool) => ((g.filter p).map Rec.tiles).sum
    decide (kindTiles 0 n < sum (fun _ => true)) || decide (kindTiles 1 n < sum (fun q => q.kind == 1)) ||
      decide (kindTiles 2 n < sum (fun q => q.kind == 2)))

/-- R159: an operand or a consuming ring that passes the scratchpad's end. -/
def dstBad (r : Rec) : Bool :=
  r.ops.any (fun o => (o.moves || (o.mode == 3 && fld o.va 11 11 == 0)) && decide (0x100000 < o.dst + o.len * 256))

/-- A mode-3 end without its partner, or a producing end with a ring (R199, err 10). -/
def pipeBad (rs : List Rec) (r : Rec) : Bool :=
  r.ops.any (fun o => o.mode == 3 &&
    ((fld o.va 11 11 == 1 && (o.dst != 0 || o.len != 0)) ||
      (match rs.find? (fun q => q.tidx == fld o.va 10 0) with
       | none => true
       | some q => q.gang != r.gang || q.tiles != r.tiles || (q.pipeEnd (fld o.va 15 12) (1 - fld o.va 11 11)).isNone)))

/-- The valid successor entries of a record with those of its extension array. -/
def allSucc (r : Rec) (ext : List Nat) : List Nat := (r.succ ++ ext).filter (fun e => fld e 15 15 == 1)

/-- The die that the entries of a spanning packet give a record (R353); none named: die 0. -/
def dieByEntries (es : List Nat) (j : Nat) : Nat :=
  match es.find? (fun e => fld e 10 0 == j) with
  | some e => fld e 14 14
  | none => 0

/-- Two entries that name one record with different die bits (err 13). -/
def entriesClash (es : List Nat) : Bool := es.any (fun e => es.any (fun f => fld e 10 0 == fld f 10 0 && fld e 14 14 != fld f 14 14))

/-- The first code of R199 that the packet itself raises, in the order of its table. -/
def packetErr (s : State) (v : Nat) (p : Packet) (ts : List Nat) (rs : List Rec) (es : List Nat) (die : Nat → Nat) : Nat :=
  if 16 < p.nren then 1
  else if p.tva % 128 ≠ 0 then 2
  else if p.rsv || ts.any templateRsv then 3
  else if ts.any (templateRename p) then 4
  else if tilesBad s v die rs then 5
  else if gangBad s v die rs then 6
  else if rs.any (fun r => r.kind == 3) then 7
  else if rs.any (fun r => r.nsx != 0 && r.sxva % 2 != 0) then 8
  else if rs.any (fun r => decide ((r.cm1 + 1) * 4 ≤ r.aent) || decide ((r.cm1 + 1) * 4 ≤ r.xent)) then 9
  else if rs.any dstBad then 14
  else if rs.any (pipeBad rs) then 10
  else if p.span && entriesClash es then 13
  else 0

/-! ### Phases and jobs (R156) -/

/-- A phase's state and counter; every phase starts Idle. -/
def Ctx.phase (C : Ctx) (p : Nat) : Nat × Nat := Sparse.get (0, 0) C.phases p
def Ctx.setPhase (C : Ctx) (p : Nat) (v : Nat × Nat) : Ctx := { C with phases := Sparse.set (0, 0) C.phases p v }

/-- A graph may join (R156). -/
def Ctx.joinOk (C : Ctx) (p : Nat) : Bool :=
  C.live && !C.jobDone && ((C.phase p).1 == 1 || ((C.phase p).1 == 0 && !C.ended))

/-- A graph joins with its shares. -/
def phaseEnter (s : State) (c p shares : Nat) : State :=
  let C := s.ctx c
  let C := if (C.phase p).1 = 0 then { C with jobCnt := C.jobCnt + 1 } else C
  s.setCtx c (C.setPhase p (1, (C.phase p).2 + shares))

/-- The job completes once it has been ended and its counter is zero. -/
def Ctx.settle (C : Ctx) : Ctx := { C with jobDone := C.jobDone || (C.ended && C.jobCnt == 0) }

/-- A phase enters Complete: the boundary that the lehr waits for (R367). -/
def phaseComplete (s : State) (c p : Nat) : State :=
  let C := s.ctx c
  let C := if (C.phase p).1 = 1 ∨ (C.phase p).1 = 2 then { C with jobCnt := C.jobCnt - 1 } else C
  let s := s.setCtx c (C.setPhase p (3, (C.phase p).2)).settle
  if s.lehr.st = .armed ∧ c = s.lehr.ctx ∧ p = bits s.lehr.desc 319 312 then { s with lehr := { s.lehr with due := true } }.post .lehrEpochOpen
  else s

/-- One share of a phase has completed. -/
def phaseLeft (s : State) (c p : Nat) : State :=
  let C := s.ctx c
  let (st, n) := C.phase p
  let s := s.setCtx c (C.setPhase p (st, n - 1))
  if st = 2 ∧ n ≤ 1 then phaseComplete s c p else s

/-! ### Messages between the dispatchers (R350) -/

/-- A decrement message. -/
def message (kind err ctx tidx die inst : Nat) : BitVec 128 :=
  BitVec.ofNat 128 (kind * 2 ^ 124 + err * 2 ^ 116 + ctx * 2 ^ 54 + tidx * 2 ^ 43 + die * 2 ^ 42 + inst * 2 ^ 26)

def msgKind (m : BitVec 128) : Nat := bits m 127 124
def msgErr (m : BitVec 128) : Nat := bits m 123 116
def msgCtx (m : BitVec 128) : Nat := bits m 63 54
def msgTidx (m : BitVec 128) : Nat := bits m 53 43
def msgInst (m : BitVec 128) : Nat := bits m 41 26

/-! ### The end of a share (R155) -/

/-- A share whose counter is zero completes once: its graph-table entry and its records go, its phase is told. -/
def shareEnd (s : State) (d inst : Nat) : State :=
  match s.graph? d inst with
  | none => s
  | some g =>
    if g.left ≠ 0 then s
    else
      let s := s.modDie d (fun D => { D with graphs := D.graphs.filter (fun h => h.inst != inst), recs := D.recs.filter (fun r => r.inst != inst),
                                             predec := D.predec.filter (fun e => e.inst != inst) })
      if d = 0 then phaseLeft s g.ctx g.phase
      else s.post (.phaseLeave (message 2 0 g.ctx g.phase 0 inst))

/-- A record of the share is done or cancelled. -/
def graphLess (s : State) (d inst : Nat) : State :=
  shareEnd ((s.modGraph d inst (fun g => { g with left := g.left - 1 })).progress d inst) d inst

/-! ### Decrements (R184, R354, R355) -/

/-- A spilled record's image follows its changes (R193). -/
def ringWrite (s : State) (d : Nat) (r : Rec) : State × Bool :=
  match r.spill with
  | none => (s, true)
  | some k =>
    let v := (s.die d).ovr
    ringPut s (bits v 71 62) (bits v 127 72 + 128 * (k % 2 ^ bits v 61 57)) r.image

/-- A spanning instance that no die has reached, or that die 1 has still to take (R354). -/
def notReached (s : State) (inst : Nat) : Bool :=
  decide (0x8000 ≤ inst) && (s.spanIn.any (fun p => p.inst == inst) || decide (s.spanQ ≤ inst - 0x8000))

/-- What a decrement answers: the status of R200, or a retry when the buffer is full. -/
def applyDecr (s : State) (d : Nat) (m : Decr) : State × Option Nat :=
  let key := fun (e : PreDec) => e.ctx == m.ctx && e.inst == m.inst && e.tidx == m.tidx
  let excess := s.record d { kind := 0x52, ctx := m.ctx, inst := m.inst, tidx := m.tidx, die := d, info := 1 }
  match s.graph? d m.inst with
  | none =>
    if notReached s m.inst then
      if s.spanIn.any (fun p => p.inst == m.inst && p.ctx != m.ctx) then (s, some 5)
      else match (s.die d).predec.find? key with
        | some e => if 65535 ≤ e.cnt then (s, none)
          else (s.modDie d (fun D => { D with predec := D.predec.map (fun e => if key e then { e with cnt := e.cnt + 1 } else e) }), some 2)
        | none => if 1024 ≤ (s.die d).predec.length then (s, none)
          else (s.modDie d (fun D => { D with predec := D.predec ++ [{ ctx := m.ctx, inst := m.inst, tidx := m.tidx, cnt := 1 }] }), some 2)
    else match (if 0x8000 ≤ m.inst then s.graph? (1 - d) m.inst else none) with
      | none => (s, some 3)
      | some g => if g.ctx ≠ m.ctx then (s, some 5) else (excess, some 4)
  | some g =>
    if g.ctx ≠ m.ctx then (s, some 5)
    else
      match s.rec? d m.inst m.tidx with
      | none => (excess, some 4)
      | some r =>
        match r.st with
        | .waiting =>
          if r.dep ≤ 1 then
            let s := s.modRec d m.inst m.tidx (fun r => { r with dep := 0, st := .fetching })
            let s := (ringWrite s d { r with dep := 0, st := .fetching }).1
            ((enqueue s d m.inst m.tidx).post (.placementPass d), some 1)
          else
            let s := s.modRec d m.inst m.tidx (fun r => { r with dep := r.dep - 1 })
            ((ringWrite s d { r with dep := r.dep - 1 }).1.progress d m.inst, some 0)
        | .cancelled => (s, some 3)
        | _ => (excess, some 4)

/-- The DECR that waits for a status receives it (R200). -/
def statusTo (s : State) (m : Decr) (st : Nat) : State :=
  match m.reply with
  | none => s
  | some id => answer s id (.data (BitVec.ofNat 2048 st))

/-- DECREMENT_APPLY (R184). -/
def execDecrementApply (d : Nat) (m : Decr) (s : State) : Out :=
  match applyDecr s d m with
  | (s, some st) => .next (statusTo s m st)
  | (s, none) => .next (s.post (.predecrementRetry d m))

/-- RECORD_DECREMENT (R350, R354): one from the other dispatcher; discarded by a stopped die (R358). -/
def execRecordDecrement (d : Nat) (m : Decr) (s : State) : Out :=
  if s.dieDown d then .next (statusTo s m 3)
  else match applyDecr s d m with
    | (s, some st) => .next (statusTo s m st)
    | (s, none) => .next (s.post (.predecrementRetry d m))

/-- PREDECREMENT_RETRY (R354): resent no sooner than 256 cycles later, a bound on time alone. -/
def execPredecrementRetry (d : Nat) (m : Decr) (s : State) : Out := .next (s.post (.recordDecrement d m))

/-- A decrement sets out for the die that holds the record. -/
def sendDecr (s : State) (src dst : Nat) (m : Decr) : State :=
  if src = dst then s.post (.decrementApply dst m) else s.post (.recordDecrement dst m)

/-! ### Spill (R193 to R195) -/

/-- Records of a die, those that hold a reserve record, those that are spilled. -/
def recordsTotal : Nat := 65536
def reserveTotal : Nat := 64
def Rec.live (r : Rec) : Bool := r.st != .free && r.st != .cancelled
def Die.resident (D : Die) : Nat := (D.recs.filter (fun r => r.live && r.spill.isNone && !r.reserve)).length
def Die.reserved (D : Die) : Nat := (D.recs.filter (fun r => r.live && r.reserve)).length
def Die.spilled (D : Die) : Nat := (D.recs.filter (fun r => r.live && r.spill.isSome)).length
def Die.ringFree (D : Die) : Nat := if bits D.ovr 1 0 = 1 then 2 ^ bits D.ovr 61 57 - D.spilled else 0

/-- n more records can be held. -/
def Die.hasRoom (D : Die) (n : Nat) : Bool :=
  decide (n ≤ (recordsTotal - reserveTotal - D.resident) + D.ringFree +
    (if bits D.ovr 1 0 = 1 then 0 else reserveTotal - D.reserved))

/-- A new record finds its place: ordinary, spilled, or in the reserve when the ring's page is not mapped (R195). -/
def placeRecord (s : State) (d : Nat) (r : Rec) : State × Rec :=
  let D := s.die d
  if D.resident < recordsTotal - reserveTotal then (s, r)
  else if bits D.ovr 1 0 = 1 then
    let r := { r with spill := some D.nspill }
    match ringWrite s d r with
    | (s, true) =>
      let s := s.modDie d (fun D => { D with nspill := D.nspill + 1 })
      (if D.ringFree ≤ 1 then s.record d { kind := 0x5A, ctx := bits D.ovr 71 62 } else s, r)
    | (s, false) =>
      let va := bits D.ovr 127 72 + 128 * (D.nspill % 2 ^ bits D.ovr 61 57)
      let s := s.modDie d (fun D => { D with ovr := setBits D.ovr 1 0 2 })
      (s.record d { va := va, kind := 0x5B, ctx := bits D.ovr 71 62 }, { r with spill := none, reserve := true })
  else (s, { r with reserve := true })

/-- SPILL_REFILL (R193): the oldest spilled record whose dep is zero, else the oldest. -/
def execSpillRefill (d : Nat) (s : State) : Out :=
  let D := s.die d
  if recordsTotal - reserveTotal ≤ D.resident then .next s
  else
    let sp := D.recs.filter (fun r => r.live && r.spill.isSome)
    match (match sp.find? (fun r => r.dep == 0) with | some r => some r | none => sp.head?) with
    | none => .next s
    | some r => .next ((s.modRec d r.inst r.tidx (fun q => { q with spill := none })).post (.placementPass d))

/-! ### Materialisation (R162, R355) -/

/-- One record of a share is materialised; a buffered count is applied (R355). -/
def materialise (s : State) (d : Nat) (r : Rec) : State :=
  let (s, r) := placeRecord s d r
  let c := match (s.die d).predec.find? (fun e => e.ctx == r.ctx && e.inst == r.inst && e.tidx == r.tidx) with
    | some e => e.cnt
    | none => 0
  let s := s.modDie d (fun D => { D with predec := D.predec.filter (fun e => !(e.ctx == r.ctx && e.inst == r.inst && e.tidx == r.tidx)) })
  let s := if r.dep < c then s.record d { kind := 0x52, ctx := r.ctx, inst := r.inst, tidx := r.tidx, die := d, info := c - r.dep } else s
  let dep := r.dep - c
  let s := s.modDie d (fun D => { D with recs := D.recs ++ [{ r with dep := dep, st := if dep = 0 then .fetching else .waiting }] })
  s

/-- Buffered entries of a share that match no record are excess (R184). -/
def predecLeft (s : State) (d inst : Nat) : State :=
  ((s.die d).predec.filter (fun e => e.inst == inst)).foldl (fun s e =>
    (s.modDie d (fun D => { D with predec := D.predec.filter (fun f => f != e) })).record d
      { kind := 0x52, ctx := e.ctx, inst := e.inst, tidx := e.tidx, die := d, info := e.cnt }) s

/-- A share of a graph enters a die with its records, those with dep zero joining their queues in ascending index. -/
def openShare (s : State) (d : Nat) (g : Graph) (rs : List Rec) : State :=
  let s := s.modDie d (fun D => { D with graphs := D.graphs ++ [{ g with left := rs.length, nrec := rs.length, prog := s.cyc }] })
  let s := rs.foldl (fun s r => materialise s d r) s
  let s := rs.foldl (fun s r => match s.rec? d r.inst r.tidx with
    | some q => if q.st == .fetching && !((s.die d).ready.any (fun u => u.inst == q.inst && u.tidx == q.gang)) then enqueue s d r.inst r.tidx else s
    | none => s) s
  (predecLeft s d g.inst).post (.placementPass d)

/-- Whether some record of an instance was spilled. -/
def anySpilled (s : State) (d inst : Nat) : Bool := (s.die d).recs.any (fun r => r.inst == inst && (r.spill.isSome || r.reserve))

/-! ### Instantiation (R162, R198, R199, R352) -/

/-- What an intake answers: refused with a code (and a failed address), a fault of the reads, wait and try again, or an
accepted instance whose result comes at once or later. -/
inductive Intake
  | refused (err va : Nat)
  | fault (page : Bool) (va : Nat)
  | again
  | later
  | done (inst : Nat) (spl : Bool)

/-- The extension arrays of the records of a spanning packet (R353). -/
def readExts (s : State) (ctx : Nat) : List Rec → List Nat → State × Sum (List Nat) VRead
  | [], acc => (s, .inl acc)
  | r :: rs, acc =>
    if r.nsx = 0 then readExts s ctx rs acc
    else match readVirt s ctx r.sxva (2 * r.nsx) with
      | (s, .data bs) => readExts s ctx rs (acc ++ (List.range r.nsx).map (fun k => leNat ((bs.drop (2 * k)).take 2)))
      | (s, e) => (s, .inr e)

/-- The next instance id of a die that no live instance has. -/
def freshInst (D : Die) : Nat → Nat → Nat
  | 0, i => i % 0x8000
  | n + 1, i => if D.graphs.any (fun g => g.inst == i % 0x8000) then freshInst D n (i + 1) else i % 0x8000

/-- A failed read of the dispatcher as an intake's answer. -/
def readFail : VRead → Intake
  | .retry => .again
  | .pageFault va => .fault true va
  | .error va => .fault false va
  | .poisoned va => .fault false va
  | .data _ => .again

/-- The packet's records as a template for an instance. -/
def recsOf (p : Packet) (ctx inst : Nat) (bs : List Byte) : List Nat × List Rec :=
  let ts := (List.range (p.nm1 + 1)).map (fun j => leNat ((bs.drop (128 * j)).take 128))
  (ts, mapFrom (fun j n => recOf p ctx inst j n) 0 ts)

/-- A packet read and checked by a die's intake. -/
def intakeCheck (s : State) (d ctx : Nat) (bytes : List Byte) (reply : Option Nat) (src : Option (Nat × Nat)) : State × Intake :=
  let p := packetOf bytes
  if 16 < p.nren then (s, .refused 1 0)
  else if p.tva % 128 ≠ 0 then (s, .refused 2 0)
  else if p.rsv then (s, .refused 3 0)
  else match readVirt s ctx p.tva (128 * (p.nm1 + 1)) with
    | (s, .data bs) =>
      let home := if p.span then 0 else d
      let v := (s.ctx ctx).vf
      let inst := if p.span then 0x8000 + s.spanQ % 0x8000 else freshInst (s.die d) 0x8000 (s.die d).nextInst
      let (ts, rs) := recsOf p ctx inst bs
      let pre := packetErr s v p ts rs [] (fun _ => home)
      match (if p.span && pre == 0 then readExts s ctx rs [] else (s, .inl [])) with
      | (s, .inr e) => (s, readFail e)
      | (s, .inl ext) =>
        let es := (rs.flatMap (fun r => allSucc r [])) ++ ext.filter (fun e => fld e 15 15 == 1)
        let die := fun j => if p.span then dieByEntries es j else d
        let err := packetErr s v p ts rs es die
        let mine := rs.filter (fun r => die r.tidx == home)
        let others := rs.filter (fun r => die r.tidx != home)
        let live := fun (k : Nat) => (s.die k).graphs.any (fun g => g.inst == inst)
        let full := decide (Config.graphEntries ≤ (s.die home).graphs.length)
        let g : Graph :=
          { ctx := ctx, inst := inst, phase := p.phase, wdog := p.wdog, left := 0, nrec := 0, span := p.span, gate := .opened,
            reply := none, src := src, spl := false, prog := s.cyc }
        if err ≠ 0 then (s, .refused err 0)
        else if p.span && (live 0 || live 1 || s.spanIn.any (fun q => q.inst == inst) || (full && !mine.isEmpty)) then (s, .again)
        else if !p.span && full then (s, .refused 11 0)
        else if !(s.die home).hasRoom mine.length then (s, .again)
        else if (home = 0 ∨ p.span) && !(s.ctx ctx).joinOk p.phase then (s, .refused 12 0)
        else if p.span then
          let s := { s with spanQ := s.spanQ + 1 }
          let s := phaseEnter s ctx p.phase ((if mine.isEmpty then 0 else 1) + (if others.isEmpty then 0 else 1))
          let s := if mine.isEmpty then predecLeft s 0 inst else openShare s 0 g mine
          let spl := anySpilled s 0 inst
          if others.isEmpty then (predecLeft s 1 inst, .done inst spl)
          else
            let q : SpanPkt := { q := s.spanQ - 1, ctx := ctx, inst := inst, bytes := bytes, reply := reply, spl := spl }
            ({ s with spanIn := s.spanIn ++ [q] }.post (.spanPacketForward q.q), .later)
        else
          let s := s.modDie d (fun D => { D with nextInst := inst + 1 })
          if d = 0 then
            let s := openShare (phaseEnter s ctx p.phase 1) 0 g mine
            (s, .done inst (anySpilled s 0 inst))
          else
            let s := openShare s 1 { g with gate := .waiting, reply := reply } mine
            (s.post (.phaseJoin (message 1 0 ctx 0 0 inst)), .later)
    | (s, e) => (s, readFail e)

/-- The buffered decrements of an instance go with no effect (R355). -/
def predecDrop (s : State) (d inst : Nat) : State := s.modDie d (fun D => { D with predec := D.predec.filter (fun e => e.inst != inst) })

/-- A packet taken by a die's intake for a context: from INST (`reply`) or from a launch queue (`src`). A spanning packet that
is refused has used its sequence number (R352), and the decrements held for its instance go (R355). -/
def intake (s : State) (d ctx : Nat) (bytes : List Byte) (reply : Option Nat) (src : Option (Nat × Nat)) : State × Intake :=
  let used := fun (s : State) => if (packetOf bytes).span then
      let inst := 0x8000 + s.spanQ % 0x8000
      predecDrop (predecDrop { s with spanQ := s.spanQ + 1 } 0 inst) 1 inst
    else s
  match intakeCheck s d ctx bytes reply src with
  | (s, .refused err va) => (used s, .refused err va)
  | (s, .fault page va) => (used s, .fault page va)
  | r => r

/-- The result word of INST (R198). -/
def instResult (err inst : Nat) (spl : Bool) : Word := BitVec.ofNat 64 (err * 2 ^ 24 + (if spl then 2 ^ 16 else 0) + inst)

/-- INST (R198): its reads of the packet stand behind earlier engine commands (R149); it releases at pod scope. -/
def execInstantiate (d a : Reg) (s : State) : Out :=
  issue s { instr := .instantiate d a, onX := false, rs := [a], ws := [d], hpri := true } (fun s I =>
    let x := (I.s 0).toNat
    let t := s.focus.1
    if spadEnd < x + 256 then .trap 0x07 (I.s 0)
    else if x % 16 ≠ 0 then .trap 0x08 (I.s 0)
    else if s.cur.sbClash [(x, 256)] false then .wait
    else if !canRelease s t then .waitAfter (fun s => sendHomeIf s t (fun _ => true))
    else
      let s := releaseAt s t 5
      let (id, s) := s.fresh
      let bytes := memBytes s.cur.spad x 256
      let (ds, T) := s.cur.reserveS s.focus.2 d id
      let wait := { s.setTile t T with txns := s.txns ++ [{ newTxn s I .reply 0 0 5 0 with id := id, dest := ds }] }
      match intake wait (dieOf t) s.cur.ctx.toNat bytes (some id) none with
      | (_, .again) => .wait
      | (s, .refused err _) => .done (answer s id (.data ((instResult err 0 false).setWidth 2048)))
      | (s, .fault true va) => .done (answer s id (.pageFault va))
      | (s, .fault false va) => .done (answer (s.modTxn id (fun x => { x with tval := BitVec.ofNat 64 va })) id (.error 0x20))
      | (s, .later) => .done s
      | (s, .done inst spl) => .done (answer s id (.data ((instResult 0 inst spl).setWidth 2048))))

/-- DECR (R200): one released decrement. -/
def execDecr (d a : Reg) (s : State) : Out :=
  issue s { instr := .decr d a, onX := false, rs := [a], ws := [d], hpri := true } (fun s I =>
    let w := I.s 0
    let t := s.focus.1
    if bits w 63 28 ≠ 0 then .trap 0x0C w
    else if !canRelease s t then .waitAfter (fun s => sendHomeIf s t (fun _ => true))
    else
      let s := releaseAt s t 5
      let (id, s) := s.fresh
      let (ds, T) := s.cur.reserveS s.focus.2 d id
      let s := { s.setTile t T with txns := s.txns ++ [{ newTxn s I .reply 0 0 5 w with id := id, dest := ds }] }
      .done (sendDecr s (dieOf t) (bits w 27 27) { ctx := s.cur.ctx.toNat, inst := bits w 15 0, tidx := bits w 26 16, reply := some id }))

/-! ### Two dies (R350 to R353) -/

/-- Refuses a share of die 1: its records, buffered decrements and its entry go. -/
def dropShare (s : State) (d inst : Nat) : State :=
  let s := ((s.die d).recs.filter (fun r => r.inst == inst)).foldl (fun s r => unplace s d r) s
  s.modDie d (fun D => { D with graphs := D.graphs.filter (fun g => g.inst != inst), recs := D.recs.filter (fun r => r.inst != inst),
                                predec := D.predec.filter (fun e => e.inst != inst) })

/-- PHASE_JOIN (R351): die 0 makes the check of R156 for a graph of die 1 alone; for a spanning graph it answers the result
it has already reached. The phase's number is that of die 1's graph-table entry (log 22). -/
def execPhaseJoin (m : BitVec 128) (s : State) : Out :=
  let inst := msgInst m
  let c := msgCtx m
  match s.graph? 1 inst with
  | none => .next s
  | some g =>
    if g.span then .next (s.post (.gateOpen (message 3 0 c 0 1 inst)))
    else if (s.ctx c).joinOk g.phase then .next ((phaseEnter s c g.phase 1).post (.gateOpen (message 3 0 c 0 1 inst)))
    else .next (s.post (.gateRefuse (message 4 12 c 0 1 inst)))

/-- PHASE_LEAVE (R351). -/
def execPhaseLeave (m : BitVec 128) (s : State) : Out := .next (phaseLeft s (msgCtx m) (msgTidx m))

/-- The INST whose result waited for the gate receives it. -/
def gateReply (s : State) (g : Graph) (w : Word) : State :=
  match g.reply with
  | none => s
  | some id => answer s id (.data (w.setWidth 2048))

/-- GATE_OPEN (R351). -/
def execGateOpen (m : BitVec 128) (s : State) : Out :=
  match s.graph? 1 (msgInst m) with
  | none => .next s
  | some g =>
    let s := s.modGraph 1 g.inst (fun g => { g with gate := .opened, reply := none })
    .next ((gateReply s g (instResult 0 g.inst (anySpilled s 1 g.inst))).post (.placementPass 1))

/-- GATE_REFUSE (R351): the records go; a packet of a launch queue is reported (R178). -/
def execGateRefuse (m : BitVec 128) (s : State) : Out :=
  match s.graph? 1 (msgInst m) with
  | none => .next s
  | some g =>
    let s := gateReply (dropShare s 1 g.inst) g (instResult (msgErr m) 0 false)
    match g.src with
    | none => .next s
    | some (q, k) => .next (s.record 1 { kind := 0x51, ctx := g.ctx, info := msgErr m * 2 ^ 24 + k * 2 ^ 8 + q })

/-- RESERVED_KIND_MESSAGE (R350): discarded and reported. -/
def execReservedKindMessage (d : Nat) (m : BitVec 128) (s : State) : Out := .next (s.record d { kind := 0x56, info := msgKind m })

/-! ### Cancels (R157, R201) -/

/-- One record is cancelled: its strands stop, its counter counts it as finished; a finished one stays as it is. -/
def cancelRec (s : State) (d inst tidx : Nat) : State :=
  match s.rec? d inst tidx with
  | none => s
  | some r =>
    if r.st == .free || r.st == .cancelled || r.st == .done then s
    else graphLess ((unplace s d r).modRec d inst tidx (fun q => { q with st := .cancelled, place := [], spill := none })) d inst

/-- Every record of a share is cancelled. -/
def cancelShare (s : State) (d inst : Nat) : State :=
  match s.graph? d inst with
  | none => s
  | some g =>
    let rs := (s.die d).recs.filter (fun r => r.inst == inst)
    let s := rs.foldl (fun s r => cancelRec s d inst r.tidx) s
    if g.gate = .waiting then s else s.post (.placementPass d)

/-- A share that die 1 has still to take goes: its phase counts one share less, its buffered decrements go, and an INST that
waits for it is answered. -/
def dropSpan (s : State) (p : SpanPkt) : State :=
  let s := phaseLeft (s.modDie 1 (fun D => { D with predec := D.predec.filter (fun e => e.inst != p.inst) })) p.ctx (packetOf p.bytes).phase
  match p.reply with
  | none => s
  | some id => answer s id (.data ((instResult 0 p.inst p.spl).setWidth 2048))

/-- The packets that die 1 has still to take and a cancel names go. -/
def dropSpans (s : State) (f : SpanPkt → Bool) : State :=
  (s.spanIn.filter f).foldl dropSpan { s with spanIn := s.spanIn.filter (fun p => !f p) }

/-- A graph is cancelled, on both dies when it spans them; a share that die 1 has still to take goes with it. -/
def cancelGraph (s : State) (d inst : Nat) : State :=
  if 0x8000 ≤ inst then dropSpans (cancelShare (cancelShare s 0 inst) 1 inst) (fun p => p.inst == inst)
  else cancelShare s d inst

/-- Graphs of a context (and phase) on both dies. -/
def graphsOf (s : State) (p : Graph → Bool) : List (Nat × Nat) :=
  (s.die0.graphs.filter p).map (fun g => (0, g.inst)) ++ (s.die1.graphs.filter p).map (fun g => (1, g.inst))

/-- A phase is cancelled: every graph of it; it completes if it was open. -/
def cancelPhase (s : State) (c p : Nat) : State :=
  let s := (graphsOf s (fun g => g.ctx == c && g.phase == p)).foldl (fun s x => cancelGraph s x.1 x.2) s
  let s := dropSpans s (fun q => q.ctx == c && (packetOf q.bytes).phase == p)
  if ((s.ctx c).phase p).1 = 1 ∨ ((s.ctx c).phase p).1 = 2 then phaseComplete s c p else s

/-- The job is cancelled (R156): every graph, then every open phase and the job complete. -/
def cancelJob (s : State) (c : Nat) : State :=
  let s := (graphsOf s (fun g => g.ctx == c)).foldl (fun s x => cancelGraph s x.1 x.2) s
  let s := dropSpans s (fun q => q.ctx == c)
  let s := ((s.ctx c).phases.filter (fun p => p.2.1 == 1 || p.2.1 == 2)).foldl (fun s p => phaseComplete s c p.1) s
  s.setCtx c { s.ctx c with jobDone := true, cancelled := true }

/-- A cancel whose answer is written unless the issuing strand was in the unit (R201). -/
def gcancel (s : State) (i : Instr) (d : Reg) (rs : List Reg) (bad : Word → Bool) (act : State → Word → State × Nat) : Out :=
  issue s { instr := i, onX := false, rs := rs, ws := [d], hpri := true } (fun s I =>
    let w := I.s 0
    if bad w then .trap 0x0C w
    else
      let (s, r) := act s w
      .done (s.modTile s.focus.1 (fun T => if T.phase == .running then T.putS s.focus.2 d (extZ r) else T)))

/-- GCANCEL.JOB (R201). -/
def execGcancelJob (d : Reg) (s : State) : Out :=
  gcancel s (.gcancelJob d) d [] (fun _ => false) (fun s _ =>
    let c := s.cur.ctx.toNat
    if (s.ctx c).jobDone then (s, 1) else (cancelJob s c, 0))

/-- GCANCEL.PHASE (R201). -/
def execGcancelPhase (d a : Reg) (s : State) : Out :=
  gcancel s (.gcancelPhase d a) d [a] (fun w => bits w 63 8 != 0) (fun s w =>
    let c := s.cur.ctx.toNat
    let p := bits w 7 0
    if ((s.ctx c).phase p).1 = 1 ∨ ((s.ctx c).phase p).1 = 2 then (cancelPhase s c p, 0) else (s, 1))

/-- GCANCEL.GRAPH (R201). -/
def execGcancelGraph (d a : Reg) (s : State) : Out :=
  gcancel s (.gcancelGraph d a) d [a] (fun w => bits w 63 28 != 0 || bits w 26 16 != 0) (fun s w =>
    let inst := bits w 15 0
    let g := match s.graph? (bits w 27 27) inst with
      | some g => some g
      | none => if 0x8000 ≤ inst then s.graph? (1 - bits w 27 27) inst else none
    match g with
    | none => (s, 1)
    | some g => if g.ctx ≠ s.cur.ctx.toNat then (s, 2) else (cancelGraph s (bits w 27 27) inst, 0))

/-- GCANCEL.TASK (R201). -/
def execGcancelTask (d a : Reg) (s : State) : Out :=
  gcancel s (.gcancelTask d a) d [a] (fun w => bits w 63 28 != 0) (fun s w =>
    match s.rec? (bits w 27 27) (bits w 15 0) (bits w 26 16) with
    | none => (s, 1)
    | some r =>
      if r.ctx ≠ s.cur.ctx.toNat then (s, 2)
      else if r.st == .free || r.st == .cancelled || r.st == .done then (s, 1)
      else (cancelRec s (bits w 27 27) r.inst r.tidx, 0))

/-- SPAN_PACKET_FORWARD (R352): die 1 takes the packet with its sequence number and materialises its share; with die 1
stopped the graph is cancelled with a fault record (R358). -/
def execSpanPacketForward (q : Nat) (s : State) : Out :=
  match s.spanIn.find? (fun p => p.q == q) with
  | none => .next s
  | some k =>
    let p := packetOf k.bytes
    let reply := fun (s : State) (spl : Bool) => match k.reply with
      | none => s
      | some id => answer s id (.data ((instResult 0 k.inst spl).setWidth 2048))
    let gone := fun (s : State) => dropSpans (cancelGraph s 0 k.inst) (fun o => o.q == q)
    if s.dieDown 1 then
      .next ((gone s).record 0 { kind := 0x47, ctx := k.ctx, inst := k.inst, cls := 4 })
    else if s.spanIn.any (fun o => o.q < q) || Config.graphEntries ≤ s.die1.graphs.length then .next (s.post (.spanPacketForward q))
    else match readVirt s k.ctx p.tva (128 * (p.nm1 + 1)) with
      | (s, .data bs) =>
        let (_, rs) := recsOf p k.ctx k.inst bs
        match readExts s k.ctx rs [] with
        | (s, .inl ext) =>
          let es := (rs.flatMap (fun r => allSucc r [])) ++ ext.filter (fun e => fld e 15 15 == 1)
          let mine := rs.filter (fun r => dieByEntries es r.tidx == 1)
          if !s.die1.hasRoom mine.length then .next (s.post (.spanPacketForward q))
          else
            let g : Graph :=
              { ctx := k.ctx, inst := k.inst, phase := p.phase, wdog := p.wdog, left := 0, nrec := 0, span := true, gate := .waiting,
                reply := none, src := none, spl := false, prog := s.cyc }
            let s := openShare { s with spanIn := s.spanIn.filter (fun o => o.q != q) } 1 g mine
            .next ((reply s (k.spl || anySpilled s 1 k.inst)).post (.phaseJoin (message 1 0 k.ctx 0 0 k.inst)))
        | (s, .inr .retry) => .next (s.post (.spanPacketForward q))
        | (s, .inr _) => .next (gone s)
      | (s, .retry) => .next (s.post (.spanPacketForward q))
      | (s, _) => .next (gone s)

end Sys2Proof.Machine
end

