-- ==== Sys2Proof/Machine/Marver.lean ====
section
/-! DEFINITION. Marver slots (14/R229 to R232, 18/R291 to R296): slot images and their checks, the graph as a function of a
granule, SOPEN, SCLOSE and SCFG. -/

namespace Sys2Proof.Machine

/-! ### Slot images (R293) -/

/-- A slot image: 448 bytes. -/
abbrev SlotImage := BitVec 3584

def SlotImage.rs1 (m : SlotImage) : Nat := bits m 116 104
def SlotImage.rs0 (m : SlotImage) : Nat := bits m 103 91
def SlotImage.rn1 (m : SlotImage) : Nat := bits m 90 78
def SlotImage.rn0 (m : SlotImage) : Nat := bits m 77 65
def SlotImage.icode (m : SlotImage) : Nat := bits m 63 59
def SlotImage.scode (m : SlotImage) : Nat := bits m 58 54
def SlotImage.side (m : SlotImage) : Nat := bits m 53 46
def SlotImage.main (m : SlotImage) : Nat := bits m 45 30
def SlotImage.ocode (m : SlotImage) : Nat := bits m 29 25
def SlotImage.ren (m : SlotImage) : Bool := m.getLsbD 24
def SlotImage.write (m : SlotImage) : Bool := m.getLsbD 23

/-- Field [hi:lo] of PE p's word. -/
def SlotImage.pe (m : SlotImage) (p hi lo : Nat) : Nat := bits m (512 + 128 * p + hi) (512 + 128 * p + lo)
def SlotImage.op (m : SlotImage) (p : Nat) : Nat := pe m p 127 124
def SlotImage.in0 (m : SlotImage) (p : Nat) : Nat := pe m p 123 119
def SlotImage.in1 (m : SlotImage) (p : Nat) : Nat := pe m p 118 114
def SlotImage.fcode (m : SlotImage) (p : Nat) : Nat := pe m p 113 109
def SlotImage.gcode (m : SlotImage) (p : Nat) : Nat := pe m p 108 104
def SlotImage.rule (m : SlotImage) (p : Nat) : Bool := pe m p 103 103 == 1
def SlotImage.rm1 (m : SlotImage) (p : Nat) : Nat := pe m p 102 97
def SlotImage.out (m : SlotImage) (p : Nat) : Bool := pe m p 96 96 == 1
def SlotImage.const (m : SlotImage) (p : Nat) : Nat := pe m p 31 0

/-- Widths of a main input, a side input and an output element. -/
def SlotImage.wi (m : SlotImage) : Nat := if icode m = 31 then 0 else (ckind (icode m)).width
def SlotImage.ws (m : SlotImage) : Nat := if scode m = 31 then 0 else (ckind (scode m)).width
def SlotImage.wo (m : SlotImage) : Nat := (ckind (ocode m)).width

/-- Bits of a frame (R295). -/
def SlotImage.frameBits (m : SlotImage) : Nat := side m * ws m + main m * wi m

/-- Frames per granule of 32,768 bits (R295). -/
def SlotImage.frames (m : SlotImage) : Nat := if write m then 32768 / (main m * wo m) else 32768 / frameBits m

/-- Tile-side bytes per granule (R295). -/
def SlotImage.gBytes (m : SlotImage) : Nat :=
  if write m then (if icode m = 31 then 0 else frames m * frameBits m / 8) else frames m * main m * wo m / 8

/-! ### Checks (R231, R232, R295) -/

/-- Element codes that fit a 32-bit container. -/
def slotCode (c : Nat) : Bool := decide (c ≤ 13) || c == 16 || c == 17 || c == 20

/-- Operations that take no input, one input, two inputs. -/
def opInputs (o : Nat) : Nat := if o = 0 ∨ o = 13 then 0 else if o = 1 ∨ o = 2 then 1 else 2

/-- The PE reaches PE q against the edges within n steps. -/
def peReaches (m : SlotImage) (q : Nat) : Nat → Nat → Bool
  | 0, _ => false
  | n + 1, p =>
    let ins := [m.in0 p, m.in1 p].take (opInputs (m.op p))
    ins.any (fun i => decide (i < 24) && (i == q || peReaches m q n i))

/-- A PE breaks R295: a reserved value (in the word of an unused PE too), a cycle, an input that names an unused PE or a port that is not there. -/
def peFaulty (m : SlotImage) (p : Nat) : Bool :=
  let o := m.op p
  let ins := [m.in0 p, m.in1 p].take (opInputs o)
  let unassigned := fun (i : Nat) => decide (25 < i) && decide (i < 31)
  decide (13 < o) || m.pe p 95 32 != 0 || unassigned (m.in0 p) || unassigned (m.in1 p) ||
    o != 0 &&
    ((decide (2 ≤ o) && decide (o ≤ 7) && !(decide (m.fcode p ≤ 2) || m.fcode p == 16)) || (o == 2 && !slotCode (m.gcode p)) ||
      ins.any (fun i => decide (25 < i) || (decide (i < 24) && m.op i == 0) || (i == 24 && m.icode == 31) ||
        (i == 25 && (m.side == 0 || m.scode == 31))) ||
      (o == 13 && m.rm1 p != 0) || peReaches m p 24 p)

/-- The reorder element breaks R232. -/
def reorderBad (m : SlotImage) : Bool :=
  let n0 := m.rn0
  let n1 := m.rn1
  let bytes := n0 * n1 * m.wo / 8
  let pos := (List.range (n0 * n1)).map (fun k => k % n0 * m.rs0 + k / n0 * m.rs1)
  n0 == 0 || n1 == 0 || decide (4096 < n0) || decide (4096 < n1) || n0 * n1 * m.wo % 8 != 0 || bytes == 0 || decide (65536 < bytes) ||
    4096 % bytes != 0 || !(List.range (n0 * n1)).all (fun k => pos.contains k)

/-- The header breaks R295. -/
def headerFaulty (m : SlotImage) : Bool :=
  bits m 511 117 != 0 || bits m 64 64 != 0 || bits m 22 0 != 0 || !(slotCode m.icode || m.icode == 31) ||
    !(slotCode m.scode || m.scode == 31) || !slotCode m.ocode || m.main == 0 || m.frameBits % 8 != 0 ||
    ((List.range 24).filter (fun p => m.op p != 0 && m.out p)).length != 1 || (!m.write && m.icode == 31) ||
    (m.write && m.icode != 31 && 32768 % (m.main * m.wo) != 0) || (m.ren && reorderBad m)

/-- The item of a refusal (R296): the first faulty PE, 0xFF for the header, none for a good image. -/
def slotFault (m : SlotImage) : Option Nat :=
  match (List.range 24).find? (peFaulty m) with
  | some p => some p
  | none => if headerFaulty m then some 0xFF else none

/-! ### The graph (R294) -/

/-- A container as a value of an operating format. -/
def peVal (f x : Nat) : FVal := ((ckind f).decode (x % 2 ^ (ckind f).width)).1

/-- Output of PE p for element e: containers of its inputs are x and y. -/
def peOut (m : SlotImage) (mode : Nat) (seed : Word) (e p x y : Nat) : Nat :=
  let f := m.fcode p
  let r : Rnd := { mode := mode, seed := if mode = 5 then mix (seed + BitVec.ofNat 64 p) else 0, i := e }
  let fl := fun (g : FFormat → Nat) (i : Nat) => match ckind f with | .float k => g k | _ => i
  let w := (ckind f).width
  let a := x % 2 ^ w
  let b := y % 2 ^ w
  (match m.op p with
   | 1 => x
   | 2 => (convert (ckind (m.gcode p)) (ckind f) r (m.rule p) a).1
   | 3 => if y % 256 = 255 then ((ckind f).encode r (m.rule p) .nan).1
          else ((ckind f).encode r (m.rule p) ((peVal f x).mul (.fin false 1 1 ((y % 256 : Nat) - 127 : Int)))).1
   | 4 => fl (fun k => fAdd k r a b) (aluAdd 32 a b)
   | 5 => fl (fun k => fMul k r a b) (aluMul 32 a b)
   | 6 => fl (fun k => fMin k a b) (aluMin 32 a b)
   | 7 => fl (fun k => fMax k a b) (aluMax 32 a b)
   | 8 => x &&& y
   | 9 => x ||| y
   | 10 => x ^^^ y
   | 11 => x * 2 ^ (y % 32)
   | 12 => x / 2 ^ (y % 32)
   | 13 => m.const p
   | _ => 0) % 2 ^ 32

/-- One round over the 24 PEs with the main and side containers. -/
def peRound (m : SlotImage) (mode : Nat) (seed : Word) (e mn sd : Nat) (vals : List Nat) : List Nat :=
  let inp := fun (i : Nat) => if i = 24 then mn else if i = 25 then sd else vals.getD i 0
  (List.range 24).map (fun p => peOut m mode seed e p (inp (m.in0 p)) (inp (m.in1 p)))

/-- An acyclic graph settles within 24 rounds. -/
def peSettle (m : SlotImage) (mode : Nat) (seed : Word) (e mn sd : Nat) : Nat → List Nat → List Nat
  | 0, vals => vals
  | n + 1, vals => peSettle m mode seed e mn sd n (peRound m mode seed e mn sd vals)

/-- The output element for one main element with its side element. -/
def slotElem (m : SlotImage) (mode : Nat) (seed : Word) (e mn sd : Nat) : Nat :=
  let vals := peSettle m mode seed e mn sd 24 []
  match (List.range 24).find? (fun p => m.op p != 0 && m.out p) with
  | some p => vals.getD p 0 % 2 ^ m.wo
  | none => 0

/-- Outputs of the whole frames in a bit string, element numbers from e on; the held side element is the last of the
frame's (log 24). -/
def slotFrames (m : SlotImage) (mode : Nat) (seed : Word) (x : Nat) : Nat → Nat → List Nat
  | 0, _ => []
  | n + 1, e =>
    let sd := if m.side = 0 then 0 else x / 2 ^ ((m.side - 1) * m.ws) % 2 ^ m.ws
    let mains := x / 2 ^ (m.side * m.ws)
    (List.range m.main).map (fun j => slotElem m mode seed (e + j) (mains / 2 ^ (j * m.wi) % 2 ^ m.wi) sd) ++
      slotFrames m mode seed (x / 2 ^ m.frameBits) n (e + m.main)

/-- The reorder element on a granule's outputs, block by block (R232); absent elements are zero. -/
def reorderBlocks (m : SlotImage) : Nat → List Nat → List Nat × Bool
  | 0, _ => ([], false)
  | n + 1, l =>
    if l.isEmpty then ([], false)
    else
      let nb := m.rn0 * m.rn1
      let blk := l.take nb
      let out := (List.range nb).map (fun pos =>
        match (List.range nb).find? (fun k => k % m.rn0 * m.rs0 + k / m.rn0 * m.rs1 == pos) with
        | some k => blk.getD k 0
        | none => 0)
      let (rest, sh) := reorderBlocks m n (l.drop nb)
      (out ++ rest, sh || decide (blk.length < nb))

/-- A granule through the slot's graph: its output bytes, and whether a block was short. A read stream's input is the
granule's bytes, a write stream's the tile's. The k-th granule's elements are numbered on (R276). -/
def slotGranule (m : SlotImage) (mode : Nat) (seed : Word) (k : Nat) (bytes : List Byte) : List Byte × Bool :=
  let nf := if m.write then m.frames else min m.frames (8 * bytes.length / m.frameBits)
  let elems := if m.write && m.icode == 31 then
      (List.range (32768 / m.wo)).map (fun j => slotElem m mode seed (k * (32768 / m.wo) + j) 0 0)
    else slotFrames m mode seed (leNat bytes) nf (k * m.frames * m.main)
  let (elems, short) := if m.ren then reorderBlocks m elems.length elems else (elems, false)
  let n := if m.write then 4096 else nf * m.main * m.wo / 8
  (leBytes n (packElems m.wo elems), short)

/-! ### The slot table (R292, R296) -/

def State.mslot (s : State) (k : Nat) : MSlot := Sparse.get MSlot.reset s.mslots k
def State.setMslot (s : State) (k : Nat) (m : MSlot) : State := { s with mslots := Sparse.set MSlot.reset s.mslots k m }

def Tile.handle (T : Tile) (h : Nat) : Option Handle := if p : h < 8 then T.handles[h] else none
def Tile.setHandle (T : Tile) (h : Nat) (x : Option Handle) : Tile := { T with handles := T.handles.setIfInBounds h x }

/-- A stream holds the slot open: a handle of some tile, or a transfer that has not completed. -/
def slotOpen (s : State) (k : Nat) : Bool :=
  s.tiles.any (fun p => p.2.handles.toList.any (fun h => match h with | some h => h.slot == k | none => false)) ||
    s.txns.any (fun x => match x.kind with | .copy _ _ _ _ (some j) => j == k | _ => false)

/-- The status word of SOPEN and SCFG (R296). -/
def slotStatus (code item g : Nat) : Word := BitVec.ofNat 64 (g * 2 ^ 32 + item * 2 ^ 8 + code)

/-- Range and alignment of an address in the scratchpad (R286). -/
def spadCause (x n align : Nat) : Option Nat :=
  if spadEnd < x + n then some 0x07 else if x % align ≠ 0 then some 0x08 else none

/-- SOPEN (R296). -/
def execSopen (d a : Reg) (s : State) : Out :=
  issue s { instr := .sopen d a, onX := false, rs := [a], ws := [d] } (fun s I =>
    let w := I.s 0
    let t := s.focus.1
    let h := bits w 2 0
    let k := bits w 7 4
    let m := s.mslot k
    if bits w 63 8 ≠ 0 then .trap 0x0F w
    else
      let code := if (s.cur.handle h).isSome then 1
        else if !m.loaded then 2
        else match m.owner with
          | .ctx c => if c ≠ s.cur.ctx.toNat then 3 else if SlotImage.write m.image != w.getLsbD 3 then 4 else 0
          | _ => if SlotImage.write m.image != w.getLsbD 3 then 4 else 0
      let g := if code = 0 then SlotImage.gBytes m.image else 0
      .done (s.modTile t (fun T =>
        (if code = 0 then T.setHandle h (some { slot := k, write := w.getLsbD 3 }) else T).putS s.focus.2 d (slotStatus code 0 g))))

/-- SCLOSE (R296): reserved bits of the handle register raise the engine-operand cause. -/
def execSclose (a : Reg) (s : State) : Out :=
  issue s { instr := .sclose a, onX := false, rs := [a] } (fun s I =>
    let w := I.s 0
    if bits w 63 3 ≠ 0 then .trap 0x0F w else .done (s.modTile s.focus.1 (fun T => T.setHandle (bits w 2 0) none)))

/-- The slot table's answer to SCFG. -/
def scfgAt (s : State) (c k : Nat) (image : Option SlotImage) : State × Word :=
  let m := s.mslot k
  let foreign := match m.owner with | .free => false | .ctx o => o != c | .everyone => true
  if foreign then (s, slotStatus 1 0 0)
  else if slotOpen s k then (s, slotStatus 2 0 0)
  else match image with
    | none => (s.setMslot k MSlot.reset, slotStatus 0 0 0)
    | some i =>
      match slotFault i with
      | some item => (s, slotStatus 3 item 0)
      | none => (s.setMslot k { owner := .ctx c, image := i, loaded := true }, slotStatus 0 0 (SlotImage.gBytes i))

/-- Whether the slot word releases: then a is not read (R292). -/
def scfgReleases (s : State) (b : Reg) : Bool := ((s.cur.takeS s.focus.2 b).1).getLsbD 4

/-- SCFG (R292). -/
def execScfg (d a b : Reg) (s : State) : Out :=
  let rel := scfgReleases s b
  issue s { instr := .scfg d a b, onX := false, rs := if rel then [b] else [a, b], ws := [d] } (fun s I =>
    let w := if rel then I.s 0 else I.s 1
    let x := (I.s 0).toNat
    let t := s.focus.1
    let fin := fun (i : Option SlotImage) =>
      let (s, st) := scfgAt s s.cur.ctx.toNat (bits w 3 0) i
      Verdict.done (s.modTile t (fun T => T.putS s.focus.2 d st))
    if bits w 63 5 ≠ 0 then .trap 0x0F w
    else if rel then fin none
    else match spadCause x 448 64 with
      | some c => .trap c (I.s 0)
      | none => if s.cur.sbClash [(x, 448)] false then .wait else fin (some (BitVec.ofNat 3584 (memNat s.cur.spad x 448))))

end Sys2Proof.Machine
end

