-- ==== Sys2Proof/Machine/Engines.lean ====
section
/-! DEFINITION. The copy engine and barrier objects (17/R268 to R277, 18/R286 to R298): COPY, COPYC, MCAST with their
descriptors, stream transfers, BINIT, BEXPECT, BARRIVE, BWAIT, BTEST, and the end of an engine operation. -/

namespace Sys2Proof.Machine

/-! ### Descriptors (R287, R288, R290, R291) -/

def Desc.sh (D : BitVec 512) : Nat := bits D 439 436
def Desc.cls (D : BitVec 512) : Nat := bits D 435 433
def Desc.scope (D : BitVec 512) : Nat := bits D 432 430
def Desc.dm1 (D : BitVec 512) : Nat := bits D 429 428
def Desc.tcode (D : BitVec 512) : Nat := bits D 424 420
def Desc.scode (D : BitVec 512) : Nat := bits D 419 415
def Desc.sat (D : BitVec 512) : Bool := D.getLsbD 425
def Desc.mbase (D : BitVec 512) : Nat := bits D 447 440

/-- Ranks that a multicast names. -/
def Desc.members (D : BitVec 512) : List Nat := ((List.range 64).filter (fun i => D.getLsbD (448 + i))).map (· + mbase D)

/-- Element bytes of a side: the element's width, or one byte for a packed run. -/
def Desc.unitBytes (D : BitVec 512) (conv dst : Bool) : Nat := max 1 (cdWidth D conv dst / 8)

/-- A side whose elements are narrower than a byte is packed run by run. -/
def Desc.packed (D : BitVec 512) (conv dst : Bool) : Bool := decide (cdWidth D conv dst < 8)

/-- Bytes that the operation counts. -/
def Desc.counted (D : BitVec 512) (conv : Bool) : Nat :=
  if packed D conv true then (cdLen D 0 * cdWidth D conv true + 7) / 8 * cdLen D 1 * cdLen D 2 else cdCount D * unitBytes D conv true

/-- Granules that a stream transfer covers. -/
def Desc.granules (D : BitVec 512) : Nat := cdLen D 0 / 4096 * cdLen D 1 * cdLen D 2

/-- A code that COPYC takes. -/
def Desc.codeOk (c : Nat) : Bool := decide (c ≤ 13) || c == 16 || c == 17 || c == 20

/-- Reserved fields and values, by instruction: 0 COPY, 1 COPYC, 2 MCAST. -/
def Desc.reserved (D : BitVec 512) (kind : Nat) : Bool :=
  bits D 414 384 != 0 || bits D 191 176 != 0 || bits D 126 120 != 0 || bits D 62 56 != 0 || dm1 D == 3 || decide (5 < scope D) ||
    (kind != 2 && bits D 511 440 != 0) || (kind == 1 && bits D 427 426 != 0) || (kind != 1 && bits D 425 415 != 0)

/-- A local side with a nonzero bit above bit 19. -/
def Desc.highLocal (D : BitVec 512) : Bool := (cdLocal D false && bits D 55 20 != 0) || (cdLocal D true && bits D 119 84 != 0)

/-- A local side that leaves the scratchpad; an empty pattern has no byte. -/
def Desc.localOut (D : BitVec 512) (conv dst : Bool) : Bool :=
  let r := sideSpan D conv dst
  cdLocal D dst && cdCount D != 0 && (decide (r.1 < 0) || decide ((spadEnd : Int) < r.2))

/-- A side whose base or strides in use are not multiples of its element bytes. -/
def Desc.misaligned (D : BitVec 512) (conv dst : Bool) : Bool :=
  let n := unitBytes D conv dst
  cdBase D dst % n != 0 || (!packed D conv dst && cdStride D dst 0 % (n : Int) != 0) || cdStride D dst 1 % (n : Int) != 0 ||
    cdStride D dst 2 % (n : Int) != 0

/-- A stream's global side breaks R291; `write` is the handle's direction. -/
def Desc.streamBad (D : BitVec 512) (write : Bool) : Bool :=
  cdLocal D false != write || cdLocal D true == write || bits D 427 426 != 0 || cdStride D write 0 != 1 || cdBase D write % 4096 != 0 ||
    (cdStride D write 1) % 4096 != 0 || (cdStride D write 2) % 4096 != 0 || cdLen D 0 % 4096 != 0

/-- What the contents of a descriptor say: a cause, or the slot of a stream and the bytes counted. -/
inductive DescCheck | cause (c : Nat) | ok (slot : Option Nat) (bytes : Nat)
  deriving DecidableEq, Repr

/-- A stream transfer's checks and bytes. -/
def streamCheck (s : State) (D : BitVec 512) (h : Handle) : DescCheck :=
  let G := SlotImage.gBytes (s.mslot h.slot).image
  let b := if h.write then 4096 * Desc.granules D else G * Desc.granules D
  if Desc.streamBad D h.write || decide (2 ^ 29 ≤ b) then .cause 0x0F
  else if spadEnd < cdBase D (!h.write) + G * Desc.granules D then .cause 0x07
  else .ok (some h.slot) b

/-- The checks of R288, R290 and R291 on a descriptor. -/
def descCheck (s : State) (T : Tile) (D : BitVec 512) (kind : Nat) : DescCheck :=
  let conv := kind == 1
  if Desc.reserved D kind || Desc.highLocal D || (conv && (!Desc.codeOk (Desc.tcode D) || !Desc.codeOk (Desc.scode D) || Desc.sh D != 0)) ||
      (kind == 2 && (Desc.sh D != 0 || !cdLocal D true || (Desc.members D).isEmpty || (Desc.members D).any (fun r => decide (T.tiles ≤ r)) ||
        Desc.localOut D false true)) then .cause 0x0F
  else if Desc.sh D ≠ 0 then
    match T.handle (Desc.sh D - 1) with
    | none => .cause 0x0F
    | some h => if 8 < Desc.sh D then .cause 0x0F else streamCheck s D h
  else if 2 ^ 29 ≤ Desc.counted D conv then .cause 0x0F
  else if Desc.localOut D conv false || Desc.localOut D conv true then .cause 0x07
  else
    let ms := Desc.misaligned D conv false
    let md := Desc.misaligned D conv true
    if (cdLocal D false && ms) || (cdLocal D true && md) then .cause 0x08
    else if ms || md then .cause 0x0A
    else .ok none (Desc.counted D conv)

/-! ### Elements of a pattern (R273, R274, R288) -/

/-- One step of a pattern: the number of its first element and its coordinates, with m elements. -/
structure Chunk where
  e  : Nat
  k2 : Nat
  k1 : Nat
  k0 : Nat
  m  : Nat

/-- The steps of a pattern in pattern order: elements, or whole runs when a side is packed. -/
def chunks (D : BitVec 512) (runs : Bool) : List Chunk :=
  let n0 := cdLen D 0
  let n1 := cdLen D 1
  if n0 = 0 then []
  else if runs then (List.range (n1 * cdLen D 2)).map (fun r => { e := r * n0, k2 := r / n1, k1 := r % n1, k0 := 0, m := n0 })
  else (List.range (cdCount D)).map (fun e => { e := e, k2 := e / n0 / n1, k1 := e / n0 % n1, k0 := e % n0, m := 1 })

/-- Address of an element on a side. -/
def cdAddr (D : BitVec 512) (dst : Bool) (k2 k1 k0 : Nat) : Int :=
  (cdBase D dst : Int) + (k0 : Int) * cdStride D dst 0 + (k1 : Int) * cdStride D dst 1 + (k2 : Int) * cdStride D dst 2

/-- The byte ranges of a side for a step: one packed run, or each element. -/
def chunkRanges (D : BitVec 512) (conv dst : Bool) (c : Chunk) : List (Int × Nat) :=
  if Desc.packed D conv dst then [(cdAddr D dst c.k2 c.k1 0 - (0 : Int), (c.m * cdWidth D conv dst + 7) / 8)]
  else (List.range c.m).map (fun i => (cdAddr D dst c.k2 c.k1 (c.k0 + i), Desc.unitBytes D conv dst))

/-- The base of a packed run ignores stride 0, which multiplies k0 = 0; the scratchpad ranges of a local side. -/
def sideRanges (D : BitVec 512) (conv dst : Bool) : List (Nat × Nat) :=
  if cdLocal D dst then
    (chunks D (Desc.packed D conv dst)).flatMap (fun c => (chunkRanges D conv dst c).map (fun r => (r.1.toNat, r.2)))
  else []

/-! ### The engine's accesses -/

/-- What one access of an engine meets: bytes (none when an error response or poison took them), a pinned line, a page
that is not mapped. -/
inductive Got | data (bs : Option (List Byte)) | retry | fault (va : Nat)
  deriving DecidableEq, Repr

/-- A global address that an engine can reach. -/
def engineReach (a : Int) (n : Nat) : Bool := decide (0 ≤ a) && decide (a + n ≤ 2 ^ 56) && !isWindow a.toNat

/-- The request of an engine's access. -/
def engineReq (x : Txn) (w : Bool) : HReq :=
  { ctx := x.ctx, va := 0, n := 0, r := !w, w := w, reads := !w, agent := .tile x.tile, narrow := if w && decide (x.scope ≤ 1) then some x.scope else none }

/-- n bytes at an address of the tile window, read, or written when given: the checks of R215 answer an error; a peer that has
not started or is frozen holds the access (R381); a retired one answers an error to a read and discards a write (R210). -/
def windowBytes (s : State) (x : Txn) (a n : Nat) (bs : Option (List Byte)) : State × Got :=
  let m := windowMember a
  if !memberOk s x.tile m || fld a 27 20 != 0 || decide (2 ^ 20 < a % 2 ^ 20 + n) then (s, .data none)
  else match peerAt s x.tile x.inst (peerNo s x.tile m) with
    | .notYet => (s, .retry)
    | .gone => if bs.isNone then (s, .data none) else (s.modTile x.tile (fun T => T.warnBit warnPgone), .data (some []))
    | .at u =>
      if (s.tile u).frozen then (s, .retry)
      else match bs with
        | none => (s, .data (some (memBytes (s.tile u).spad (a % 2 ^ 20) n)))
        | some bs => (s.modTile u (fun T => { T with spad := memPut T.spad (a % 2 ^ 20) bs }.wake), .data (some []))

/-- The address lies in the tile window. -/
def engineWindow (a : Int) : Bool := decide (0 ≤ a) && decide (a < 2 ^ 56) && isWindow a.toNat

/-- n bytes are read on a side. -/
def engineRead (s : State) (x : Txn) (loc : Bool) (a : Int) (n : Nat) : State × Got :=
  if loc then (s, .data (some (memBytes (s.tile x.tile).spad a.toNat n)))
  else if engineWindow a then windowBytes s x a.toNat n none
  else if !engineReach a n then (s, .data none)
  else
    let ps := pieces (n / 128 + 2) a.toNat n
    if anyPinned s (.tile x.tile) x.ctx ps then (s, .retry)
    else match homeRead (recallAll s x.ctx ps) (engineReq x false) ps [] with
      | (s, .data bs) => (s, .data (some bs))
      | (s, .bad .retry) => (s, .retry)
      | (s, .bad (.pageFault va)) => (s, .fault va)
      | (s, .bad _) => (s, .data none)

/-- Bytes are written on a side. -/
def engineWrite (s : State) (x : Txn) (loc : Bool) (a : Int) (bs : List Byte) : State × Got :=
  if loc then (s.modTile x.tile (fun T => { T with spad := memPut T.spad a.toNat bs }), .data (some []))
  else if engineWindow a then windowBytes s x a.toNat bs.length (some bs)
  else if !engineReach a bs.length then (s, .data none)
  else
    let ps := pieces (bs.length / 128 + 2) a.toNat bs.length
    if anyPinned s (.tile x.tile) x.ctx ps then (s, .retry)
    else match homeWrite (recallAll s x.ctx ps) (engineReq x true) ps bs with
      | (s, .data _) => (s, .data (some []))
      | (s, .bad .retry) => (s, .retry)
      | (s, .bad (.pageFault va)) => (s, .fault va)
      | (s, .bad _) => (s, .data none)

/-- Bytes that hold no defined value (R272). -/
def openBytes (s : State) (k n : Nat) : List Byte := (List.range n).map (fun i => Config.undefinedByte (s.freeAt (k + i)))

/-- How a transfer goes on: the state, err.xerr, err.short, and whether a pinned line or a page fault stops it. -/
structure Flow where
  s     : State
  err   : Bool := false
  short : Bool := false
  retry : Bool := false
  fault : Option Nat := none

/-- The transfer has stopped. -/
def Flow.halted (c : Flow) : Bool := c.retry || c.fault.isSome

/-- An access of a transfer; failed bytes raise xerr. -/
def Flow.access (c : Flow) (act : State → State × Got) : Flow × Option (List Byte) :=
  if c.halted then (c, none)
  else match act c.s with
    | (s, .data (some bs)) => ({ c with s := s }, some bs)
    | (s, .data none) => ({ c with s := s, err := true }, none)
    | (s, .retry) => ({ c with s := s, retry := true }, none)
    | (s, .fault va) => ({ c with s := s, fault := some va }, none)

/-- Reads of several ranges in turn; failed ones hold no defined value. -/
def Flow.reads (c : Flow) (x : Txn) (loc : Bool) (k : Nat) : List (Int × Nat) → Flow × List (List Byte)
  | [] => (c, [])
  | (a, n) :: rest =>
    let (c, got) := c.access (fun s => engineRead s x loc a n)
    let (d, more) := c.reads x loc (k + n) rest
    (d, (match got with | some bs => bs | none => openBytes c.s k n) :: more)

/-- Writes of several ranges in turn. -/
def Flow.writes (c : Flow) (x : Txn) (loc : Bool) : List ((Int × Nat) × List Byte) → Flow
  | [] => c
  | ((a, _), bs) :: rest => ((c.access (fun s => engineWrite s x loc a bs)).1).writes x loc rest

/-- Elements of a step from the bytes read: packed bits, or one per element. -/
def chunkElems (D : BitVec 512) (conv : Bool) (c : Chunk) (bs : List (List Byte)) : List Nat :=
  if Desc.packed D conv false then elemsOf (cdWidth D conv false) c.m (leNat (bs.flatMap id)) else bs.map leNat

/-- Bytes of a step's destination ranges from its elements. -/
def chunkBytes (D : BitVec 512) (conv : Bool) (c : Chunk) (es : List Nat) : List (List Byte) :=
  let w := cdWidth D conv true
  if Desc.packed D conv true then [leBytes ((c.m * w + 7) / 8) (packElems w es)] else es.map (leBytes (w / 8))

/-- Conversion of a step's elements (R273, R289) with the sticky bits raised. -/
def chunkConvert (D : BitVec 512) (x : Txn) (conv : Bool) (c : Chunk) (es : List Nat) : List Nat × Warns :=
  if conv then
    let r := mapFrom (fun i v => convert (ckind (Desc.tcode D)) (ckind (Desc.scode D))
      { mode := x.mode.toNat, seed := x.seed, i := c.e + i } (Desc.sat D) v) 0 es
    (r.map (·.1), (r.map (·.2)).foldl (· ||| ·) 0)
  else (es, 0)

/-- A step's source elements. -/
def Flow.readChunk (c : Flow) (D : BitVec 512) (x : Txn) (conv : Bool) (k : Chunk) : Flow × List Nat :=
  let (c, bs) := c.reads x (cdLocal D false) (k.e * 8) (chunkRanges D conv false k)
  (c, chunkElems D conv k bs)

/-- A step is written at its destination; `early` holds elements read before the operation wrote anything. -/
def Flow.moveChunk (c : Flow) (D : BitVec 512) (x : Txn) (conv : Bool) (early : Option (List Nat)) (k : Chunk) : Flow :=
  let (c, es) := match early with
    | some es => (c, es)
    | none => c.readChunk D x conv k
  let (es, w) := chunkConvert D x conv k es
  let c := { c with s := c.s.modTile x.tile (fun T => T.raise w) }
  c.writes x (cdLocal D true) ((chunkRanges D conv true k).zip (chunkBytes D conv k es))

/-- The steps whose source is read before the operation writes: a free choice for each (R289). -/
def Flow.early (c : Flow) (D : BitVec 512) (x : Txn) (conv : Bool) : List Chunk → Flow × List (Chunk × Option (List Nat))
  | [] => (c, [])
  | k :: rest =>
    if Config.undefinedBit (c.s.freeAt k.e) then
      let (c, es) := c.readChunk D x conv k
      let (c, more) := c.early D x conv rest
      (c, (k, some es) :: more)
    else
      let (c, more) := c.early D x conv rest
      (c, (k, none) :: more)

/-- A plain or converting copy (R273, R289): no order among its elements, so the order too is a free choice (R269). -/
def copyFlow (s : State) (D : BitVec 512) (x : Txn) (conv : Bool) : Flow :=
  let ks := chunks D (Desc.packed D conv false || Desc.packed D conv true)
  let (c, ks) := ({ s := s } : Flow).early D x conv ks
  let ks := if Config.undefinedBit (s.freeAt (2 ^ 60)) then ks.reverse else ks
  ks.foldl (fun c k => c.moveChunk D x conv k.2 k.1) c

/-! ### Stream transfers (R229, R230, R276, R291) -/

/-- A line of a read stream: the cache's bytes when present, else those of memory (R230). -/
def streamLineRead (s : State) (x : Txn) (va : Nat) : State × Got :=
  if pinnedAgainst s (.tile x.tile) x.ctx va then (s, .retry)
  else match s.line? x.ctx va with
    | some l => (s, .data (if l.poison then none else some l.data))
    | none =>
      if s.dieDown (homeSlice s va / 64) then (s, .data none)
      else match translate s (homeSlice s va) x.ctx va true false with
        | (s, .ok pa _ _) => (s, .data (if s.poisoned pa then none else some (memBytes s.pmem pa 128)))
        | (s, .pageFault) => (s, .fault va)
        | (s, .error) => (s, .data none)

/-- A line of a write stream (R230). -/
def streamLineWrite (s : State) (x : Txn) (va : Nat) (bs : List Byte) : State × Got :=
  match streamWrite s (.tile x.tile) x.ctx va false bs with
  | (s, .data _) => (s, .data (some []))
  | (s, .retry) => (s, .retry)
  | (s, .pageFault va) => (s, .fault va)
  | (s, _) => (s, .data none)

/-- n lines of a granule are read in turn. -/
def Flow.granuleRead (c : Flow) (x : Txn) (va : Nat) : Nat → Flow × List Byte
  | 0 => (c, [])
  | n + 1 =>
    let s0 := recallLine c.s x.ctx va
    let (c, got) := { c with s := s0 }.access (fun s => if engineReach va 128 then streamLineRead s x va else (s, .data none))
    let (d, more) := c.granuleRead x (va + 128) n
    (d, (match got with | some bs => bs | none => openBytes c.s (va % 2 ^ 60) 128) ++ more)

/-- The lines of a granule are written in turn. -/
def Flow.granuleWrite (c : Flow) (x : Txn) (va : Nat) (bs : List Byte) : Nat → Flow
  | 0 => c
  | n + 1 =>
    let s0 := recallLine c.s x.ctx va
    let (c, _) := { c with s := s0 }.access (fun s => if engineReach va 128 then streamLineWrite s x va (bs.take 128) else (s, .data none))
    c.granuleWrite x (va + 128) (bs.drop 128) n

/-- Address of granule g of a stream's global side. -/
def granuleAddr (D : BitVec 512) (write : Bool) (g : Nat) : Nat :=
  let per := cdLen D 0 / 4096
  (cdAddr D write (g / per / cdLen D 1) (g / per % cdLen D 1) (g % per * 4096)).toNat

/-- A stream transfer, granule by granule. -/
def streamFlow (s : State) (D : BitVec 512) (x : Txn) (slot : Nat) : Flow :=
  let m := (s.mslot slot).image
  let G := SlotImage.gBytes m
  (List.range (Desc.granules D)).foldl (fun (c : Flow) (g : Nat) =>
    if SlotImage.write m then
      let a := cdBase D false + G * g
      let (out, short) := slotGranule m x.mode.toNat x.seed g (memBytes (c.s.tile x.tile).spad a G)
      ({ c with short := c.short || short }).granuleWrite x (granuleAddr D true g) out 32
    else
      let (c, bs) := c.granuleRead x (granuleAddr D false g) 32
      let (out, short) := slotGranule m x.mode.toNat x.seed g bs
      if c.halted then c
      else ({ c with short := c.short || short }).writes x true [((((cdBase D true + G * g : Nat) : Int), G), out)]) { s := s }

/-! ### Starting a copy (R286, R289, R290) -/

/-- The ranges that a transfer enters into the scoreboard: reads, writes. -/
def copyRanges (s : State) (D : BitVec 512) (conv : Bool) (slot : Option Nat) : List (Nat × Nat) × List (Nat × Nat) :=
  match slot with
  | none => (sideRanges D conv false, sideRanges D conv true)
  | some k =>
    let m := (s.mslot k).image
    let n := SlotImage.gBytes m * Desc.granules D
    if SlotImage.write m then ([(cdBase D false, n)], []) else ([], [(cdBase D true, n)])

/-- An operation enters the scoreboard with the ranges it reads and those it writes. -/
def Tile.sbRanges (T : Tile) (id : Nat) (r : List (Nat × Nat) × List (Nat × Nat)) : Tile :=
  let T := if r.1.isEmpty then T else T.sbEnter id r.1 false
  if r.2.isEmpty then T else T.sbEnter id r.2 true

/-- The writes of a multicast to its members, one transaction each. -/
def launchMembers (s : State) (I : Issue) (D : BitVec 512) (bar bytes parent : Nat) (x : Txn) : State :=
  let sp := sideSpan D false true
  let n := if cdCount D = 0 then 0 else (sp.2 - sp.1).toNat
  (Desc.members D).foldl (fun s r =>
    let k : TxnKind := .mcastWrite (peerNo s s.focus.1 { g := false, tidx := 0, rank := r }) sp.1.toNat n bar [] bytes parent 0
    s.launch { newTxn s I k 0 x.cls (max 1 x.scope) 0 with mode := x.mode } .peerAccessArrival) s

/-- COPY, COPYC or MCAST: the checks of R286 in order, then the operation of R268. -/
def startCopy (s : State) (i : Instr) (a b : Reg) (kind : Nat) : Out :=
  issue s { instr := i, onX := false, rs := [a, b], hpri := true } (fun s I =>
    let x := (I.s 0).toNat
    let bar := (I.s 1).toNat
    let t := s.focus.1
    match spadCause x 64 64, spadCause bar 16 16 with
    | some c, _ => .trap c (I.s 0)
    | none, some c => .trap c (I.s 1)
    | none, none =>
      if s.localHeld s.focus.2 x 64 false then .wait
      else
        let D := BitVec.ofNat 512 (memNat s.cur.spad x 64)
        match descCheck s s.cur D kind with
        | .cause c => .trap c (I.s 0)
        | .ok slot bytes =>
          let (r, T) := s.cur.sample s.focus.2 true
          let s := s.setTile t (T.warnIf warnOfb (Desc.scope D == 2))
          let conv := kind == 1
          let id := s.nextId
          let s := s.modTile t (fun T => T.sbRanges id
            (if kind = 2 then (sideRanges D false false, []) else copyRanges s D conv slot))
          let k : TxnKind := if kind = 2 then .mcast D bar id else .copy D conv bar id slot
          let y : Txn := { newTxn s I k 0 (Desc.cls D) (if Desc.scope D = 2 then 3 else Desc.scope D) 0 with
            mode := BitVec.ofNat 3 r.mode, seed := r.seed }
          let s := s.launch y .operationCompletion
          .done (if kind = 2 then launchMembers s I D bar bytes id y else s))

/-- COPY (R289, R291). -/
def execCopy (a b : Reg) (s : State) : Out := startCopy s (.copy a b) a b 0

/-- COPYC (R289). -/
def execCopyc (a b : Reg) (s : State) : Out := startCopy s (.copyc a b) a b 1

/-- MCAST (R290). -/
def execMcast (a b : Reg) (s : State) : Out := startCopy s (.mcast a b) a b 2

/-! ### The end of an operation (R269, R271, R272, R275) -/

/-- Error flags of a barrier object (R270). -/
def errShort : Nat := 2
def errXerr : Nat := 4
def errMal : Nat := 8
def errSovf : Nat := 16

/-- An operation of a masked class waits at a FENCE issued before it (R255). -/
def fencedAt (s : State) (x : Txn) : Bool :=
  s.fences.any (fun f => f.tile == x.tile && decide (f.before ≤ x.id) && f.mask.getLsbD x.cls &&
    (s.strandTxns x.tile).any (fun y => decide (y.id < f.before) && y.unperformed && y.access.isSome && f.mask.getLsbD y.cls))

/-- An operation has been performed: it leaves the scoreboard and its completion sets out. -/
def performed (s : State) (x : Txn) (sb bar bytes err : Nat) : State :=
  ((s.modTile x.tile (fun T => (T.sbLeave sb).wake)).modTxn x.id
    (fun y => { y with kind := .complete bar bytes err false, resp := .data 0 })).post (.operationCompletion x.id)

/-- What follows a transfer: a pinned line lets it try again, a page fault aborts the task. -/
def endFlow (s0 : State) (c : Flow) (x : Txn) (k : State → Nat → State) : State :=
  if c.retry then s0.post (.operationCompletion x.id)
  else match c.fault with
    | some va => taskAbort (c.s.dropTxn x.id) x.tile 0x40 va 0
    | none => k c.s ((if c.err then errXerr else 0) + (if c.short then errShort else 0))

/-- The bytes of a multicast's source, laid out at the members' addresses. -/
def mcastData (c : Flow) (D : BitVec 512) (x : Txn) : Flow × List (Nat × Byte) :=
  (chunks D false).foldl (fun (acc : Flow × List (Nat × Byte)) (k : Chunk) =>
    let (c, es) := acc.1.readChunk D x false k
    let bs := ((chunkRanges D false true k).zip (chunkBytes D false k es)).flatMap
      (fun p => mapFrom (fun i (b : Byte) => (p.1.1.toNat + i, b)) 0 p.2)
    (c, acc.2 ++ bs)) (c, [])

/-- OPERATION_COMPLETION (R271): a transfer that nothing orders behind another is performed, then its completion reaches
its barrier object. -/
def execOperationCompletion (id : Nat) (s : State) : Out :=
  match s.txn? id with
  | none => .next s
  | some x =>
    let T := s.tile x.tile
    let again := s.post (.operationCompletion id)
    if T.frozen then .next again
    else match x.kind with
      | .complete bar bytes err close =>
        .next (pruneFences ((s.dropTxn id).modTile x.tile (fun T =>
          T.barUpd bar { pend := -(bytes : Int), arr := if close then 0 else 1, err := err, close := close })))
      | .copy D conv bar sb slot =>
        if x.mustWait s || T.sbMust sb || fencedAt s x then .next again
        else
          let c := match slot with
            | none => copyFlow s D x conv
            | some k => streamFlow s D x k
          let bytes := match slot with
            | none => Desc.counted D conv
            | some k => (if SlotImage.write (s.mslot k).image then 4096 else SlotImage.gBytes (s.mslot k).image) * Desc.granules D
          .next (endFlow s c x (fun s e => performed s x sb bar bytes e))
      | .mcast D bar sb =>
        if x.mustWait s || T.sbMust sb || fencedAt s x then .next again
        else
          let (c, data) := mcastData { s := s } D x
          .next (endFlow s c x (fun s e =>
            let s := { s with txns := s.txns.map (fun y => match y.kind with
              | .mcastWrite p a n b _ k parent _ => if parent == id then { y with kind := .mcastWrite p a n b data k parent e } else y
              | _ => y) }
            performed s x sb bar 0 e))
      | _ => .next s

/-! ### Barrier instructions (R297, R298) -/

/-- A barrier instruction: the checks of R286 on its address, then its effect, which a command that overlaps holds back. -/
def onBarrier (s : State) (fm : Form) (body : State → Issue → Nat → Verdict) : Out :=
  issue s { fm with onX := false } (fun s I =>
    match spadCause (I.s 0).toNat 16 16 with
    | some c => .trap c (I.s 0)
    | none => body s I (I.s 0).toNat)

/-- An update of a barrier object by its own front. -/
def updBar (s : State) (a : Nat) (u : BarUpd) : State := s.modTile s.focus.1 (fun T => T.barUpd a u)

/-- BINIT (R297). -/
def execBinit (a b : Reg) (s : State) : Out :=
  onBarrier s { instr := .binit a b, rs := [a, b] } (fun s I x =>
    let v := I.s 1
    if bits v 15 0 = 0 ∨ bits v 63 16 ≠ 0 then .trap 0x0F v
    else if s.localHeld s.focus.2 x 16 true then .wait
    else .done (s.modTile s.focus.1 (fun T => { T with spad := memPutNat T.spad x 16 (bits v 15 0 * 2 ^ 16) }.wake)))

/-- BEXPECT (R297). -/
def execBexpect (a b : Reg) (s : State) : Out :=
  onBarrier s { instr := .bexpect a b, rs := [a, b] } (fun s I x =>
    let v := I.s 1
    if 2 ^ 29 ≤ v.toNat then .trap 0x0F v else .done (updBar s x { pend := (v.toNat : Int) }))

/-- BARRIVE (R297). -/
def execBarrive (a : Reg) (s : State) : Out :=
  onBarrier s { instr := .barrive a, rs := [a] } (fun s _ x => .done (updBar s x { arr := 1 }))

/-- The result of BWAIT and BTEST (R298): phase and errors. -/
def barResult (o : BitVec 128) : Word := BitVec.ofNat 64 (bits o 32 32 * 2 ^ 8 + bits o 127 120)

/-- BWAIT (R298): until the phase bit differs from bit 0 of b. -/
def execBwait (d a b : Reg) (s : State) : Out :=
  onBarrier s { instr := .bwait d a b, rs := [a, b], ws := [d] } (fun s I x =>
    let o := s.cur.bar x
    if bits o 32 32 = bits (I.s 1) 0 0 then .wait
    else .done (s.modTile s.focus.1 (fun T => T.putS s.focus.2 d (barResult o))))

/-- BTEST (R298). -/
def execBtest (d a : Reg) (s : State) : Out :=
  onBarrier s { instr := .btest d a, rs := [a], ws := [d] } (fun s _ x =>
    .done (s.modTile s.focus.1 (fun T => T.putS s.focus.2 d (barResult (s.cur.bar x)))))

end Sys2Proof.Machine
end

