-- ==== Sys2Proof/Machine/Tasks.lean ====
section
/-! DEFINITION. The dispatcher from launch to issue and the end of a strand and a task (10, 11): launch-queue intake
(R174 to R178, R183), placement (R185 to R189), operand transfers (R190 to R192), the start of strands (R165), retirement
(R31, R151, R170), the end of a task (R155, R160) and the graph watchdog (R173). -/

namespace Sys2Proof.Machine

/-! ### Launch queues and intake (R174 to R178, R183) -/

def LaunchQ.reset : LaunchQ := { lqd := 0, ri := 0, wi := 0, err := 0, st := 0 }
def Die.queue (D : Die) (q : Nat) : LaunchQ := Sparse.get LaunchQ.reset D.lq q
def State.setQueue (s : State) (d q : Nat) (Q : LaunchQ) : State :=
  s.modDie d (fun D => { D with lq := Sparse.set LaunchQ.reset D.lq q Q })

def LaunchQ.ctx (Q : LaunchQ) : Nat := bits Q.lqd 121 112
def LaunchQ.wt (Q : LaunchQ) : Nat := bits Q.lqd 111 104
def LaunchQ.size (Q : LaunchQ) : Nat := 2 ^ bits Q.lqd 103 100
def LaunchQ.base (Q : LaunchQ) : Nat := bits Q.lqd 55 0

/-- A queue from which a packet can be taken. -/
def LaunchQ.waiting (Q : LaunchQ) : Bool := Q.st == 1 && Q.ri != Q.wi

/-- The waiting queues of a context in ascending number. -/
def Die.waitingOf (D : Die) (c : Nat) : List Nat := (D.lq.filter (fun q => q.2.waiting && q.2.ctx == c)).map (·.1)

/-- The context whose turn is next: the first at or after a number, else the lowest. -/
def Die.nextCtx (D : Die) (start : Nat) : Option Nat :=
  let cs := (D.lq.filter (fun q => q.2.waiting)).map (fun q => q.2.ctx)
  let low := fun (l : List Nat) => l.foldl (fun (best : Option Nat) (c : Nat) =>
    match best with | none => some c | some b => some (min b c)) none
  match low (cs.filter (fun c => decide (start ≤ c))) with
  | some c => some c
  | none => low cs

/-- A context's deficit. -/
def Die.deficitOf (D : Die) (c : Nat) : Int := Sparse.get 0 D.deficit c
def Die.setDeficit (D : Die) (c : Nat) (v : Int) : Die := { D with deficit := Sparse.set 0 D.deficit c v }

/-- A turn begins: the context's largest weight is added (R183). `turn` is 2 c + 1 in a turn of context c, else twice the
number from which the next is sought. -/
def Die.beginTurn (D : Die) (c : Nat) : Die :=
  let wt := ((D.lq.filter (fun q => q.2.st == 1 && q.2.ctx == c)).map (fun q => q.2.wt)).foldl max 0
  { D.setDeficit c (min (2 ^ 47 - 1) (D.deficitOf c + wt * 2 ^ 16)) with turn := 2 * c + 1, lastq := 0 }

/-- A turn ends: a context with no packet left keeps no credit. -/
def Die.endTurn (D : Die) (c : Nat) : Die :=
  let D := if (D.waitingOf c).isEmpty then D.setDeficit c (min (D.deficitOf c) 0) else D
  { D with turn := 2 * (c + 1), lastq := 0 }

/-- The queue's packet has been dealt with. -/
def LaunchQ.advance (Q : LaunchQ) : LaunchQ := { Q with ri := (Q.ri + 1) % Q.size }

/-- A packet of a queue is taken (R176, R178): with no room for it the intake waits. -/
def takePacket (s : State) (d q : Nat) : State :=
  let Q := (s.die d).queue q
  let c := Q.ctx
  let s1 := s.modDie d (fun D => { D with lastq := q + 1 })
  match readVirt s1 c (Q.base + 256 * Q.ri) 256 with
  | (_, .retry) => s
  | (s1, .data bs) =>
    match intake s1 d c bs none (some (q, Q.ri)) with
    | (_, .again) => s
    | (s1, .refused err va) =>
      (s1.setQueue d q Q.advance).record d
        { va := va, kind := 0x51, ctx := c, info := err * 2 ^ 24 + Q.ri * 2 ^ 8 + q }
    | (s1, .fault _ va) =>
      (s1.setQueue d q Q.advance).record d
        { va := va, kind := 0x51, ctx := c, info := 15 * 2 ^ 24 + Q.ri * 2 ^ 8 + q }
    | (s1, _) => s1.setQueue d q Q.advance
  | (s1, .pageFault va) => (s1.setQueue d q { Q with st := 2, err := 9 }).record d { va := va, kind := 0x50, ctx := c, info := 9 * 2 ^ 8 + q }
  | (s1, .error va) => (s1.setQueue d q { Q with st := 2, err := 9 }).record d { va := va, kind := 0x50, ctx := c, info := 9 * 2 ^ 8 + q }
  | (s1, .poisoned va) => (s1.setQueue d q { Q with st := 2, err := 9 }).record d { va := va, kind := 0x50, ctx := c, info := 9 * 2 ^ 8 + q }

/-- The context in turn takes one packet, or its turn ends. -/
def turnStep (s : State) (d c : Nat) : State :=
  let D := s.die d
  let qs := D.waitingOf c
  match (match qs.find? (fun q => decide (D.lastq ≤ q)) with | some q => some q | none => qs.head?) with
  | none => s.modDie d (fun D => D.endTurn c)
  | some q => if D.deficitOf c ≤ 0 then s.modDie d (fun D => D.endTurn c) else takePacket s d q

/-- PACKET_INTAKE (R183). -/
def execPacketIntake (d : Nat) (s : State) : Out :=
  let D := s.die d
  if s.dieDown d then .next s
  else if D.turn % 2 = 1 then .next (turnStep s d (D.turn / 2))
  else match D.nextCtx (D.turn / 2) with
    | none => .next s
    | some c => .next (turnStep (s.modDie d (fun D => D.beginTurn c)) d c)

/-! ### Candidates (R186, R324) -/

/-- A rectangle of tiles. -/
structure Rect where
  x0 : Nat
  y0 : Nat
  w  : Nat
  h  : Nat
  deriving DecidableEq, Repr

/-- Every rectangle of a die's 16 by 10 tiles. -/
def allRects : List Rect :=
  (List.range 10).flatMap (fun y => (List.range 16).flatMap (fun x =>
    (List.range (16 - x)).flatMap (fun w => (List.range (10 - y)).map (fun h => { x0 := x, y0 := y, w := w + 1, h := h + 1 }))))

/-- The tiles of a rectangle in row-major order. -/
def Rect.tiles (r : Rect) (d : Nat) : List Nat :=
  (List.range r.h).flatMap (fun j => (List.range r.w).map (fun i => d * 256 + (r.y0 + j) * 16 + r.x0 + i))

/-- A tile is of a task's kind. -/
def ofKind (kind t : Nat) : Bool := if kind = 1 then !isF t else if kind = 2 then isF t else true

/-- The members of a rectangle, by rank (R166). -/
def Rect.members (r : Rect) (d kind : Nat) : List Nat := (r.tiles d).filter (ofKind kind)

/-- Pages that a rectangle touches. -/
def Rect.pages (r : Rect) : List Nat :=
  (List.range ((r.y0 + r.h - 1) / 2 - r.y0 / 2 + 1)).flatMap (fun j =>
    (List.range ((r.x0 + r.w - 1) / 4 - r.x0 / 4 + 1)).map (fun i => (r.y0 / 2 + j) * 4 + r.x0 / 4 + i))

/-- The sort key of R186. -/
def Rect.key (r : Rect) : Nat :=
  let ps := r.pages
  (((ps.length * 32 + ps.foldl min 31) * 16 + r.y0) * 16 + r.x0) * 16 + r.h

/-- The rectangle's edges each hold a member. -/
def Rect.tight (r : Rect) (ms : List Nat) : Bool :=
  ms.any (fun t => xOf t == r.x0) && ms.any (fun t => xOf t == r.x0 + r.w - 1) && ms.any (fun t => yOf t == r.y0) &&
    ms.any (fun t => yOf t == r.y0 + r.h - 1)

/-- The rectangle is a candidate for n tiles of a kind. -/
def Rect.fits (r : Rect) (d kind n : Nat) (free page : Nat → Bool) : Bool :=
  let ms := r.members d kind
  r.pages.all page && ms.length == n && r.tight ms && ms.all free

/-- The rectangle that comes first. -/
def firstRect (rs : List Rect) : Option Rect :=
  rs.foldl (fun (best : Option Rect) (r : Rect) => match best with
    | none => some r
    | some b => if r.key < b.key then some r else some b) none

/-- The first candidate of a task (R186). -/
def candidate (d kind n : Nat) (free page : Nat → Bool) : Option Rect :=
  firstRect (allRects.filter (fun r => r.fits d kind n free page))

/-- The first candidates of a unit's members in ascending template index (R187). -/
def placeAll (d : Nat) (page : Nat → Bool) : List Rec → (Nat → Bool) → Option (List (Rec × Rect))
  | [], _ => some []
  | r :: rs, free =>
    match candidate d r.kind r.tiles free page with
    | none => none
    | some q =>
      let taken := q.members d r.kind
      match placeAll d page rs (fun t => free t && !taken.contains t) with
      | none => none
      | some l => some ((r, q) :: l)

/-! ### The placement pass (R185, R188, R189) -/

/-- Records in ascending template index. -/
def insertRec (r : Rec) : List Rec → List Rec
  | [] => [r]
  | q :: l => if r.tidx ≤ q.tidx then r :: q :: l else q :: insertRec r l
def byIndex (l : List Rec) : List Rec := l.foldr insertRec []

/-- Records of a unit that are to be placed, in ascending template index. -/
def unitRecs (s : State) (d : Nat) (u : RUnit) : List Rec :=
  byIndex ((s.die d).recs.filter (fun r => r.inst == u.inst && r.gang == u.tidx && r.st == .fetching))

/-- Whether a unit may be placed at all: its graph's gate is open (R351), its virtual function holds its pages (R325,
R330), and none of its records is spilled (R193). -/
def unitReady (s : State) (d : Nat) (u : RUnit) : Bool :=
  let rs := unitRecs s d u
  let V := match rs with | r :: _ => s.vf (s.ctx r.ctx).vf | [] => Vf.reset
  !rs.isEmpty && V.sched && !V.frozen && rs.all (fun r => r.spill.isNone && r.place.isEmpty) &&
    (match s.graph? d u.inst with | some g => g.gate == .opened | none => false)

/-- A tile that no placed task holds, on a page of the virtual function. -/
def tileFree (s : State) (d t : Nat) : Bool := !(s.die d).recs.any (fun r => r.place.contains t)

/-- The pages of a unit's virtual function. -/
def unitPages (s : State) (d : Nat) (u : RUnit) : List Nat :=
  match unitRecs s d u with
  | r :: _ => vfPages s (s.ctx r.ctx).vf d
  | [] => []

/-- The unit's placement among the tiles whose pages a rule allows. -/
def tryUnit (s : State) (d : Nat) (u : RUnit) (page : Nat → Bool) : Option (List (Rec × Rect)) :=
  let own := unitPages s d u
  placeAll d (fun p => own.contains p && page p) (unitRecs s d u) (tileFree s d)

/-- The tile id of a corner. -/
def Rect.low (r : Rect) (d : Nat) : Nat := d * 256 + r.y0 * 16 + r.x0
def Rect.high (r : Rect) (d : Nat) : Nat := d * 256 + (r.y0 + r.h - 1) * 16 + r.x0 + r.w - 1

/-- The transfers of one tile in the order of R190. -/
def transferKinds (r : Rec) : List XferKind :=
  [.code, .image] ++ ((List.range 3).filter (fun k => (r.ops.getD k r.op0).moves)).map .op

/-- A transfer is queued for each tile; its token's step follows. -/
def queueXfer (s : State) (d : Nat) (x : Xfer) : State :=
  let (id, s) := s.fresh
  (s.modDie d (fun D => { D with xfers := D.xfers ++ [{ x with id := id }] })).post (.operandToken d id)

/-- A member is placed: its cluster, ranks and transfers; each tile is cleared (R165, R166, R190). The configuration of a
tile's fibre units stays (log 26). -/
def placeMember (s : State) (d : Nat) (r : Rec) (q : Rect) : State :=
  let ts := q.members d r.kind
  let s := s.modRec d r.inst r.tidx (fun r => { r with place := ts, crect := q.high d * 2 ^ 16 + q.low d,
                                                       opend := r.tiles * (transferKinds r).length })
  let s := ts.foldl (fun s t => s.modTile t (fun T =>
    { Tile.reset with phase := .placed, vf := (s.ctx r.ctx).vf, inst := r.inst, tidx := r.tidx, tiles := r.tiles, events := r.ev,
                      ctx := BitVec.ofNat 64 r.ctx, fibre := T.fibre })) s
  (List.range ts.length).foldl (fun s k =>
    (transferKinds r).foldl (fun s w => queueXfer s d { id := 0, inst := r.inst, tidx := r.tidx, rank := k, what := w, bytes := none }) s) s

/-- Whether a unit holds the reservation. -/
def Die.holds (D : Die) (u : RUnit) : Bool := match D.resv with | some (i, j, _) => i == u.inst && j == u.tidx | none => false

/-- A unit is placed and leaves its queue; a reservation that it holds is dropped (R188, R189). -/
def placeUnit (s : State) (d : Nat) (u : RUnit) (l : List (Rec × Rect)) : State :=
  let s := s.modDie d (fun D => { D with ready := D.ready.filter (fun v => !(v.inst == u.inst && v.tidx == u.tidx)),
                                         resv := if D.holds u then none else D.resv })
  (l.foldl (fun s p => placeMember s d p.1 p.2) s).progress d u.inst

/-- The units that may be placed, by priority and then age. -/
def waitingUnits (s : State) (d : Nat) : List RUnit :=
  [7, 6, 5, 4, 3, 2, 1, 0].flatMap (fun p => (s.die d).ready.filter (fun u => u.pri == p && unitReady s d u))

/-- Pages under reservation. -/
def Die.reserved? (D : Die) : List Nat := match D.resv with | some (_, _, ps) => ps | none => []

/-- Tiles that a unit needs. -/
def unitTiles (s : State) (d : Nat) (u : RUnit) : Nat := ((unitRecs s d u).map Rec.tiles).sum

/-- The pages and the busy members of one position of a unit, every tile counted free (R189). -/
def position (s : State) (d : Nat) (u : RUnit) (first : Rect) : Option (Nat × List Nat) :=
  let own := unitPages s d u
  match unitRecs s d u with
  | [] => none
  | r :: rs =>
    let t0 := first.members d r.kind
    match placeAll d own.contains rs (fun t => !t0.contains t) with
    | none => none
    | some l =>
      let all := (r, first) :: l
      some ((all.flatMap (fun p => p.2.members d p.1.kind)).countP (fun t => !tileFree s d t), all.flatMap (fun p => p.2.pages))

/-- The reservation of a head (R189): the position with the fewest busy members, first by the order of R186. -/
def reserveFor (s : State) (d : Nat) (u : RUnit) : State :=
  let own := unitPages s d u
  match unitRecs s d u with
  | [] => s
  | r :: _ =>
    let rs := allRects.filter (fun q => q.fits d r.kind r.tiles (fun _ => true) own.contains)
    let best := rs.foldl (fun (b : Option (Nat × Nat × List Nat)) (q : Rect) =>
      match position s d u q with
      | none => b
      | some (n, ps) => match b with
        | none => some (n, q.key, ps)
        | some (m, k, _) => if n < m ∨ (n = m ∧ q.key < k) then some (n, q.key, ps) else b) none
    match best with
    | none => s
    | some (_, _, ps) => s.modDie d (fun D => { D with resv := some (u.inst, u.tidx, ps.eraseDups) })

/-- A unit's bypass count. -/
def bypassOf (s : State) (d : Nat) (u : RUnit) : Nat :=
  match (s.die d).ready.find? (fun v => v.inst == u.inst && v.tidx == u.tidx) with
  | some v => v.byp
  | none => 0

/-- A head whose bypass count has reached 8 makes its reservation when there is none. -/
def mayReserve (s : State) (d : Nat) (h : RUnit) : State :=
  if 8 ≤ bypassOf s d h ∧ (s.die d).resv = none then reserveFor s d h else s

/-- The other units are walked in order (R188, steps 3 and 4). -/
def backfill (s : State) (d : Nat) (h : RUnit) : List RUnit → State
  | [] => s
  | u :: rest =>
    if unitTiles s d u ≤ unitTiles s d h then
      match tryUnit s d u (fun p => !(s.die d).reserved?.contains p) with
      | none => backfill s d h rest
      | some l =>
        let s := placeUnit s d u l
        let s := s.modDie d (fun D => { D with ready := D.ready.map (fun v => if v.inst == h.inst && v.tidx == h.tidx then { v with byp := v.byp + 1 } else v) })
        backfill (mayReserve s d h) d h rest
    else backfill s d h rest

/-- The pass (R188); one round for each unit at most. -/
def placementRounds (s : State) (d : Nat) : Nat → State
  | 0 => s
  | n + 1 =>
    match waitingUnits s d with
    | [] => s
    | h :: rest =>
      let D := s.die d
      let page := fun p => if D.holds h then D.reserved?.contains p else !D.reserved?.contains p
      match tryUnit s d h page with
      | some l => placementRounds (placeUnit s d h l) d n
      | none => backfill (mayReserve s d h) d h rest

/-- PLACEMENT_PASS (R188). -/
def execPlacementPass (d : Nat) (s : State) : Out :=
  if s.dieDown d then .next s else .next (placementRounds s d ((s.die d).ready.length + 1))

/-! ### Operand transfers (R190 to R192) -/

/-- Source address, length and local address of a transfer; the code store is the destination of `.code`. -/
def xferRange (r : Rec) (x : Xfer) : Nat × Nat × Nat :=
  match x.what with
  | .code => (r.cva, (r.cm1 + 1) * 256, 0)
  | .image => (r.sva, r.slen * 4096, 0)
  | .op k =>
    let o := r.ops.getD k r.op0
    ((if o.mode = 2 then o.va + x.rank * (o.len * 256) else o.va), o.len * 256, o.dst)

/-- Bytes from a on, in pieces that each lie in one 4 KiB granule. -/
def granulePieces : Nat → Nat → List Byte → List (List Byte)
  | 0, _, _ => []
  | n + 1, a, bs =>
    if bs.isEmpty then []
    else
      let k := 4096 - a % 4096
      bs.take k :: granulePieces n (a + k) (bs.drop k)

/-- Bytes through a marver slot (R159), exactly as many as the descriptor's length; what the graph does not give holds no
defined value (log 27). -/
def xferThrough (s : State) (slot va : Nat) (bs : List Byte) : List Byte :=
  let m := s.mslot slot
  if !m.loaded || SlotImage.write m.image then openBytes s 0 bs.length
  else
    let out := (mapFrom (fun k g => (slotGranule m.image 0 0 k g).1) 0 (granulePieces (bs.length + 1) va bs)).flatMap id
    (out ++ openBytes s 0 bs.length).take bs.length

/-- What a transfer brings to its tile. -/
def xferBytes (s : State) (r : Rec) (x : Xfer) (va : Nat) (bs : List Byte) : List Byte :=
  match x.what with
  | .op k =>
    let o := r.ops.getD k r.op0
    if o.sen then xferThrough s o.sl va bs else bs
  | _ => bs

/-- The transfer's bytes stand in the tile. -/
def Tile.loadXfer (T : Tile) (x : Xfer) (a : Nat) (bs : List Byte) : Tile :=
  match x.what with
  | .code => { T with code := memPut T.code a bs }
  | _ => { T with spad := memPut T.spad a bs }

/-- The key of a transfer unit (R191): context, address, length, and the marver slot a descriptor names. -/
def xferKey (r : Rec) (x : Xfer) : Nat × Nat × Nat × Bool × Nat :=
  let (va, n, _) := xferRange r x
  match x.what with
  | .op k => let o := r.ops.getD k r.op0; (r.ctx, va, n, o.sen, if o.sen then o.sl else 0)
  | _ => (r.ctx, va, n, false, 0)

/-- The queued transfers of a die with x's key whose unit has not started, oldest first. -/
def sameKey (s : State) (d : Nat) (r : Rec) (x : Xfer) : List Nat :=
  ((s.die d).xfers.filter (fun y => y.bytes.isNone && match s.rec? d y.inst y.tidx with
    | some q => xferKey q y == xferKey r x
    | none => false)).map (·.id)

/-- The destinations of x's unit (R191): queued transfers with x's key, 160 to a unit in the order they came. -/
def xferUnit (s : State) (d : Nat) (r : Rec) (x : Xfer) : List Nat :=
  let l := sameKey s d r x
  (l.drop (l.idxOf x.id / 160 * 160)).take 160

/-- A unit has read its bytes: every destination of it has them (R191). -/
def shareBytes (s : State) (d : Nat) (r : Rec) (x : Xfer) (bs : List Byte) : State :=
  let u := xferUnit s d r x
  s.modDie d (fun D => { D with xfers := D.xfers.map (fun y => if u.contains y.id then { y with bytes := some bs } else y) })

/-- A transfer's bytes stand in its tile and its token counts; the last token makes the record runnable (R190, R192). -/
def landXfer (s : State) (d : Nat) (r : Rec) (x : Xfer) (bs : List Byte) : State :=
  let (_, _, dst) := xferRange r x
  let s := s.modTile (r.place.getD x.rank 0) (fun T => T.loadXfer x dst bs)
  let s := s.modDie d (fun D => { D with xfers := D.xfers.filter (fun y => y.id != x.id) })
  if r.opend ≤ 1 then
    ((s.modRec d x.inst x.tidx (fun r => { r with opend := 0, st := .runnable })).progress d x.inst).post (.strandStart d x.inst x.tidx)
  else s.modRec d x.inst x.tidx (fun r => { r with opend := r.opend - 1 })

/-- OPERAND_TOKEN (R190, R191): transfers of one tile land in order. The first token of a unit reads the unit's bytes, once
for all its destinations. -/
def execOperandToken (d id : Nat) (s : State) : Out :=
  match (s.die d).xfers.find? (fun x => x.id == id) with
  | none => .next s
  | some x =>
    match s.rec? d x.inst x.tidx with
    | none => .next s
    | some r =>
      let t := r.place.getD x.rank 0
      let again := s.post (.operandToken d id)
      if (s.tile t).frozen || (s.die d).xfers.any (fun y => decide (y.id < id) && y.inst == x.inst && y.tidx == x.tidx && y.rank == x.rank)
      then .next again
      else
        match x.bytes with
        | some bs => .next (landXfer s d r x bs)
        | none =>
          let (va, n, _) := xferRange r x
          match (if n = 0 then (s, VRead.data []) else readVirt s r.ctx va n) with
          | (_, .retry) => .next again
          | (s, .pageFault va) => .next (abortRecord s d x.inst x.tidx t 0x40 va 0 2)
          | (s, .error va) => .next (abortRecord s d x.inst x.tidx t 0x48 va 0 2)
          | (s, .poisoned va) => .next (abortRecord s d x.inst x.tidx t 0x41 va 0 2)
          | (s, .data bs) =>
            let bs := xferBytes s r x va bs
            .next (landXfer (shareBytes s d r x bs) d r x bs)

/-! ### The start of a task's strands (R26, R45, R165, R331) -/

/-- A front at its entry point with the launch values. -/
def frontStart (ent : Nat) (r : Rec) (seed : Word) : FrontState :=
  { (FrontState.reset.setReg 1 r.arg0).setReg 2 r.arg1 with pc := BitVec.ofNat 16 (ent * 64), sgen := seed }

/-- A strand starts on its tile. -/
def Tile.start (T : Tile) (r : Rec) (t rank : Nat) (tv : Word) : Tile :=
  let S := mix (r.seed + BitVec.ofNat 64 rank)
  { T with phase := .running, fa := frontStart r.aent r S, fx := frontStart r.xent r (~~~S), tid := BitVec.ofNat 64 t,
           rank := BitVec.ofNat 64 rank, crect := BitVec.ofNat 64 r.crect, ctx := BitVec.ofNat 64 r.ctx, tvec := tv }

/-- The fields of a latency monitor (R331). -/
def monLw (m : Word) : Nat := bits m 15 12

/-- The bucket of a latency. -/
def latencyBucket (l : Nat) : Nat := if l < 2 then 0 else min (Nat.log2 l) 31

/-- A unit of a virtual function has started after l cycles. -/
def latencyStart (s : State) (v l : Nat) : State :=
  let V := s.vf v
  if bits V.mon 0 0 = 0 ∨ monLw V.mon < 6 then s
  else
    let b := latencyBucket l
    let V := { V with buckets := Sparse.set 0 V.buckets b (Sparse.get 0 V.buckets b + 1), nstart := V.nstart + 1 }
    let s := s.setVf v V
    if V.nstart = 2 ^ monLw V.mon then s.post (.latencyWindowClose v) else s

/-- STRAND_START (R165). -/
def execStrandStart (d inst tidx : Nat) (s : State) : Out :=
  match s.rec? d inst tidx with
  | none => .next s
  | some r =>
    let v := (s.ctx r.ctx).vf
    if r.st != .runnable then .next s
    else if (s.vf v).frozen || !(s.vf v).sched || s.dieDown d then .next (s.post (.strandStart d inst tidx))
    else
      let tv := (s.ctx r.ctx).tv
      let s := r.place.zipIdx.foldl (fun s p => s.modTile p.1 (fun T => T.start r p.1 p.2 tv)) s
      let s := (s.modRec d inst tidx (fun r => { r with st := .running, started := s.cyc, left := r.tiles })).progress d inst
      .next (if (s.gang d r).all (fun q => q.st == .running || q.st == .done || q.st == .free) then latencyStart s v (s.cyc - r.joined).toNat else s)

/-! ### The end of a strand (R31, R151, R170, R227, R245, R259) -/

/-- Every instruction that the strand issued has completed, but for the lines it has gathered. -/
def drained (s : State) (t : Nat) : Bool :=
  let T := s.tile t
  T.mq.isEmpty && T.slots.toList.all Option.isNone && T.fires.isEmpty && T.fills.isEmpty && T.tswaps.isEmpty && T.sb.isEmpty &&
    T.chains.toList.all (fun c => c.st != .running) && T.fibre.st != .running && (s.strandTxns t).isEmpty

/-- Both fronts have executed END and everything issued has completed. -/
def finished (s : State) (t : Nat) : Bool :=
  let T := s.tile t
  !T.frozen && T.fa.ended && T.fx.ended && drained s t

/-- What retirement leaves of a tile. -/
def Tile.retire (T : Tile) : Tile :=
  let T := T.warnIf warnQres (T.sq.toList.any (fun q => !q.isEmpty) || T.vq.toList.any (fun q => !q.isEmpty))
  let T := T.warnIf warnMres (T.chans.toList.any (fun c => !c.payloads.isEmpty))
  let T := T.warnIf warnCres (T.cslots.toList.any Option.isSome)
  { T with phase := .retired, sq := Vector.replicate 8 [], vq := Vector.replicate 4 [], cslots := Vector.replicate 16 none,
           handles := Vector.replicate 8 none, held := [], chans := T.chans.map (fun c => { c with payloads := [] }),
           pipes := T.pipes.map (fun p => (p.1, { p.2 with held := 0 })) }

/-- A strand retires: slots released, gathered lines sent home, its lines promoted, its task told. -/
def retireStrand (s : State) (t : Nat) : State :=
  let T := s.tile t
  let s := releaseSlots s t
  let s := sendHomeIf (s.modTile t Tile.retire) t (fun _ => true)
  let s := promote s t
  match s.rec? (dieOf t) T.inst T.tidx with
  | none => s
  | some r =>
    let s := (s.modRec (dieOf t) T.inst T.tidx (fun r => { r with left := r.left - 1 })).progress (dieOf t) T.inst
    if r.left ≤ 1 then s.post (.taskDone (dieOf t) T.inst T.tidx) else s

/-- STRAND_RETIRE (R31); in event mode with no eligible channel the strand waits instead (R170). -/
def execStrandRetire (t : Nat) (s : State) : Out :=
  let T := s.tile t
  if T.phase != .running || !finished s t then .next s
  else if isJack t then .next (s.modTile t (fun T => { T with phase := .retired }))
  else if T.events then (if T.pickChan.isSome then .next s else .next (s.modTile t (fun T => { T with phase := .waiting })))
  else .next (retireStrand s t)

/-- A front resumes at a channel's entry with the payload and the channel's number. -/
def frontEntry (F : FrontState) (pc : Pc) (payload c : Nat) : FrontState :=
  { (F.setReg 1 (BitVec.ofNat 64 payload)).setReg 2 (BitVec.ofNat 64 c) with pc := pc, ended := false, wait := .none }

/-- EVENT_ENTRY (R170). -/
def execEventEntry (t : Nat) (s : State) : Out :=
  let T := s.tile t
  if !T.events || !(T.phase == .running || T.phase == .waiting) || !finished s t then .next s
  else match T.pickChan with
    | none => .next s
    | some c =>
      let ch := T.chan c
      let (p, T) := T.takeChan c
      .next (s.setTile t ({ T with phase := .running, fa := frontEntry T.fa (align4 ch.ae.toNat) p c, fx := frontEntry T.fx (align4 ch.xe.toNat) p c }.wake))

/-- A payload has reached its target and is held back at a full channel (R202). -/
def heldBack (s : State) (x : Txn) (p c : Nat) : Bool :=
  match peerAt s x.tile x.inst p with
  | .at u => ((s.tile u).chan c).val && decide (4 ≤ ((s.tile u).chan c).payloads.length)
  | _ => false

/-- A SIGNAL to the tiles of a task is in flight: it has not reached its target. -/
def signalTo (s : State) (d inst tidx : Nat) : Bool :=
  s.txns.any (fun x => x.unperformed && dieOf x.tile == d && x.inst == inst &&
    (match x.kind with
     | .signal p c _ => ((p == ownPeer && x.tidx == tidx) || (p != ownPeer && p / 256 == tidx)) && !heldBack s x p c
     | _ => false))

/-- EVENT_RETIRE (R170): every strand of the task is retired or waits, with no channel eligible and no SIGNAL in flight. -/
def execEventRetire (d inst tidx : Nat) (s : State) : Out :=
  match s.rec? d inst tidx with
  | none => .next s
  | some r =>
    let ts := r.place
    let quiet := fun (t : Nat) =>
      let T := s.tile t
      !T.frozen && (T.phase == .retired || (T.phase == .waiting && T.pickChan.isNone))
    if r.st != .running || !ts.all quiet || !ts.any (fun t => (s.tile t).phase == .waiting) || signalTo s d inst tidx then .next s
    else .next ((ts.filter (fun t => (s.tile t).phase == .waiting)).foldl retireStrand s)

/-! ### The end of a task (R155, R160, R168) -/

/-- A done record is parked by its extension array (R160). -/
def parkDone (s : State) (d : Nat) (r : Rec) (kind va info : Nat) : State :=
  let s := (unplace s d r).modRec d r.inst r.tidx (fun q => { q with st := .parked, place := [], left := 0, parkKind := kind })
  ((s.record d { va := va, kind := kind, aborts := r.aborts, ctx := r.ctx, inst := r.inst, tidx := r.tidx, die := d, cls := 2, info := info }).progress
    d r.inst).post (.placementPass d)

/-- A task is done: its decrements set out (to its own die unless the graph spans, R353), its tiles are freed, its graph is told. -/
def finishTask (s : State) (d : Nat) (r : Rec) (ext : List Nat) : State :=
  let s := (allSucc r ext).foldl (fun s e =>
    sendDecr s d (if 0x8000 ≤ r.inst then fld e 14 14 else d) { ctx := r.ctx, inst := r.inst, tidx := fld e 10 0, reply := none }) s
  let s := (unplace s d r).modRec d r.inst r.tidx (fun q => { q with st := .free, place := [], left := 0 })
  (graphLess (s.count (s.ctx r.ctx).vf 9 1) d r.inst).post (.placementPass d)

/-- Every access of the task's strands has been performed. -/
def taskQuiet (s : State) (r : Rec) : Bool :=
  r.place.all (fun t => (s.tile t).gather.isEmpty && (s.strandTxns t).isEmpty && !(s.tile t).frozen)

/-- TASK_DONE (R155, R160). -/
def execTaskDone (d inst tidx : Nat) (s : State) : Out :=
  match s.rec? d inst tidx with
  | none => .next s
  | some r =>
    if r.st != .running || r.left != 0 then .next s
    else if !taskQuiet s r then .next (s.post (.taskDone d inst tidx))
    else if r.nsx = 0 then .next (finishTask s d r [])
    else match readVirt s r.ctx r.sxva (2 * r.nsx) with
      | (_, .retry) => .next (s.post (.taskDone d inst tidx))
      | (s, .pageFault va) => .next (parkDone s d r 0x40 va 0)
      | (s, .error va) => .next (parkDone s d r 0x45 va 0x20)
      | (s, .poisoned va) => .next (parkDone s d r 0x45 va 0x23)
      | (s, .data bs) =>
        let ext := (List.range r.nsx).map (fun k => leNat ((bs.drop (2 * k)).take 2))
        if ext.any (fun e => fld e 15 15 == 0) then .next (parkDone s d r 0x45 0 0) else .next (finishTask s d r ext)

/-! ### The graph watchdog (R173, R325) -/

/-- The watchdog's interval has passed without progress. -/
def watchdogDue (s : State) (g : Graph) : Bool :=
  g.wdog != 0 && !(s.vf (s.ctx g.ctx).vf).frozen && decide (g.wdog * 2 ^ 16 ≤ (s.cyc - g.prog).toNat)

/-- GRAPH_WATCHDOG (R173): one error record for each record in states 1 to 4, 64 at most, in ascending template index. -/
def execGraphWatchdog (d inst : Nat) (s : State) : Out :=
  match s.graph? d inst with
  | none => .next s
  | some g =>
    if !watchdogDue s g then .next s
    else
      let rs := (byIndex ((s.die d).recs.filter (fun r => r.inst == inst && decide (1 ≤ r.st.code) && decide (r.st.code ≤ 4)))).take 64
      let s := rs.foldl (fun s r => s.record d { kind := 0x53, ctx := r.ctx, inst := inst, tidx := r.tidx, die := d, info := r.st.code }) s
      .next (s.progress d inst)

end Sys2Proof.Machine
end

