-- ==== Sys2Proof/Machine/System.lean ====
section
/-! DEFINITION. System and trap instructions (22): TRAP, ERET, CSRR, CSRW, CSRX, FREEZE, SCRUB, INVPG, WAYSET, LEHR, JCFG and
PERFSEL (R335 to R346), with the identification values of R379 and the jack image of R361. -/

namespace Sys2Proof.Machine

/-! ### Traps and return (R337) -/

/-- TRAP (R337): always the software-trap cause. -/
def execTrap (n : BitVec 12) (s : State) : Out :=
  issue s { instr := .trap n } (fun _ _ => .trap 0x10 (n.setWidth 64))

/-- ERET (R337). -/
def execEret (s : State) : Out :=
  issue s { instr := .eret, svc := true } (fun s _ => .done (eretOn s s.focus.1 s.focus.2))

/-! ### Control and status registers (R338, R339) -/

/-- mgid (R379). -/
def mgid (s : State) : Word :=
  let m := s.mg.min
  BitVec.ofNat 64 (1600 * 2 ^ 48 + (if m then 1 else 20) * 2 ^ 40 + (if m then 1 else 2) * 2 ^ 36 + 64 * 2 ^ 28 +
    (if m then 1 else 4) * 2 ^ 24 + 48 * 2 ^ 16 + (if m then 0 else 16) * 2 ^ 8 + 1)

/-- mgid2 (R379). -/
def mgid2 (s : State) : Word :=
  let m := s.mg.min
  BitVec.ofNat 64 (20 * 2 ^ 59 + 3 * 2 ^ 55 + 16 * 2 ^ 50 + 16 * 2 ^ 43 + 2560 * 2 ^ 30 + (if m then 0 else 10000) * 2 ^ 16 +
    (if m then 0 else 100) * 2 ^ 9 + 336)

/-- A channel entry as a register (R169). -/
def Chan.word (c : Chan) : Word :=
  BitVec.ofNat 64 (c.xe.toNat * 2 ^ 32 + c.ae.toNat * 2 ^ 16 + (if c.val then 2 ^ 15 else 0) + c.cpri.toNat * 2 ^ 12 +
    (if c.blk then 2 ^ 11 else 0) + c.payloads.length % 8 * 2 ^ 8)

/-- A fabric event (R333). -/
def fabricEvent (e : Nat) : Bool := decide (16 ≤ e) && decide (e ≤ 18)

/-- Event code selected for counter k. -/
def Vf.event (V : Vf) (k : Nat) : Nat := bits V.cfg (16 * k + 5) (16 * k)

/-- Bits of perfcfg that hold something (R332). -/
def perfcfgMask : Word := 0xC03FC03FC03FC03F#64

/-- A control and status register as a front reads it. -/
def csrGet (s : State) (t : Nat) (f : Front) (n : Nat) : Word :=
  let T := s.tile t
  let V := s.vf T.vf
  if n = 0x000 then (T.front f).rmode.setWidth 64
  else if n = 0x001 then (T.front f).sgen
  else if n = 0x002 then T.warn
  else if n = 0x010 then T.tid
  else if n = 0x011 then T.rank
  else if n = 0x012 then T.crect
  else if n = 0x013 then T.ctx
  else if n = 0x014 then s.cyc
  else if n = 0x015 then mgid s
  else if n = 0x016 then mgid2 s
  else if n = 0x020 then T.tvec
  else if n = 0x021 then T.tcause
  else if n = 0x022 then T.tval
  else if n = 0x023 then T.epca.setWidth 64
  else if n = 0x024 then T.epcx.setWidth 64
  else if n = 0x025 then (if T.slv then 1 else 0)
  else if n ≤ 0x033 then (if fabricEvent (V.event (n - 0x030)) then 0 else (V.perf.toList.getD (n - 0x030) 0).setWidth 64)
  else if n = 0x034 then V.cfg &&& perfcfgMask
  else (T.chan (n - 0x040)).word

/-- Bits of tvec that hold something (R308). -/
def tvecMask : Word := 0x1FFFCFFFC#64

/-- Bits of warn that hold something (R339). -/
def warnMask : Word := 0x7FFF#64

/-- A write to a channel entry (R169, R205): clearing val discards the payloads held. -/
def Tile.writeChan (T : Tile) (c : Nat) (v : Word) : Tile :=
  let ch := T.chan c
  let val := v.getLsbD 15
  ((T.setChan c { xe := BitVec.ofNat 16 (bits v 47 32), ae := BitVec.ofNat 16 (bits v 31 16), val := val, cpri := BitVec.ofNat 3 (bits v 14 12),
                  blk := v.getLsbD 11, payloads := if val then ch.payloads else [] }).warnIf warnMres (!val && !ch.payloads.isEmpty)).wake

/-- A write to a control and status register of the tile; `keep` holds the sticky bits that the same cycle raises (R27). -/
def Tile.writeCsr (T : Tile) (f : Front) (n : Nat) (v keep : Word) : Tile :=
  if n = 0x000 then
    (if 6 ≤ bits v 2 0 then T.warnBit warnRm else T.modFront f (fun F => { F with rmode := BitVec.ofNat 3 (bits v 2 0) }))
  else if n = 0x001 then T.modFront f (fun F => { F with sgen := v })
  else if n = 0x002 then { T with warn := (v &&& warnMask) ||| keep }
  else if n = 0x020 then { T with tvec := v &&& tvecMask }
  else if n = 0x023 then { T with epca := align4 (bits v 15 0) }
  else if n = 0x024 then { T with epcx := align4 (bits v 15 0) }
  else if 0x040 ≤ n then T.writeChan (n - 0x040) v
  else T

/-- A write to a counter sets its count (R338). -/
def writePerf (s : State) (v k : Nat) (x : Word) : State :=
  let V := s.vf v
  s.setVf v { V with perf := V.perf.setIfInBounds k (x.setWidth 48) }

/-- A write to a control and status register. -/
def csrPut (s : State) (t : Nat) (f : Front) (n : Nat) (v keep : Word) : State :=
  if 0x030 ≤ n ∧ n ≤ 0x033 then writePerf s (s.tile t).vf (n - 0x030) v
  else s.modTile t (fun T => T.writeCsr f n v keep)

/-- A register marked S-write. -/
def csrSWrite (c : BitVec 12) : Bool := c == 0x020 || c == 0x023 || c == 0x024

/-- The sticky bits that the issue of a word raises. -/
def issueWarns (s : State) (fm : Form) : Word := warnOf warnHint (fm.hintIgnored (s.cur.front s.focus.2).hints)

/-- CSRR (R338): the register as it stood at the start of the issue cycle. -/
def execCsrr (d : Reg) (c : BitVec 12) (s : State) : Out :=
  issueS s { instr := .csrr d c, unit := csrListed c } d (fun _ f _ => csrGet s s.focus.1 f c.toNat)

/-- CSRW (R338). -/
def execCsrw (a : Reg) (c : BitVec 12) (s : State) : Out :=
  let fm : Form := { instr := .csrw a c, unit := csrListed c && !csrReadOnly c, svc := csrSWrite c, rs := [a] }
  issue s fm (fun s' I => .done (csrPut s' s'.focus.1 s'.focus.2 c.toNat (I.s 0) (issueWarns s fm)))

/-- CSRX (R338): the old value to d, the operand to the register. -/
def execCsrx (d a : Reg) (c : BitVec 12) (s : State) : Out :=
  let fm : Form := { instr := .csrx d a c, unit := csrListed c && !csrReadOnly c, svc := csrSWrite c, rs := [a], ws := [d] }
  issue s fm (fun s' I =>
    .done ((csrPut s' s'.focus.1 s'.focus.2 c.toNat (I.s 0) (issueWarns s fm)).modTile s'.focus.1 (fun T =>
      T.putS s'.focus.2 d (csrGet s s.focus.1 s.focus.2 c.toNat))))

/-! ### Freezing and scrubbing (R330, R340, R341) -/

/-- The page masks and the group of a partition entry (R323). -/
def Vf.pages (V : Vf) : Nat := bits V.part 127 88
def Vf.grp (V : Vf) : Nat := bits V.part 81 77
def Vf.slen (V : Vf) : Nat := bits V.part 63 40
def Vf.sbase (V : Vf) : Nat := bits V.part 16 0

/-- Virtual functions with pages in the group of v, v itself left out. -/
def groupOf (s : State) (v : Nat) : List Nat :=
  (List.range 32).filter (fun u => u != v && (s.vf u).pages != 0 && (s.vf u).grp == (s.vf v).grp && (s.vf u).pages == (s.vf v).pages)

/-- A virtual function has work (R330): a record in states 2 to 4, or a saved image. -/
def hasWork (s : State) (v : Nat) : Bool :=
  !(s.vf v).image.isEmpty || (s.die0.recs ++ s.die1.recs).any (fun r => r.st.inFlight && (s.ctx r.ctx).vf == v)

/-- The virtual function that follows v in its group: the first with work in ascending number after it (R330). -/
def nextVf (s : State) (v : Nat) : Option Nat :=
  let us := (groupOf s v).filter (hasWork s)
  match us.find? (fun u => decide (v < u)) with
  | some u => some u
  | none => us.head?

/-- FREEZE (R340). -/
def execFreeze (d : Reg) (s : State) : Out :=
  issue s { instr := .freeze d, onX := false, ws := [d] } (fun s _ =>
    let v := s.cur.vf
    let none' := (s.vf v).slen == 0 || (nextVf s v).isNone
    let s := if none' || s.agenda.contains (.sliceEnd v) then s else s.post (.sliceEnd v)
    .done (s.modTile s.focus.1 (fun T => T.putS s.focus.2 d (if none' then 1 else 0))))

/-- Bytes of a unit of SCRUB and INVPG (R341). -/
def unitBytes : PageUnit → Nat
  | .k64 => 2 ^ 16
  | .m2 => 2 ^ 21
  | .g1 => 2 ^ 30

/-- SCRUB (R341): its writes are of class 0 at scope 4, line by line. -/
def execScrub (d a : Reg) (u : PageUnit) (n : BitVec 10) (s : State) : Out :=
  issue s { instr := .scrub d a u n, onX := false, rs := [a], ws := [d] } (fun s I =>
    let x := (I.s 0).toNat
    if 2 ^ 56 ≤ x then .trap 0x09 (I.s 0)
    else if x % unitBytes u ≠ 0 then .trap 0x0A (I.s 0)
    else if fenced s s.focus.1 0 then .wait
    else .done (launchTo s (newTxn s I (.scrub x (unitBytes u * (n.toNat + 1))) 0 0 4 (I.s 0)) (resS s d) .globalRequest))

/-! ### Translation and ways (R225, R342, R343) -/

/-- A system instruction that needs the sys bit of its context (R335): without it status 1 and nothing else; the body gives
the status that is written. -/
def capable (s : State) (fm : Form) (d : Reg) (body : State → Issue → Sum (Nat × Word) (State × Word)) : Out :=
  issue s { fm with onX := false, svc := true, ws := [d] } (fun s I =>
    let put := fun (s : State) (v : Word) => Verdict.done (s.modTile s.focus.1 (fun T => T.putS s.focus.2 d v))
    if !(s.ctx s.cur.ctx.toNat).sys then put s 1
    else match body s I with
      | .inl (code, val) => .trap code val
      | .inr (s, v) => put s v)

/-- The mappings of a range of a context are dropped (R225): translations, gather copies, then lines, written back to where
they were filled from. Every operation that translated before has been performed in its own step. -/
def invalidate (s : State) (ctx lo n : Nat) : State :=
  let s := { s with tlb := s.tlb.filter (fun e => !(e.ctx == ctx && overlap (e.page * 2 ^ e.size, 2 ^ e.size) (lo, n))) }
  let lines := (s.tiles.flatMap (fun p => (p.2.gather.filter (fun g => g.ctx == ctx && overlap (g.line, 128) (lo, n))).map (·.line))).eraseDups
  let s := lines.foldl (fun s l => recallLine s ctx l) s
  flushLines s (fun l => l.ctx == ctx && overlap (l.line, 128) (lo, n))

/-- INVPG (R342). -/
def execInvpg (d a : Reg) (u : PageUnit) (n : BitVec 10) (s : State) : Out :=
  capable s { instr := .invpg d a u n, rs := [a] } d (fun s I =>
    let w := I.s 0
    let base := bits w 55 16 * 2 ^ 16
    let c := bits w 9 0
    if bits w 63 56 ≠ 0 then .inl (0x09, w)
    else if bits w 15 10 ≠ 0 ∨ base % unitBytes u ≠ 0 then .inl (0x0A, w)
    else if !(s.ctx c).live || (s.ctx c).vf != s.cur.vf then .inr (s, 3)
    else .inr (invalidate s c base (unitBytes u * (n.toNat + 1)), 0))

/-- Bytes of one carve-out way of a die (R220), and of one save slot (R326). -/
def wayBytes : Nat := 2 ^ 26
def slotBytes : Nat := 2 ^ 24

/-- Set bits of a page mask. -/
def pagesOf (m : Nat) : Nat := popCount 20 m

/-- The save area of a partition entry fits a carve-out of cw ways on die d (R323, R326). -/
def areaFits (part : BitVec 128) (d cw : Nat) : Bool :=
  let n0 := pagesOf (bits part 107 88)
  let n1 := pagesOf (bits part 127 108)
  let slots := if d = 0 then n0 else if n1 = 0 then 0 else n0 + n1
  slots == 0 || decide (bits part 16 0 * 4096 + slots * slotBytes ≤ cw * wayBytes)

/-- Bytes lo to lo + n − 1 become zero, and hold no poison. -/
def zeroRange (s : State) (lo n : Nat) : State :=
  { s with pmem := s.pmem.filter (fun c => decide (c.1 < lo) || decide (lo + n ≤ c.1)),
           poison := s.poison.filter (fun a => decide (a < lo) || decide (lo + n ≤ a)) }

/-- The carve-out count of a die becomes cw (R220): lines of the ways taken leave; storage that joins or leaves the
carve-out holds zeros. -/
def setCarve (s : State) (d cw : Nat) : State :=
  let old := (s.die d).cw
  let s := flushLines s (fun l => homeSlice s l.line / 64 == d && decide (16 - cw ≤ l.way))
  let lo := min old cw
  let s := zeroRange s (carveBase + d * 0x20000000 + lo * wayBytes) ((max old cw - lo) * wayBytes)
  s.modDie d (fun D => { D with cw := cw })

/-- A way that another virtual function than v owns. -/
def otherOwns (s : State) (v mask : Nat) : Bool := (List.range 32).any (fun u => u != v && (s.vf u).share.toNat &&& mask != 0)

/-- Ways 15 down to 16 − cw as a mask. -/
def carveMask (cw : Nat) : Nat := 2 ^ 16 - 2 ^ (16 - cw)

/-- WAYSET.cw (R220, R343). -/
def execWaysetCw (d a : Reg) (s : State) : Out :=
  capable s { instr := .waysetCw d a, rs := [a] } d (fun s I =>
    let w := I.s 0
    let k := bits w 8 8
    let cw := bits w 3 0
    if bits w 63 9 ≠ 0 ∨ bits w 7 4 ≠ 0 ∨ 8 < cw then .inr (s, 3)
    else if (List.range 32).any (fun v => !areaFits (s.vf v).part k cw) then .inr (s, 3)
    else if otherOwns s s.cur.vf (carveMask cw - carveMask (s.die k).cw) then .inr (s, 2)
    else .inr (setCarve s k cw, 0))

/-- The way share of a virtual function becomes a mask (R221): its lines in the ways removed leave. -/
def setShare (s : State) (v mask : Nat) : State :=
  let gone := (s.vf v).share.toNat &&& (2 ^ 16 - 1 - mask)
  let s := flushLines s (fun l => (s.ctx l.ctx).vf == v && gone.testBit l.way)
  s.setVf v { s.vf v with share := BitVec.ofNat 16 mask }

/-- WAYSET.share (R221, R343). -/
def execWaysetShare (d a : Reg) (s : State) : Out :=
  capable s { instr := .waysetShare d a, rs := [a] } d (fun s I =>
    let w := I.s 0
    let v := bits w 20 16
    let mask := bits w 15 0
    if bits w 63 21 ≠ 0 then .inr (s, 3)
    else if otherOwns s v mask || mask &&& carveMask (max s.die0.cw s.die1.cw) != 0 then .inr (s, 2)
    else .inr (setShare s v mask, 0))

/-! ### The checkpoint engine (R344, R366) -/

/-- A descriptor or image at a local address (R286): a cause, or its bytes as a number. `none` while an earlier command
holds the read back (R149). -/
def capableImage (s : State) (fm : Form) (d a : Reg) (n : Nat) (body : State → Nat → State × Word) : Out :=
  issue s { fm with onX := false, svc := true, rs := [a], ws := [d] } (fun s I =>
    let put := fun (s : State) (v : Word) => Verdict.done (s.modTile s.focus.1 (fun T => T.putS s.focus.2 d v))
    if !(s.ctx s.cur.ctx.toNat).sys then put s 1
    else match spadCause (I.s 0).toNat n 64 with
      | some c => .trap c (I.s 0)
      | none =>
        if s.cur.sbClash [((I.s 0).toNat, n)] false then .wait
        else
          let (s, v) := body s (memNat s.cur.spad (I.s 0).toNat n)
          put s v)

/-- The descriptor breaks R366. -/
def lehrBad (D : BitVec 512) (ctx : Nat) : Bool :=
  bits D 301 0 != 0 || bits D 511 456 % 0x10000 != 0 || bits D 399 344 % 0x10000 != 0 || bits D 343 320 == 0 || bits D 311 302 != ctx

/-- LEHR.arm (R344, R366): at arming every block's dirty bit is set. -/
def execLehrArm (d a : Reg) (s : State) : Out :=
  capableImage s { instr := .lehrArm d a } d a 64 (fun s n =>
    let D := BitVec.ofNat 512 n
    if s.lehr.st = .armed ∨ s.lehr.st = .opened then (s, 2)
    else if lehrBad D s.cur.ctx.toNat then (s, 3)
    else ({ s with lehr := { s.lehr with desc := D, st := .armed, dirty := List.range (bits D 343 320), todo := [], count := 0,
                                         due := false } }, 0))

/-- The code of the lehr's state. -/
def LehrSt.code : LehrSt → Nat
  | .idle => 0
  | .armed => 1
  | .opened => 2
  | .stopped => 3

/-- LEHR.stat (R344). -/
def execLehrStat (d : Reg) (s : State) : Out :=
  capable s { instr := .lehrStat d } d (fun s _ => .inr (s, BitVec.ofNat 64 (s.lehr.epoch.toNat * 2 ^ 32 + s.lehr.st.code)))

/-- LEHR.disarm (R344): with an epoch open its answer waits for the epoch to close. -/
def execLehrDisarm (d : Reg) (s : State) : Out :=
  issue s { instr := .lehrDisarm d, onX := false, svc := true, ws := [d] } (fun s I =>
    let put := fun (s : State) (v : Word) => Verdict.done (s.modTile s.focus.1 (fun T => T.putS s.focus.2 d v))
    if !(s.ctx s.cur.ctx.toNat).sys then put s 1
    else match s.lehr.st with
      | .armed => put { s with lehr := { s.lehr with st := .idle, due := false } } 0
      | .opened =>
        let (id, s) := s.fresh
        let (ds, T) := s.cur.reserveS s.focus.2 d id
        .done { s.setTile s.focus.1 T with txns := s.txns ++ [{ newTxn s I .reply 0 0 5 0 with id := id, dest := ds }],
                                           lehr := { s.lehr with disarm := s.lehr.disarm ++ [id] } }
      | _ => put s 2)

/-! ### Jacks (R345, R361) -/

/-- A jack image: 1,024 bytes. -/
abbrev JackImage := BitVec 8192

def JackImage.swc (m : JackImage) : Nat := bits m 511 448
def JackImage.clen (m : JackImage) : Nat := bits m 445 438
def JackImage.ent (m : JackImage) : Nat := bits m 437 430

/-- Field [hi:lo] of adder k. -/
def JackImage.add (m : JackImage) (k hi lo : Nat) : Nat := bits m (512 + 128 * k + hi) (512 + 128 * k + lo)
def JackImage.op (m : JackImage) (k : Nat) : Nat := m.add k 127 124
def JackImage.fmt (m : JackImage) (k : Nat) : Nat := m.add k 123 122
def JackImage.in0 (m : JackImage) (k : Nat) : Nat := m.add k 121 117
def JackImage.in1 (m : JackImage) (k : Nat) : Nat := m.add k 116 112
def JackImage.out (m : JackImage) (k : Nat) : Nat := m.add k 111 107
def JackImage.addr (m : JackImage) (k : Nat) : Nat := m.add k 103 48
def JackImage.count (m : JackImage) (k : Nat) : Nat := m.add k 47 24

/-- Code word i. -/
def JackImage.word (m : JackImage) (i : Nat) : IWord := BitVec.ofNat 32 (bits m (1536 + 32 * i + 31) (1536 + 32 * i))

/-- An input code, an output code. -/
def JackImage.inOk (x : Nat) : Bool := decide (x ≤ 3) || (decide (8 ≤ x) && decide (x ≤ 16)) || x == 31
def JackImage.outOk (x : Nat) : Bool := decide (x ≤ 3) || x == 8 || x == 31

/-- Adder p takes the output of adder q, directly or through others, within n steps. -/
def JackImage.reaches (m : JackImage) (q : Nat) : Nat → Nat → Bool
  | 0, _ => false
  | n + 1, p => [m.in0 p, m.in1 p].any (fun i => decide (8 ≤ i) && decide (i < 16) && (i - 8 == q || m.reaches q n (i - 8)))

/-- An adder entry holds a reserved value, or lies on a cycle. -/
def JackImage.adderBad (m : JackImage) (k : Nat) : Bool :=
  decide (3 < m.op k) || m.fmt k == 3 || !inOk (m.in0 k) || !inOk (m.in1 k) || !outOk (m.out k) || m.add k 106 104 != 0 ||
    m.add k 23 0 != 0 || m.addr k % 256 != 0 || (m.op k != 0 && m.reaches k 8 k)

/-- A code word outside the port core's set. -/
def JackImage.wordBad (w : IWord) : Bool := bits w 31 26 == 0 || decide (0x13 < bits w 31 26) ||
    (match decodeWord w.toNat with | .ok _ => false | .error _ => true)

/-- The image is refused (R361). -/
def JackImage.bad (m : JackImage) (cyc : Nat) : Bool :=
  bits m 447 446 != 0 || bits m 429 0 != 0 || decide (208 < m.clen) || decide (m.swc < cyc + 4096) || (List.range 8).any m.adderBad ||
    (List.range m.clen).any (fun i => wordBad (m.word i))

def State.jack (s : State) (p : Nat) : Jack := Sparse.get Jack.reset s.jacks p
def State.setJack (s : State) (p : Nat) (J : Jack) : State := { s with jacks := Sparse.set Jack.reset s.jacks p J }

/-- JCFG (R345). -/
def execJcfg (d a : Reg) (p : BitVec 5) (s : State) : Out :=
  capableImage s { instr := .jcfg d a p, unit := decide (p.toNat ≤ 16) } d a 1024 (fun s n =>
    let m := BitVec.ofNat 8192 n
    let J := s.jack p.toNat
    if J.pend.isSome then (s, 2)
    else if JackImage.bad m s.cyc.toNat then (s, 3)
    else (s.setJack p.toNat { J with pend := some (s.cur.ctx.toNat, m) }, 0))

/-! ### Counter selection (R346) -/

/-- perfcfg with the field of counter k written. -/
def perfField (cfg : Word) (k : Nat) (v : Word) : Word :=
  let ovf := if v.getLsbD 15 then 0 else bits cfg (16 * k + 15) (16 * k + 15)
  setBits cfg (16 * k + 15) (16 * k) (ovf * 2 ^ 15 + bits v 14 14 * 2 ^ 14 + bits v 5 0)

/-- PERFSEL (R346). -/
def execPerfsel (a : Reg) (n : BitVec 2) (s : State) : Out :=
  issue s { instr := .perfsel a n, onX := false, rs := [a] } (fun s I =>
    let v := s.cur.vf
    let V := s.vf v
    .done (s.setVf v { V with cfg := perfField V.cfg n.toNat (I.s 0) }))

end Sys2Proof.Machine
end

