-- ==== Sys2Proof/Machine/Faults.lean ====
section
/-! DEFINITION. Containment of uncorrectable errors (20/R317 to R321), retransmission (R319) and the stop of a die (24/R357,
R358). -/

namespace Sys2Proof.Machine

/-! ### A die stops (R317, R357, R358) -/

/-- Keys of the claim-table entries of a die that are in use, and of all others. -/
def claimsOn (s : State) (p : Nat → Bool) : List Nat := (s.claims.map (·.1)).filter p

/-- An entry is lost: it becomes Free, its ticket stays, and every waiter receives GONE with handle 0 (R261, R317, R357). -/
def loseClaim (s : State) (dst : Nat → Bool) (k : Nat) : State :=
  let e := s.claim k
  let s := s.setClaim k { Claim.reset with tkt := e.tkt }
  (e.wl.filter (fun w => dst w.tile)).foldl (fun s w => sendClaimResult s w.tile w.slot (claimStatus 5 k 0 0) 0) s

/-- Entries homed on the stopped die are lost; those homed on the other drop its makers and waiters (R357). -/
def claimsStop (s : State) (d : Nat) : State :=
  let s := (claimsOn s (fun k => k / 2 ^ 21 % 2 == d)).foldl (fun s k => loseClaim s (fun t => dieOf t != d) k) s
  let ts := (s.tiles.map (·.1)).filter (fun t => !isJack t && dieOf t == d)
  ts.foldl (fun s t => releaseSlots s t) s

/-- Every task on a die ends: its strands and what they have outstanding are gone. -/
def strandsStop (s : State) (d : Nat) : State :=
  let on := fun (t : Nat) => if isJack t then decide (t % 0x1000 / 8 = d) && decide (t % 0x1000 < 16) else dieOf t == d
  let ts := (s.tiles.map (·.1)).filter on
  let s := { s with pins := s.pins.filter (fun p => !on p.owner), fences := s.fences.filter (fun f => !on f.tile),
                    txns := s.txns.filter (fun x => !on x.tile) }
  let s := ts.foldl (fun s t => if isFrozenKey t then dropImage s t else s.modTile t Tile.stopStrand) s
  s.modDie d (fun D => { D with recs := [], graphs := [], ready := [], resv := none, xfers := [], predec := [] })

/-- Spanning graphs are cancelled on the surviving die, with a fault record of kind 0x47 each (R358). -/
def spansStop (s : State) (e : Nat) : State :=
  ((s.die e).graphs.filter (fun g => g.span)).foldl (fun s g =>
    (cancelShare s e g.inst).record e { kind := 0x47, ctx := g.ctx, inst := g.inst, die := e, cls := 4 }) s

/-- A die stops (R357, R358): its tasks end, its slices' lines and translations are lost, and what depends on it fails. Its
memories stay as they are until the reset wipes them; nothing reaches them. -/
def dieLost (s : State) (d : Nat) : State :=
  let s := strandsStop (claimsStop s d) d
  let s := { s with llc := s.llc.filter (fun l => homeSlice s l.line / 64 != d), tlb := s.tlb.filter (fun e => e.slice / 64 != d),
                    pins := s.pins.filter (fun p => homeSlice s p.line / 64 != d) }
  let s := s.modDie d (fun D => { D with stopped := true })
  let s := if d = 1 then { s with mg := { s.mg with d1up := false } } else s
  spansStop s (1 - d)

/-- A die-fatal error (R317): a fault record, and the die stops. -/
def dieStop (s : State) (d kind : Nat) : State :=
  if (s.die d).stopped then s else dieLost (s.record d { kind := kind, die := d, cls := 4 }) d

/-! ### Uncorrectable errors (R317, R318, R321) -/

/-- The strand on a tile that an error ends: one of a record that is placed there. -/
def strandOn (s : State) (t : Nat) : Bool :=
  isJack t || (match s.rec? (dieOf t) (s.tile t).inst (s.tile t).tidx with | some r => r.place.contains t | none => false)

/-- Data of a physical line is destroyed: the dirty line that holds it, else the line in memory (R317). -/
def poisonLine (s : State) (pa : Nat) : State :=
  let l := pa / 128 * 128
  match s.llc.find? (fun m => m.dirty && m.pa == l) with
  | some m => s.setLine { m with poison := true }
  | none => match localTarget s pa with
    | some _ => s.setPoison pa true
    | none => s

/-- A stream's granule fails twice: its completion is delivered with err.xerr set (R318); which bytes it left behind is open. -/
def marverFail (s : State) (id : Nat) : State :=
  match s.txn? id with
  | none => s
  | some x =>
    match x.kind with
    | .copy D _ bar sb (some k) =>
      let m := (s.mslot k).image
      let n := SlotImage.gBytes m * Desc.granules D
      let s := if SlotImage.write m then (if Config.undefinedBit (s.freeAt 0) then (streamFlow s D x k).s else s)
        else s.modTile x.tile (fun T => { T with spad := memPut T.spad (cdBase D true) (openBytes s 0 n) })
      performed s x sb bar (if SlotImage.write m then 4096 * Desc.granules D else n) errXerr
    | _ => s

/-- UNCORRECTABLE_ERROR (R317). -/
def execUncorrectableError (site : ErrorSite) (s : State) : Out :=
  match site with
  | .tile t => .next (if strandOn s t then taskAbort s t 0x41 0 0 else s)
  | .checkedFire t acc =>
    .next (if strandOn s t && (match strandRec s t with | some r => r.chk | none => false) then taskAbort s t 0x42 0 acc else s)
  | .line pa => .next (poisonLine s pa)
  | .cleanLine ctx line =>
    .next { s with llc := s.llc.filter (fun l => !(l.ctx == ctx && l.line == line && !l.dirty)),
                   tlb := s.tlb.filter (fun e => !(e.ctx == ctx && e.page == line / 2 ^ e.size)) }
  | .claimEntry d k => .next (if k / 2 ^ 21 % 2 = d then loseClaim s (fun _ => true) k else s)
  | .record d inst tidx =>
    match s.rec? d inst tidx with
    | none => .next s
    | some r => .next ((cancelGraph s d inst).record d { kind := 0x47, ctx := r.ctx, inst := inst, tidx := tidx, die := d, cls := 2 })
  | .marver op again => .next (if again then marverFail s op else s)
  | .jack p again => .next (if again then s.record (p / 8 % 2) { kind := 0x46, cls := 3, info := p } else s)
  | .fibre t u again =>
    .next (if again && (s.tile t).fibre.st == .running && strandOn s t then taskAbort s t 0x46 0 u else s)
  | .die d kind => .next (dieStop s (d % 2) (if kind = 0x60 ∨ kind = 0x62 then kind else 0x61))

/-- CRC_RETRANSMIT (R319): the destination discards the transaction and the source sends it again, four times in all; then
the die of its source stops with kind 0x60. -/
def execCrcRetransmit (id : Nat) (s : State) : Out :=
  match s.txn? id with
  | none => .next s
  | some x =>
    if x.resp != .pending then .next s
    else if 3 ≤ x.tries then .next (dieStop s (dieOf x.tile) 0x60)
    else .next (s.modTxn id (fun x => { x with tries := x.tries + 1 }))

end Sys2Proof.Machine
end

