-- ==== Sys2Proof/Machine/Fibre.lean ====
section
/-! DEFINITION. Fibre units (17/R278 to R285, 18/R299 to R302, 19/R304): the image and its checks, FCFG, FRUN, FSTAT, one
firing of a unit, and the faults of a graph. An element is a COORD with its REF or VALUE; a unit consumes and emits it
whole (log 25). -/

namespace Sys2Proof.Machine

/-! ### The image (R299) -/

/-- Kinds of unit. -/
inductive FKind | scanner | intersecter | unioner | repeater | reducer | reader | alu | writer | decoupler
  deriving DecidableEq, Repr

/-- Kind of unit u. -/
def fKind (u : Nat) : FKind :=
  if u < 8 then .scanner else if u < 12 then .intersecter else if u < 14 then .unioner else if u < 18 then .repeater
  else if u < 22 then .reducer else if u < 26 then .reader else if u < 30 then .alu else if u < 32 then .writer else .decoupler

/-- Entry u of an image. -/
def fEntry (cfg : List (BitVec 128)) (u : Nat) : BitVec 128 := cfg.getD u 0

def FEntry.en (e : BitVec 128) : Bool := e.getLsbD 127
def FEntry.in0 (e : BitVec 128) : Nat := bits e 126 120
def FEntry.in1 (e : BitVec 128) : Nat := bits e 119 113
def FEntry.op (e : BitVec 128) : Nat := bits e 112 109
def FEntry.si32 (e : BitVec 128) : Bool := e.getLsbD 108
def FEntry.p0 (e : BitVec 128) : Nat := bits e 103 84
def FEntry.p1 (e : BitVec 128) : Nat := bits e 83 64
def FEntry.p2 (e : BitVec 128) : Nat := bits e 63 44
def FEntry.n (e : BitVec 128) : Nat := bits e 43 24

/-- Port ids that are no port. -/
def fRoot : Nat := 0x7E
def fNone : Nat := 0x7F

/-- Units in use. -/
def fUnits (cfg : List (BitVec 128)) : List Nat := (List.range 34).filter (fun u => FEntry.en (fEntry cfg u))

/-- A port exists and its unit is in use. -/
def fPortOk (cfg : List (BitVec 128)) (p : Nat) : Bool :=
  decide (p / 2 < 34) && FEntry.en (fEntry cfg (p / 2)) && fKind (p / 2) != .writer &&
    (p % 2 == 0 || fKind (p / 2) == .intersecter || fKind (p / 2) == .unioner)

/-- Units with two inputs. -/
def FKind.pairs : FKind → Bool
  | .intersecter | .unioner | .repeater => true
  | _ => false

/-- Code 6 of R300. -/
def fReserved (u : Nat) (e : BitVec 128) : Bool :=
  bits e 107 104 != 0 || bits e 23 0 != 0 ||
    (match fKind u with
     | .scanner => decide (1 < FEntry.op e)
     | .alu => decide (4 < FEntry.op e)
     | _ => FEntry.op e != 0)

/-- Code 3 of R300. -/
def fBadPort (cfg : List (BitVec 128)) (u : Nat) : Bool :=
  let e := fEntry cfg u
  let a := FEntry.in0 e
  let b := FEntry.in1 e
  let known := fun p => p == fRoot || p == fNone || fPortOk cfg p
  !known a || !known b || (a == fRoot && fKind u != .scanner) || b == fRoot || a == fNone || ((fKind u).pairs && b == fNone) ||
    (!(fKind u).pairs && fKind u != .alu && b != fNone)

/-- Code 4 of R300: a range outside the scratchpad or misaligned. -/
def fBadRange (u : Nat) (e : BitVec 128) : Bool :=
  let bad := fun (a n al : Nat) => a % al != 0 || decide (spadEnd < a + n)
  match fKind u with
  | .scanner => FEntry.op e == 0 && (bad (FEntry.p0 e) (4 * FEntry.n e) 4 || FEntry.p1 e % 4 != 0)
  | .reader => bad (FEntry.p0 e) (4 * FEntry.n e) 4
  | .writer => bad (FEntry.p0 e) (4 * FEntry.n e) 4 || bad (FEntry.p1 e) (4 * FEntry.n e) 4 || bad (FEntry.p2 e) (4 * FEntry.n e + 4) 4
  | .decoupler => bad (FEntry.p0 e) (256 * FEntry.n e) 256
  | _ => false

/-- Inputs fed by a port: a unit and the number of its input. -/
def fFed (cfg : List (BitVec 128)) (p : Nat) : List (Nat × Nat) :=
  (fUnits cfg).flatMap (fun u =>
    (if FEntry.in0 (fEntry cfg u) = p then [(u, 0)] else []) ++ (if FEntry.in1 (fEntry cfg u) = p then [(u, 1)] else []))

/-- Output ports of a unit. -/
def fOuts (u : Nat) : List Nat :=
  match fKind u with
  | .writer => []
  | .intersecter | .unioner => [2 * u, 2 * u + 1]
  | _ => [2 * u]

/-- Unit v is reached from unit u along edges within n steps. -/
def fReaches (cfg : List (BitVec 128)) (v : Nat) : Nat → Nat → Bool
  | 0, _ => false
  | n + 1, u => ((fOuts u).flatMap (fFed cfg)).any (fun w => w.1 == v || fReaches cfg v n w.1)

/-- The port on which a path goes on from an input: none through a decoupler or a writer (R283). -/
def fOnward (u i : Nat) : Option Nat :=
  match fKind u with
  | .writer | .decoupler => none
  | .intersecter | .unioner => some (2 * u + i)
  | _ => some (2 * u)

/-- The inputs that a port's stream reaches with no decoupler between. -/
def fPaths (cfg : List (BitVec 128)) : Nat → Nat → List (Nat × Nat)
  | 0, _ => []
  | n + 1, p => (fFed cfg p).flatMap (fun w => w :: (match fOnward w.1 w.2 with | some q => fPaths cfg n q | none => []))

/-- Two paths from one output meet at a binary unit with no decoupler on either. -/
def fMeets (cfg : List (BitVec 128)) (u : Nat) : Bool :=
  (fUnits cfg).any (fun w => (fOuts w).any (fun p =>
    let ps := fPaths cfg 34 p
    ps.contains (u, 0) && ps.contains (u, 1)))

/-- The answer of FCFG: code and unit, in the order 6, 3, 4, 1, 2, 5 (R300). -/
def fCheck (cfg : List (BitVec 128)) : Nat × Nat :=
  let us := fUnits cfg
  match us.find? (fun u => fReserved u (fEntry cfg u)) with
  | some u => (6, u)
  | none =>
    match us.find? (fBadPort cfg) with
    | some u => (3, u)
    | none =>
      match us.find? (fun u => fBadRange u (fEntry cfg u)) with
      | some u => (4, u)
      | none =>
        match us.find? (fun u => fReaches cfg u 34 u) with
        | some u => (1, u)
        | none =>
          match us.find? (fMeets cfg) with
          | some u => (2, u)
          | none => if us.any (fun u => fKind u == .writer) then (0, 0) else (5, 0)

/-! ### FCFG, FRUN, FSTAT (R300 to R302) -/

/-- The fibre units exist on F-tiles alone (R20). -/
def fibreHere (s : State) : Bool := !isJack s.focus.1 && isF s.focus.1

/-- FCFG (R300). -/
def execFcfg (d a : Reg) (s : State) : Out :=
  issue s { instr := .fcfg d a, onX := false, unit := fibreHere s, rs := [a], ws := [d] } (fun s I =>
    let x := (I.s 0).toNat
    match spadCause x 544 64 with
    | some c => .trap c (I.s 0)
    | none =>
      if s.localHeld s.focus.2 x 544 false || s.cur.fibre.st == .running then .wait
      else
        let T := s.cur
        let cfg := (List.range 34).map (fun u => BitVec.ofNat 128 (memNat T.spad (x + 16 * u) 16))
        let (code, u) := fCheck cfg
        let T := if code = 0 then { T with fibre := { T.fibre with cfg := cfg, st := .idle, units := [], trunc := false, fault := 0, funit := 0, ftok := 0 } }
          else T
        .done (s.setTile s.focus.1 (T.putS s.focus.2 d (BitVec.ofNat 64 (u * 2 ^ 8 + code)))))

/-- A token (R278). -/
def tok (kind aux v : Nat) : Token := BitVec.ofNat 40 (kind * 2 ^ 37 + aux * 2 ^ 32 + v % 2 ^ 32)
def tokCoord (c : Nat) : Token := tok 0 0 c
def tokRef (r : Nat) : Token := tok 1 0 r
def tokStop (l : Nat) : Token := tok 2 l 0
def tokDone : Token := tok 3 0 0
def tokValue (v : Nat) : Token := tok 4 0 v

def InPort.reset : InPort := { q := [], n := 0, last := none, top := false }

/-- A unit at the start of a run; a root scanner has received REF 0. -/
def unitStart (e : BitVec 128) : UnitState :=
  { in0 := { InPort.reset with q := if FEntry.in0 e = fRoot then [tokCoord 0, tokRef 0, tokDone] else [] }, in1 := .reset, buf := [],
    fin := false, held := false, cur := none, ref := 0, prev := 0, acc := none, k := 0, nr := 0, go := false, elems := 0, stops := 0,
    bytes := 0, short := false }

/-- A word of the tile's scratchpad. -/
def Tile.word (T : Tile) (a : Nat) : Nat := memNat T.spad a 4

/-- Scratchpad ranges of a unit: those it reads and those it writes (R299). -/
def fRanges (T : Tile) (u : Nat) (e : BitVec 128) : List (Nat × Nat) × List (Nat × Nat) :=
  let n := FEntry.n e
  match fKind u with
  | .scanner =>
    if FEntry.op e ≠ 0 then ([], [])
    else
      let last := if n = 0 then 0 else 4 * T.word (FEntry.p0 e + 4 * (n - 1))
      ([(FEntry.p0 e, 4 * n), (FEntry.p1 e, min last (spadEnd - FEntry.p1 e))], [])
  | .reader => ([(FEntry.p0 e, 4 * n)], [])
  | .writer => ([], [(FEntry.p0 e, 4 * n), (FEntry.p1 e, 4 * n), (FEntry.p2 e, 4 * n + 4)])
  | .decoupler => ([], [(FEntry.p0 e, 256 * n)])
  | _ => ([], [])

/-- The spill regions hold no defined value during a run and after it (R283). -/
def spillOpen (s : State) (t k : Nat) : State :=
  let fill := fun (cfg : List (BitVec 128)) (m : List Host.Cell) (u : Nat) =>
    memPut m (FEntry.p0 (fEntry cfg u)) (openBytes s (k + u * 2 ^ 20) (256 * FEntry.n (fEntry cfg u)))
  s.modTile t (fun T => { T with spad := ((fUnits T.fibre.cfg).filter (fun u => fKind u == .decoupler)).foldl (fill T.fibre.cfg) T.spad })

/-- FRUN (R301). -/
def execFrun (a : Reg) (s : State) : Out :=
  issue s { instr := .frun a, onX := false, unit := fibreHere s, rs := [a], hpri := true } (fun s I =>
    let bar := (I.s 0).toNat
    let t := s.focus.1
    match spadCause bar 16 16 with
    | some c => .trap c (I.s 0)
    | none =>
      if s.cur.fibre.cfg.isEmpty then .trap 0x0F (I.s 0)
      else if s.cur.fibre.st == .running then .wait
      else
        let (r, T) := s.cur.sample s.focus.2 true
        let id := s.nextId
        let cfg := T.fibre.cfg
        let rs := (fUnits cfg).map (fun u => fRanges T u (fEntry cfg u))
        let T := T.sbRanges id (rs.flatMap (·.1), rs.flatMap (·.2))
        let F : Fibre :=
          { T.fibre with st := .running, units := (List.range 34).map (fun u => unitStart (fEntry cfg u)), bar := bar,
                         mode := BitVec.ofNat 3 r.mode, seed := r.seed, opId := id, sb := id, ipc := I.ipc, trunc := false, fault := 0,
                         funit := 0, ftok := 0 }
        let (_, s) := (spillOpen (s.setTile t { T with fibre := F }) t (2 ^ 62)).fresh
        .done { s with txns := s.txns ++ [{ newTxn s I .fibreRun 0 0 0 0 with id := id, mode := F.mode, seed := r.seed }] })

/-- Codes of R302. -/
def FibreSt.code : FibreSt → Nat
  | .unconfigured => 0
  | .idle => 1
  | .running => 2
  | .faulted => 3

/-- FSTAT (R302). -/
def execFstat (d : Reg) (s : State) : Out :=
  issueS s { instr := .fstat d, onX := false, unit := fibreHere s } d (fun T _ _ =>
    let F := T.fibre
    BitVec.ofNat 64 (F.ftok % 2 ^ 32 * 2 ^ 32 + F.funit * 2 ^ 5 + (if F.trunc then 2 ^ 4 else 0) + F.fault * 2 ^ 2 + F.st.code))

/-! ### Streams as units see them (R279, R284) -/

/-- The oldest item of an input: an element with the kind of its second token, a stop, DONE. -/
inductive Item | elem (c v : Nat) (value : Bool) | stop (l : Nat) | done
  deriving DecidableEq, Repr

/-- Tokens of an item. -/
def Item.size : Item → Nat
  | .elem _ _ _ => 2
  | _ => 1

def Item.tokens : Item → List Token
  | .elem c v value => [tokCoord c, if value then tokValue v else tokRef v]
  | .stop l => [tokStop l]
  | .done => [tokDone]

/-- Level of the stream on a port (R280, R304), found within n steps. -/
def fLevel (cfg : List (BitVec 128)) : Nat → Nat → Int
  | 0, _ => 0
  | n + 1, p =>
    let u := p / 2
    let e := fEntry cfg u
    match fKind u with
    | .scanner => if FEntry.in0 e = fRoot then 0 else fLevel cfg n (FEntry.in0 e) + 1
    | .repeater => fLevel cfg n (FEntry.in1 e)
    | .reducer => fLevel cfg n (FEntry.in0 e) - 1
    | _ => fLevel cfg n (FEntry.in0 e)

/-- What an input shows: nothing yet, an item, or a break of the stream's form at a token index. -/
inductive Head | wait | item (i : Item) (ix : Nat) | bad (ix : Nat)
  deriving DecidableEq, Repr

/-- The oldest item of an input of level lv (R284): kinds, aux, coordinate order, pairing, stops and DONE. -/
def InPort.head (p : InPort) (lv : Int) : Head :=
  match p.q with
  | [] => .wait
  | t :: rest =>
    let kind := bits t 39 37
    let aux := bits t 36 32
    let v := bits t 31 0
    if kind = 0 then
      if aux != 0 || p.top || (match p.last with | some c => decide (v ≤ c) | none => false) then .bad p.n
      else match rest with
        | [] => .wait
        | r :: _ =>
          if (bits r 39 37 = 1 ∨ bits r 39 37 = 4) ∧ bits r 36 32 = 0 then .item (.elem v (bits r 31 0) (bits r 39 37 == 4)) p.n
          else .bad (p.n + 1)
    else if kind = 2 then
      if 4 ≤ aux ∨ lv < (aux : Int) ∨ p.top then .bad p.n else .item (.stop aux) p.n
    else if kind = 3 then (if aux ≠ 0 ∨ !p.top then .bad p.n else .item .done p.n)
    else .bad p.n

/-- An item is consumed from an input of level lv. -/
def InPort.pop (p : InPort) (lv : Int) (i : Item) : InPort :=
  { q := p.q.drop i.size, n := p.n + i.size,
    last := (match i with | .elem c _ _ => some c | _ => none), top := (match i with | .stop l => decide ((l : Int) = lv) | _ => p.top) }

/-- A root scanner's input: its DONE needs no stop before it. -/
def UnitState.head0 (U : UnitState) (e : BitVec 128) (lv : Int) : Head :=
  if FEntry.in0 e = fRoot then
    match U.in0.q with
    | [] => .wait
    | [_] => .item .done 0
    | _ => .item (.elem 0 0 false) 0
  else U.in0.head lv

/-! ### One firing (R280 to R284, R299, R304) -/

/-- How a unit stands: it cannot fire, fires with new state and items for its ports, or meets a fault. `mem` and `upd`
say what a writer stores and counts. -/
inductive Fired
  | no
  | yes (U : UnitState) (out0 out1 : List Item) (mem : List (Nat × Nat))
  | bad (ix : Nat)

/-- Unit u's state in a run. -/
def Fibre.unit (F : Fibre) (u : Nat) : UnitState := F.units.getD u (unitStart 0)

/-- Level of an input. -/
def inLevel (cfg : List (BitVec 128)) (u i : Nat) : Int :=
  let e := fEntry cfg u
  fLevel cfg 35 (if i = 0 then FEntry.in0 e else FEntry.in1 e)

/-- A scanner (R299, R304). -/
def fireScanner (T : Tile) (e : BitVec 128) (lv : Int) (U : UnitState) : Fired :=
  let dense := FEntry.op e == 1
  match U.cur with
  | some (j, n) =>
    let U' := { U with cur := if j + 1 < n then some (j + 1, n) else none }
    if dense then .yes U' [.elem j ((U.ref * FEntry.n e + j) % 2 ^ 32) false] [] []
    else .yes U' [.elem (T.word (FEntry.p1 e + 4 * j)) j false] [] []
  | none =>
    match U.head0 e lv with
    | .wait => .no
    | .bad ix => .bad ix
    | .item (.elem c r value) ix =>
      let at1 := if FEntry.in0 e = fRoot then ix else ix + 1
      if value then .bad at1
      else
        let lo := if dense then 0 else T.word (FEntry.p0 e + 4 * r)
        let hi := if dense then FEntry.n e else T.word (FEntry.p0 e + 4 * r + 4)
        if !dense && (decide (FEntry.n e ≤ r + 1) || decide (hi < lo) || (decide (lo < hi) && decide (spadEnd < FEntry.p1 e + 4 * hi))) then .bad at1
        else .yes { U with in0 := U.in0.pop lv (.elem c r value), ref := r, held := true, cur := if lo < hi then some (lo, hi) else none }
          (if U.held then [.stop 0] else []) [] []
    | .item (.stop l) ix => if 3 ≤ l then .bad ix else .yes { U with in0 := U.in0.pop lv (.stop l), held := false } [.stop (l + 1)] [] []
    | .item .done _ =>
      if U.held then .yes { U with held := false } [.stop 0] [] []
      else .yes { U with in0 := U.in0.pop lv .done, fin := true } [.done] [] []

/-- The second token of an absent side's element (R280). -/
def absentRef : Nat := 0xFFFFFFFF

/-- An intersecter or unioner (R280, R282, R304). -/
def fireMerge (union : Bool) (lv0 lv1 : Int) (U : UnitState) : Fired :=
  match U.in0.head lv0, U.in1.head lv1 with
  | .bad ix, _ => .bad ix
  | _, .bad ix => .bad ix
  | .item i ix, .item j _ =>
    let p0 := U.in0.pop lv0 i
    let p1 := U.in1.pop lv1 j
    match i, j with
    | .elem c x v, .elem d y w =>
      if c = d then .yes { U with in0 := p0, in1 := p1 } [.elem c x v] [.elem d y w] []
      else if c < d then .yes { U with in0 := p0 } (if union then [.elem c x v] else []) (if union then [.elem c absentRef false] else []) []
      else .yes { U with in1 := p1 } (if union then [.elem d absentRef false] else []) (if union then [.elem d y w] else []) []
    | .elem c x v, _ => .yes { U with in0 := p0 } (if union then [.elem c x v] else []) (if union then [.elem c absentRef false] else []) []
    | _, .elem d y w => .yes { U with in1 := p1 } (if union then [.elem d absentRef false] else []) (if union then [.elem d y w] else []) []
    | .stop l, .stop m => if l = m then .yes { U with in0 := p0, in1 := p1 } [.stop l] [.stop l] [] else .bad ix
    | .done, .done => .yes { U with in0 := p0, in1 := p1, fin := true } [.done] [.done] []
    | _, _ => .bad ix
  | _, _ => .no

/-- A level-0 fibre of the shape begins with this item. -/
def beginsFibre (U : UnitState) : Item → Bool
  | .elem _ _ _ => true
  | .stop l => !(decide (1 ≤ l) && U.prev == 0)
  | .done => false

/-- A repeater (R304). -/
def fireRepeater (lv0 lv1 : Int) (U : UnitState) : Fired :=
  match U.in1.head lv1 with
  | .wait => .no
  | .bad ix => .bad ix
  | .item j _ =>
    if U.cur.isNone && beginsFibre U j then
      match U.in0.head lv0 with
      | .wait => .no
      | .bad ix => .bad ix
      | .item (.elem c r false) _ => .yes { U with in0 := U.in0.pop lv0 (.elem c r false), cur := some (0, 0), ref := r } [] [] []
      | .item (.elem _ _ true) ix => .bad (ix + 1)
      | .item _ ix => .bad ix
    else match j with
      | .elem c r v => .yes { U with in1 := U.in1.pop lv1 (.elem c r v), prev := 1 } [.elem c U.ref false] [] []
      | j =>
        match U.in0.head lv0 with
        | .wait => .no
        | .bad ix => .bad ix
        | .item i ix =>
          if i = j then .yes { U with in0 := U.in0.pop lv0 i, in1 := U.in1.pop lv1 j, cur := none, fin := i == .done,
                                      prev := (match j with | .stop 0 => 2 | _ => 0) } [j] [] []
          else .bad ix

/-- A value reader (R280, R284). -/
def fireReader (T : Tile) (e : BitVec 128) (lv : Int) (U : UnitState) : Fired :=
  match U.in0.head lv with
  | .wait => .no
  | .bad ix => .bad ix
  | .item (.elem c r value) ix =>
    if value || (r != absentRef && decide (FEntry.n e ≤ r)) then .bad (ix + 1)
    else .yes { U with in0 := U.in0.pop lv (.elem c r value) }
      [.elem c (if r = absentRef then 0 else T.word (FEntry.p0 e + 4 * r)) true] [] []
  | .item i _ => .yes { U with in0 := U.in0.pop lv i, fin := i == .done } [i] [] []

/-- A result of a value ALU or a reducer's add (R280, R281). -/
def fibreCalc (F : Fibre) (u nr : Nat) (si : Bool) (op x y : Nat) : Nat :=
  let r : Rnd := { mode := F.mode.toNat, seed := F.seed, i := u * 2 ^ 32 + nr }
  match si, op with
  | false, 0 => fAdd fmtFP32 r x y
  | false, 1 => fSub fmtFP32 r x y
  | false, 2 => fMul fmtFP32 r x y
  | false, 3 => fMin fmtFP32 x y
  | false, _ => fMax fmtFP32 x y
  | true, 0 => aluAdd 32 x y
  | true, 1 => aluSub 32 x y
  | true, 2 => aluMul 32 x y
  | true, 3 => aluMin 32 x y
  | true, _ => aluMax 32 x y

/-- A value ALU (R299, R304). -/
def fireAlu (F : Fibre) (u : Nat) (e : BitVec 128) (lv0 lv1 : Int) (U : UnitState) : Fired :=
  let two := FEntry.in1 e != fNone
  match U.in0.head lv0, (if two then U.in1.head lv1 else U.in0.head lv0) with
  | .bad ix, _ => .bad ix
  | _, .bad ix => .bad ix
  | .item i ix, .item j jx =>
    let U' := { U with in0 := U.in0.pop lv0 i, in1 := if two then U.in1.pop lv1 j else U.in1 }
    match i, j with
    | .elem c x v, .elem d y w =>
      if !v then .bad (ix + 1) else if !w then .bad (jx + 1) else if c ≠ d then .bad ix
      else .yes { U' with nr := U.nr + 1 } [.elem c (fibreCalc F u U.nr (FEntry.si32 e) (FEntry.op e) x (if two then y else 0)) true] [] []
    | i, j => if i = j then .yes { U' with fin := i == .done } [i] [] [] else .bad ix
  | _, _ => .no

/-- A reducer (R281, R304). -/
def fireReducer (F : Fibre) (u : Nat) (e : BitVec 128) (lv : Int) (U : UnitState) : Fired :=
  match U.in0.head lv with
  | .wait => .no
  | .bad ix => .bad ix
  | .item i ix =>
    let U' := { U with in0 := U.in0.pop lv i }
    let sum : Item := .elem U.k (U.acc.getD 0) true
    match i with
    | .elem _ x v =>
      if !v then .bad (ix + 1)
      else match U.acc with
        | none => .yes { U' with acc := some x, prev := 1 } [] [] []
        | some a => .yes { U' with acc := some (fibreCalc F u U.nr (FEntry.si32 e) 0 a x), nr := U.nr + 1, prev := 1 } [] [] []
    | .stop 0 => .yes { U' with acc := none, k := U.k + 1, prev := 2 } [sum] [] []
    | .stop (l + 1) => .yes { U' with acc := none, k := 0, prev := 0 } ((if U.prev = 0 then [] else [sum]) ++ [.stop l]) [] []
    | .done => if lv < 1 then .bad ix else .yes { U' with fin := true } [.done] [] []

/-- A writer (R285, R299, R304). -/
def fireWriter (e : BitVec 128) (lv : Int) (U : UnitState) : Fired :=
  match U.in0.head lv with
  | .wait => .no
  | .bad ix => .bad ix
  | .item i _ =>
    let n := FEntry.n e
    let first := if U.go then [] else [(FEntry.p2 e, 0)]
    let U' := { U with in0 := U.in0.pop lv i, go := true, bytes := U.bytes + (if U.go then 0 else 4) }
    match i with
    | .elem c v _ =>
      if U.elems < n then
        .yes { U' with elems := U.elems + 1, bytes := U'.bytes + 8 } [] []
          (first ++ [(FEntry.p0 e + 4 * U.elems, c), (FEntry.p1 e + 4 * U.elems, v)])
      else .yes { U' with short := true } [] [] first
    | .stop 0 =>
      if U.stops < n then
        .yes { U' with stops := U.stops + 1, bytes := U'.bytes + 4 } [] [] (first ++ [(FEntry.p2 e + 4 * (U.stops + 1), U.elems)])
      else .yes { U' with short := true } [] [] first
    | .stop _ => .yes U' [] [] first
    | .done => .yes { U' with fin := true } [] [] first

/-- Places of a decoupler (R283). -/
def decouplerRoom (e : BitVec 128) : Nat := 64 + 32 * FEntry.n e

/-- The oldest item a decoupler holds. -/
def bufItem (buf : List Token) : Option Item :=
  match ({ q := buf, n := 0, last := none, top := true } : InPort).q with
  | [] => none
  | t :: rest =>
    let v := bits t 31 0
    match bits t 39 37, rest with
    | 0, r :: _ => some (.elem v (bits r 31 0) (bits r 39 37 == 4))
    | 2, _ => some (.stop (bits t 36 32))
    | _, _ => some .done

/-- A decoupler takes an item when it has places. -/
def decouplerTake (e : BitVec 128) (lv : Int) (U : UnitState) : Fired :=
  match U.in0.head lv with
  | .wait => .no
  | .bad ix => .bad ix
  | .item i _ =>
    if decouplerRoom e < U.buf.length + i.size then .no
    else .yes { U with in0 := U.in0.pop lv i, buf := U.buf ++ i.tokens } [] [] []

/-- Tokens an edge holds (R282). -/
def edgeRoom : Nat := 64

/-- The inputs fed by a port have room for items. -/
def Fibre.room (F : Fibre) (p : Nat) (is : List Item) : Bool :=
  is.isEmpty || (fFed F.cfg p).all (fun w =>
    let U := F.unit w.1
    decide ((if w.2 = 0 then U.in0 else U.in1).q.length + (is.map Item.size).sum ≤ edgeRoom))

/-- A decoupler: an item leaves when its edge has room, else one enters. -/
def fireDecoupler (F : Fibre) (u : Nat) (e : BitVec 128) (lv : Int) (U : UnitState) : Fired :=
  match bufItem U.buf with
  | some i =>
    if F.room (2 * u) [i] then .yes { U with buf := U.buf.drop i.size, fin := i == .done } [i] [] [] else decouplerTake e lv U
  | none => decouplerTake e lv U

/-- What unit u can do now. -/
def Tile.fibreTry (T : Tile) (u : Nat) : Fired :=
  let F := T.fibre
  let e := fEntry F.cfg u
  let U := F.unit u
  let lv0 := inLevel F.cfg u 0
  let lv1 := inLevel F.cfg u 1
  if !FEntry.en e || U.fin then .no
  else
    let r := match fKind u with
      | .scanner => fireScanner T e lv0 U
      | .intersecter => fireMerge false lv0 lv1 U
      | .unioner => fireMerge true lv0 lv1 U
      | .repeater => fireRepeater lv0 lv1 U
      | .reducer => fireReducer F u e lv0 U
      | .reader => fireReader T e lv0 U
      | .alu => fireAlu F u e lv0 lv1 U
      | .writer => fireWriter e lv0 U
      | .decoupler => fireDecoupler F u e lv0 U
    match r with
    | .yes _ o0 o1 _ => if F.room (2 * u) o0 && F.room (2 * u + 1) o1 then r else .no
    | r => r

/-- Items are emitted on a port to every edge it feeds, in the same firing (R282). -/
def Fibre.emit (F : Fibre) (p : Nat) (is : List Item) : Fibre :=
  if is.isEmpty then F
  else
    let ts := is.flatMap Item.tokens
    { F with units := mapFrom (fun u (U : UnitState) =>
        let U := if (fFed F.cfg p).contains (u, 0) then { U with in0 := { U.in0 with q := U.in0.q ++ ts } } else U
        if (fFed F.cfg p).contains (u, 1) then { U with in1 := { U.in1 with q := U.in1.q ++ ts } } else U) 0 F.units }

/-- A completion of the run counts at its barrier object. -/
def Fibre.complete (F : Fibre) (T : Tile) (U : UnitState) : Tile :=
  T.barUpd F.bar { pend := -(U.bytes : Int), arr := 1, err := if U.short then errShort else 0 }

/-- The run ends: it leaves the scoreboard and the strand's operations; its spill regions hold no defined value. -/
def fibreEnd (s : State) (t : Nat) (st : FibreSt) : State :=
  let id := (s.tile t).fibre.opId
  let s := spillOpen (s.dropTxn id) t (2 ^ 61)
  s.modTile t (fun T => ({ T with fibre := { T.fibre with st := st, units := [] } }.sbLeave id).wake)

/-- Every writer in use has consumed DONE. -/
def Fibre.written (F : Fibre) : Bool := (fUnits F.cfg).all (fun u => fKind u != .writer || (F.unit u).fin)

/-- A run moves: it runs, is not frozen, and nothing orders it behind an earlier command (R149, R255). -/
def fibreMoves (s : State) (t : Nat) : Bool :=
  let T := s.tile t
  T.fibre.st == .running && !T.frozen && !T.sbMust T.fibre.opId &&
    (match s.txn? T.fibre.opId with | some x => !fencedAt s x | none => true)

/-- FIBRE_FIRE (R282). -/
def execFibreFire (t u : Nat) (s : State) : Out :=
  let T := s.tile t
  if !fibreMoves s t then .next s
  else match T.fibreTry u with
    | .yes U o0 o1 mem =>
      let F := T.fibre
      let F := { F with units := F.units.set u U, trunc := F.trunc || U.short }
      let F := (F.emit (2 * u) o0).emit (2 * u + 1) o1
      let T := { T with fibre := F, spad := mem.foldl (fun (m : List Host.Cell) (w : Nat × Nat) => memPutNat m w.1 4 w.2) T.spad }
      let T := if fKind u == .writer && U.fin then F.complete T U else T
      let s := s.setTile t T
      .next (if F.written then fibreEnd s t .idle else s)
    | _ => .next s

/-! ### Faults (R284) -/

/-- A decoupler is full with a token waiting and no room to let one leave. -/
def Tile.overflowAt (T : Tile) (u : Nat) : Option Nat :=
  let F := T.fibre
  let e := fEntry F.cfg u
  let U := F.unit u
  if fKind u != .decoupler || !FEntry.en e || U.fin then none
  else match bufItem U.buf, U.in0.head (inLevel F.cfg u 0) with
    | some i, .item j ix =>
      if decouplerRoom e < U.buf.length + j.size && !F.room (2 * u) [i] then some (ix + (decouplerRoom e - U.buf.length)) else none
    | _, _ => none

/-- The fault that stands in a run: kind, unit and token index. -/
def Tile.fibreFaultAt (T : Tile) : Option (Nat × Nat × Nat) :=
  let us := fUnits T.fibre.cfg
  match us.findSome? (fun u => match T.fibreTry u with | .bad ix => some (1, u, ix) | _ => none) with
  | some f => some f
  | none =>
    match us.findSome? (fun u => (T.overflowAt u).map (fun ix => (2, u, ix))) with
    | some f => some f
    | none =>
      if T.fibre.written || us.any (fun u => match T.fibreTry u with | .yes _ _ _ _ => true | _ => false) then none
      else us.findSome? (fun u =>
        let U := T.fibre.unit u
        if U.fin then none
        else if !U.in0.q.isEmpty && FEntry.in0 (fEntry T.fibre.cfg u) != fRoot then some (1, u, U.in0.n)
        else if !U.in1.q.isEmpty then some (1, u, U.in1.n) else none)

/-- FIBRE_FAULT (R284): every writer that is not done counts what it has written, then the fault close follows; the strand
takes the identified trap. -/
def execFibreFault (t : Nat) (s : State) : Out :=
  if !fibreMoves s t then .next s
  else match (s.tile t).fibreFaultAt with
    | none => .next s
    | some (kind, u, ix) =>
      let T := s.tile t
      let F := T.fibre
      let open' := (fUnits F.cfg).filter (fun u => fKind u == .writer && !(F.unit u).fin)
      let T := open'.foldl (fun T u => F.complete T (F.unit u)) T
      let T := T.barUpd F.bar { close := true, err := if kind = 1 then errMal else errSovf }
      let s := fibreEnd (s.setTile t { T with fibre := { F with fault := kind, funit := u, ftok := ix } }) t .faulted
      let user := match s.txn? F.opId with | some x => x.user | none => true
      .next (identifiedTrap s t (if kind = 1 then 0x24 else 0x25) .a F.ipc user (BitVec.ofNat 64 ix))

end Sys2Proof.Machine
end

