-- ==== Sys2Proof/Machine/Freeze.lean ====
section
/-! DEFINITION. Tenants (21): partition entries (R323), freezing and restoring a virtual function (R325 to R329), the world
switch (R330), latency monitors (R331) and the wrap of a counter (R334). -/

namespace Sys2Proof.Machine

/-! ### Renaming a tile (R326 to R328) -/

/-- A step of the part that names a tile names another one. -/
def renameInstr (a b : Nat) (i : Instr) : Instr :=
  let r := fun (t : Nat) => if t = a then b else t
  match i with
  | .localLoadFill t id => .localLoadFill (r t) id
  | .clusterArrival t id => .clusterArrival (r t) id
  | .fire t id => .fire (r t) id
  | .fireRetire t id => .fireRetire (r t) id
  | .tokenEmit t c => .tokenEmit (r t) c
  | .tswapExchange t => .tswapExchange (r t)
  | .accumulatorCommand t => .accumulatorCommand (r t)
  | .strandRetire t => .strandRetire (r t)
  | .gatherSendHome t k => .gatherSendHome (r t) k
  | .eventEntry t => .eventEntry (r t)
  | .fibreFire t u => .fibreFire (r t) u
  | .fibreFault t => .fibreFault (r t)
  | .decouplingDeadlock t => .decouplingDeadlock (r t)
  | i => i

/-- The owner that a promotion request asks. -/
def renameKind (a b : Nat) (k : TxnKind) : TxnKind :=
  match k with
  | .promote va (some (o, m)) => .promote va (some ((if o = a then b else o), m))
  | k => k

/-- The claim table names another tile (R328). -/
def renameClaim (a b : Nat) (e : Claim) : Claim :=
  { e with mtile := if e.mtile = a then b else e.mtile, wl := e.wl.map (fun w => if w.tile = a then { w with tile := b } else w) }

/-- A tile's whole state moves to another key, and everything that names it follows. -/
def renameTile (s : State) (a b : Nat) : State :=
  let r := fun (t : Nat) => if t = a then b else t
  let T := s.tile a
  let s := (s.setTile a Tile.reset).setTile b T
  let place := fun (D : Die) => { D with recs := D.recs.map (fun q => { q with place := q.place.map r }) }
  { s with
    txns := s.txns.map (fun x => { x with tile := r x.tile, kind := renameKind a b x.kind })
    fences := s.fences.map (fun f => { f with tile := r f.tile })
    pins := s.pins.map (fun p => { p with owner := r p.owner })
    claims := s.claims.map (fun e => (e.1, renameClaim a b e.2))
    agenda := s.agenda.map (renameInstr a b)
    die0 := place s.die0
    die1 := place s.die1 }

/-! ### Freezing (R325, R327) -/

/-- Tiles on which a virtual function has a strand. -/
def vfTiles (s : State) (v : Nat) : List Nat :=
  (s.tiles.filter (fun p => !isJack p.1 && !isFrozenKey p.1 && p.2.phase != .idle && p.2.vf == v)).map (·.1)

/-- Page faults and uncorrectable errors that have been answered abort their tasks before the scan-out (R327). -/
def freezeFaults (s : State) (ts : List Nat) : State :=
  let xs := s.txns.filter (fun x => ts.contains x.tile && (match x.resp with | .pageFault _ => true | .poisoned => true | _ => false))
  xs.foldl (fun s x => match s.txn? x.id, x.resp with
    | some _, .pageFault va => taskAbort (s.dropTxn x.id) x.tile 0x40 va 0
    | some _, .poisoned => taskAbort (s.dropTxn x.id) x.tile 0x41 x.tval.toNat 0
    | _, _ => s) s

/-- Gathered lines of a tile are combined at their homes (R325, step 3). -/
def gatherHome (s : State) (t : Nat) : State := (s.tile t).gather.foldl (fun s g => recallLine s g.ctx g.line) s

/-- Hold notices for the makes of a set of tiles (R260, R325). -/
def holdMakes (s : State) (ts : List Nat) : State :=
  { s with claims := s.claims.map (fun e => if e.2.st == .making && ts.contains e.2.mtile then (e.1, { e.2 with hold := true }) else e) }

/-- One tile is stalled and scanned out. -/
def scanOut (s : State) (v t : Nat) : State :=
  let k := frozenKey v t
  let s := renameTile (s.modTile t (fun T => { T with frozen := true })) t k
  s.setVf v { s.vf v with image := (s.vf v).image ++ [(t, k)] }

/-- A reservation of a virtual function's unit is dropped. -/
def dropResv (s : State) (v d : Nat) : State :=
  s.modDie d (fun D => { D with resv := match D.resv with
    | some (i, j, ps) => (match s.graph? d i with
      | some g => if (s.ctx g.ctx).vf = v then none else some (i, j, ps)
      | none => none)
    | none => none })

/-- The freeze of a virtual function (R325), in one step: its strands are stopped between two instructions, nothing of it
leaves its tiles any more, and its tiles' state stands in the image. -/
def freezeVf (s : State) (v : Nat) : State :=
  if (s.vf v).frozen then s
  else
    let s := freezeFaults s (vfTiles s v)
    let ts := vfTiles s v
    let s := ts.foldl gatherHome s
    let s := ts.foldl promote s
    let s := holdMakes s ts
    let s := ts.foldl (fun s t => scanOut s v t) s
    let s := s.setVf v { s.vf v with frozen := true, sched := false, since := s.cyc }
    ((dropResv (dropResv s v 0) v 1).post (.placementPass 0)).post (.placementPass 1)

/-- HOST_FREEZE_COMMAND (R325). -/
def execHostFreezeCommand (v : Nat) (s : State) : Out := .next (freezeVf s v)

/-! ### Restoring (R328, R329) -/

/-- A tile moved by columns and rows of pages. -/
def shiftTile (t : Nat) (dx dy : Int) : Nat := ((t : Int) + 4 * dx + 32 * dy).toNat

/-- Pages of a die on which a set of former tiles lies. -/
def chainPages (ts : List Nat) : List Nat := (ts.map pageOf).eraseDups

/-- The chain of a tile: the tiles of its die that share pages with it, directly or through others that one unit holds. -/
def growChain (s : State) (all : List (Nat × Nat)) : Nat → List (Nat × Nat) → List (Nat × Nat)
  | 0, c => c
  | n + 1, c =>
    let d := match c with | p :: _ => dieOf p.1 | [] => 0
    let pages := chainPages (c.map (·.1))
    let keys := c.map (·.2)
    let mates := (s.die d).recs.flatMap (fun r => if r.place.any (fun k => keys.contains k) then r.place else [])
    let c' := all.filter (fun p => dieOf p.1 == d && (pages.contains (pageOf p.1) || mates.contains p.2))
    if c'.length = c.length then c else growChain s all n c'

/-- A page of a die on which a chain may be put: of the virtual function, with no placed strand on it. -/
def pageFree (s : State) (v d p : Nat) : Bool :=
  (vfPages s v d).contains p && s.tiles.all (fun q => isJack q.1 || isFrozenKey q.1 || q.2.phase == .idle || dieOf q.1 != d || pageOf q.1 != p)

/-- A chain fits after a shift by columns and rows of pages. -/
def chainFits (s : State) (v d : Nat) (ps : List Nat) (dx dy : Int) : Bool :=
  ps.all (fun p =>
    let x : Int := (p % 4 : Nat) + dx
    let y : Int := (p / 4 : Nat) + dy
    decide (0 ≤ x) && decide (x < 4) && decide (0 ≤ y) && decide (y < 5) && pageFree s v d (y * 4 + x).toNat)

/-- Every shift, in the order of the lowest page that the chain touches then. -/
def shifts : List (Int × Int) :=
  (List.range 9).flatMap (fun j => (List.range 7).map (fun i => ((i : Int) - 3, (j : Int) - 4)))

/-- The place of a chain (R328): where it was, else the first candidate. -/
def chainShift (s : State) (v : Nat) (c : List (Nat × Nat)) : Option (Int × Int) :=
  let d := match c with | p :: _ => dieOf p.1 | [] => 0
  let ps := chainPages (c.map (·.1))
  if chainFits s v d ps 0 0 then some (0, 0) else shifts.find? (fun q => chainFits s v d ps q.1 q.2)

/-- Frozen cycles counted by a lease (R328). -/
def frozenLease (s : State) (v : Nat) : Nat := (s.cyc - (s.vf v).since).toNat / 2 ^ 16

/-- A make's lease goes on (R328). -/
def rebindMake (s : State) (v b : Nat) : State :=
  { s with claims := s.claims.map (fun e =>
      if e.2.st == .making && e.2.mtile == b then
        (e.1, { e.2 with lst := if e.2.hold then BitVec.ofNat 30 (e.2.lst.toNat + frozenLease s v) else e.2.lst, hold := false })
      else e) }

/-- A corner word moved. -/
def shiftRect (w : Word) (dx dy : Int) : Word :=
  BitVec.ofNat 64 (shiftTile (bits w 31 16) dx dy * 2 ^ 16 + shiftTile (bits w 15 0) dx dy)

/-- One tile is scanned in at its place, its identity rewritten, its claims rebound. -/
def scanIn (s : State) (v : Nat) (dx dy : Int) (p : Nat × Nat) : State :=
  let b := shiftTile p.1 dx dy
  let s := renameTile s p.2 b
  let s := s.modTile b (fun T =>
    let new := decide (T.phase = .placed)
    { T with frozen := false, tid := if new then T.tid else BitVec.ofNat 64 b, crect := if new then T.crect else shiftRect T.crect dx dy }.wake)
  rebindMake s v b

/-- The records of a chain move with it. -/
def shiftRecs (s : State) (c : List (Nat × Nat)) (dx dy : Int) : State :=
  let d := match c with | p :: _ => dieOf p.1 | [] => 0
  let keys := c.map (·.2)
  s.modDie d (fun D => { D with recs := D.recs.map (fun r =>
    if r.place.any (fun k => keys.contains k) then { r with crect := (shiftRect (BitVec.ofNat 64 r.crect) dx dy).toNat } else r) })

/-- The chains of an image are put back one after the other; none when one finds no place. -/
def restoreChains (s : State) (v : Nat) : Nat → List (Nat × Nat) → Option State
  | 0, _ => some s
  | _, [] => some s
  | n + 1, p :: rest =>
    let c := growChain s (p :: rest) (rest.length + 1) [p]
    match chainShift s v c with
    | none => none
    | some (dx, dy) =>
      let s := c.foldl (fun s q => scanIn s v dx dy q) (shiftRecs s c dx dy)
      restoreChains s v n (rest.filter (fun q => !c.contains q))

/-- Frozen cycles are left out of charges and watchdogs (R329). -/
def frozenTime (s : State) (v : Nat) : State :=
  let V := s.vf v
  let gap := s.cyc - V.since
  let mine := fun (c : Nat) => (s.ctx c).vf == v
  let die := fun (D : Die) => { D with
    recs := D.recs.map (fun r => if r.st == .running && mine r.ctx then { r with started := r.started + gap } else r)
    graphs := D.graphs.map (fun g => if mine g.ctx then { g with prog := if V.since ≤ g.prog then s.cyc else g.prog + gap } else g) }
  { s with die0 := die s.die0, die1 := die s.die1 }

/-- A frozen virtual function is restored and runs; with no place for a chain it stays frozen. -/
def restoreVf (s : State) (v : Nat) : State :=
  let V := s.vf v
  if !V.frozen then s
  else match restoreChains s v (V.image.length + 1) V.image with
    | none => s
    | some s' =>
      let s' := frozenTime s' v
      let s' := s'.setVf v { s'.vf v with frozen := false, sched := true, image := [], since := s'.cyc }
      (s'.post (.placementPass 0)).post (.placementPass 1)

/-- Another virtual function of the group holds the pages. -/
def groupBusy (s : State) (v : Nat) : Bool := (groupOf s v).any (fun u => (s.vf u).sched)

/-- RESTORE (R328): once the pages are free of the other virtual functions of its group. -/
def execRestore (v : Nat) (s : State) : Out := .next (if groupBusy s v then s else restoreVf s v)

/-! ### Time slices (R330) -/

/-- The slice of the virtual function that holds the pages has passed. -/
def sliceDue (s : State) (v : Nat) : Bool :=
  let V := s.vf v
  V.sched && !V.frozen && V.slen != 0 && V.pages != 0 && decide (V.slen * 1024 ≤ (s.cyc - V.since).toNat)

/-- SLICE_END (R330): the next virtual function with work takes over, else the slice is renewed. -/
def execSliceEnd (v : Nat) (s : State) : Out :=
  let V := s.vf v
  if !V.sched || V.frozen then .next s
  else match nextVf s v with
    | none => .next (s.setVf v { V with since := s.cyc })
    | some u =>
      let s := freezeVf s v
      if (s.vf u).frozen then .next (s.post (.restore u))
      else .next (((s.setVf u { s.vf u with sched := true, since := s.cyc }).post (.placementPass 0)).post (.placementPass 1))

/-! ### Latency monitors and counters (R331, R334) -/

/-- Counts of the buckets up to b. -/
def cumulative (V : Vf) (b : Nat) : Nat := ((List.range (b + 1)).map (fun k => Sparse.get 0 V.buckets k)).sum

/-- p99 of a window of n units. -/
def p99Of (V : Vf) (n : Nat) : Nat :=
  match (List.range 32).find? (fun b => decide ((99 * n + 99) / 100 ≤ cumulative V b)) with
  | some b => b
  | none => 31

/-- LATENCY_WINDOW_CLOSE (R331). -/
def execLatencyWindowClose (v : Nat) (s : State) : Out :=
  let V := s.vf v
  let n := 2 ^ monLw V.mon
  if bits V.mon 0 0 = 0 ∨ monLw V.mon < 6 ∨ V.nstart < n then .next s
  else
    let p := p99Of V n
    let breach := decide (bits V.mon 20 16 < p)
    let nbr := if breach then min (2 ^ 32 - 1) (bits V.mon 63 32 + 1) else bits V.mon 63 32
    let s := s.setVf v { V with mon := setBits (setBits V.mon 63 32 nbr) 31 27 p, buckets := [], nstart := 0 }
    .next (if breach then s.record 0 { kind := 0x5C, info := p * 2 ^ 8 + v } else s)

/-- COUNTER_WRAP (R334). -/
def execCounterWrap (v n : Nat) (s : State) : Out :=
  let V := s.vf v
  let k := n % 4
  let s := s.setVf v { V with cfg := setBits V.cfg (16 * k + 15) (16 * k + 15) 1 }
  .next (if bits V.cfg (16 * k + 14) (16 * k + 14) = 1 then s.interrupt V.irq k else s)

end Sys2Proof.Machine
end

