-- ==== Sys2Proof/Machine/Start.lean ====
section
/-! DEFINITION. Starting and resetting (27): the stages (R373), wiping (R375), resets (R376), minimal mode (R377), the
life-cycle state (R379) and the thermal limits (R380). -/

namespace Sys2Proof.Machine

/-! ### Wiping (R375) -/

/-- Memory that is not the part's own: host memory and other modules. -/
def outsideMem (m : List Host.Cell) : List Host.Cell := m.filter (fun c => decide (hostBase ≤ c.1))

/-- The flash through a reset: the rest of the management registers start again. -/
def Mg.restart (g : Mg) : Mg := { Mg.reset with lcs := g.lcs, att := g.att, cause := g.cause, unit := g.unit }

/-- Every memory and register of the part is wiped; the flash stays, and so do the model's own fields (log 2, log 3). -/
def wipeAll (s : State) : State :=
  { State.reset with free := s.free, tape := s.tape, agenda := [], nextId := s.nextId, pmem := outsideMem s.pmem, mg := s.mg.restart,
                     bus := s.bus, hostRead := s.hostRead, hostErr := s.hostErr, ualReply := s.ualReply, ualErr := s.ualErr }

/-- The part restarts at stage 1 (R376); how the start ends is the start's own step. -/
def restart (s : State) : State := (wipeAll s).post (.powerGood (.ready none))

/-! ### The start (R373, R377, R378) -/

/-- A failed start's cause and count in flash. -/
def Mg.failed (g : Mg) (code unit : Nat) : Mg := { g with att := Nat.min 15 (g.att + 1), cause := code, unit := unit }

/-- POWER_GOOD (R373): the start ends ready, in minimal mode when it began with a count of 3 or more, or a stage fails. -/
def execPowerGood (r : StartResult) (s : State) : Out :=
  if s.mg.ready then .next s
  else
    let min := decide (3 ≤ s.mg.att)
    match r with
    | .ready domain =>
      let w := wipeAll s
      .next { w with cyc := domain.getD s.cyc, mg := { w.mg with ready := true, min := min, d1up := !min, stage := 7, att := 0, mod := s.mg.mod } }
    | .fail stage code unit =>
      if min then .next { s with mg := { s.mg with min := true, stage := stage, att := Nat.min 15 (s.mg.att + 1) } }
      else .next (restart { s with mg := s.mg.failed code unit })

/-! ### Resets (R376, R379) -/

/-- MODULE_RESET (R376); with clr the count and the cause go. -/
def execModuleReset (clr : Bool) (s : State) : Out :=
  .next (restart (if clr then { s with mg := { s.mg with att := 0, cause := 0, unit := 0 } } else s))

/-- LIFECYCLE_CHANGE (R379, R375): to state 3 it clears the count and the cause. -/
def execLifecycleChange (lreq : BitVec 2) (s : State) : Out :=
  let g := { s.mg with lcs := lreq }
  .next (restart { s with mg := if lreq = 3 then { g with att := 0, cause := 0, unit := 0 } else g })

/-- Memories of die 1: stacks 4 to 7, carve-out storage, tiles, claims, dispatcher and jacks. -/
def wipeDie1 (s : State) : State :=
  let s := zeroRange (zeroRange s (4 * stackBytes) (4 * stackBytes)) (carveBase + 0x20000000) 0x20000000
  let on1 := fun (t : Nat) => if isJack t then decide (8 ≤ t % 0x1000) && decide (t % 0x1000 < 16) else dieOf t == 1
  { s with tiles := s.tiles.filter (fun p => !on1 p.1), claims := s.claims.filter (fun e => e.1 / 2 ^ 21 % 2 != 1),
           jacks := s.jacks.filter (fun j => decide (j.1 < 8) || decide (16 ≤ j.1)), die1 := { Die.reset with stopped := true } }

/-- A rejoin of die 1 is under way. -/
def rejoining (s : State) : Bool := s.agenda.any (fun i => match i with | .die1Rejoin _ => true | _ => false)

/-- DIE1_RESET (R376): die 1 alone stops and is wiped; during a start or another die-1 reset it becomes a module reset. In
minimal mode die 1 is left unpowered. -/
def execDie1Reset (s : State) : Out :=
  if !s.mg.ready || rejoining s then .next (restart s)
  else if s.mg.min then .next s
  else .next ((wipeDie1 (if s.die1.stopped then s else dieLost s 1)).post (.die1Rejoin (.ready none)))

/-- DIE1_REJOIN (R376): die 1 rejoins; a stage that fails is a failed start (R373). -/
def execDie1Rejoin (r : StartResult) (s : State) : Out :=
  if !s.mg.ready || s.mg.min || s.mg.d1up then .next s
  else match r with
    | .ready _ => .next { s with die1 := { s.die1 with stopped := false }, mg := { s.mg with d1up := true } }
    | .fail _ code unit => .next (restart { s with mg := s.mg.failed code unit })

/-! ### Cooling (R380) -/

/-- TEMP_WARNING (R380): die interrupt entry 1, code 1. -/
def execTempWarning (d : Nat) (s : State) : Out := .next (s.interrupt (s.die d).irq1 1)

/-- THERMAL_TRIP (R380): both dies stop and restart with cause 0x0A. -/
def execThermalTrip (_d : Nat) (s : State) : Out := .next (restart { s with mg := s.mg.failed 0x0A 0 })

end Sys2Proof.Machine
end

