-- ==== Sys2Proof/Machine/Host.lean ====
section
/-! DEFINITION. The host (11, 24/R365, 27/R379): the register aperture on the Cord (R179, R180) with every command it gives,
and accesses by physical address. A command takes what was written from the Cord interface, State's `bus`. -/

namespace Sys2Proof.Machine

/-! ### The windows (R179) -/

/-- A register of a dispatcher window. -/
inductive Win
  | lqd (q : Nat) | lqs (q : Nat) | ovr | frr | rcc | frc | ctb | cxc | irq (i : Nat) | part (v : Nat) | mon (v : Nat)
  | virq (v : Nat) | perf (v k : Nat) | proxy (p : Nat) | route (j d : Nat) | none
  deriving DecidableEq, Repr

/-- Bytes of a register. -/
def Win.bytes : Win → Nat
  | .lqd _ => 16
  | .ovr => 16
  | .frr => 16
  | .rcc => 16
  | .frc => 16
  | .irq _ => 16
  | .part _ => 16
  | .virq _ => 16
  | .proxy _ => 64
  | .route _ _ => 1
  | _ => 8

/-- A register that answers in die 0's window alone. -/
def Win.module : Win → Bool
  | .frc => true
  | .ctb => true
  | .cxc => true
  | .part _ => true
  | .mon _ => true
  | .virq _ => true
  | .perf _ _ => true
  | _ => false

/-- The register at an offset and the offset of its first byte. -/
def winAt (d off : Nat) : Win × Nat :=
  let r : Win × Nat :=
    if off < 0x1000 then (.lqd (off / 16), off / 16 * 16)
    else if off < 0x1800 then (.lqs ((off - 0x1000) / 8), off / 8 * 8)
    else if off < 0x2000 then (.none, off)
    else if off < 0x2010 then (.ovr, 0x2000)
    else if off < 0x2020 then (.frr, 0x2010)
    else if off < 0x2030 then (.rcc, 0x2020)
    else if off < 0x2040 then (.frc, 0x2030)
    else if off < 0x2048 then (.ctb, 0x2040)
    else if off < 0x2050 then (.cxc, 0x2048)
    else if off < 0x2080 then (.none, off)
    else if off < 0x20A0 then (.irq ((off - 0x2080) / 16), off / 16 * 16)
    else if off < 0x3000 then (.none, off)
    else if off < 0x3200 then (.part ((off - 0x3000) / 16), off / 16 * 16)
    else if off < 0x3300 then (.mon ((off - 0x3200) / 8), off / 8 * 8)
    else if off < 0x3500 then (.virq ((off - 0x3300) / 16), off / 16 * 16)
    else if off < 0x3600 then (.none, off)
    else if off < 0x3A00 then (.perf ((off - 0x3600) / 32) ((off - 0x3600) / 8 % 4), off / 8 * 8)
    else if off < 0x4000 then (.none, off)
    else if off < 0x5000 then (.proxy ((off - 0x4000) / 64), off / 64 * 64)
    else if off < 0x10000 then (.none, off)
    else if off < 0x11000 then (.route ((off - 0x10000) / 512) (off % 512), off)
    else (.none, off)
  if r.1.module && d != 0 then (.none, off) else r

/-- The routing entry of a port for a destination module. -/
def Die.routeOf (D : Die) (j d : Nat) : BitVec 8 := Sparse.get 0 D.route (j * 512 + d)

/-- lqs (R174). -/
def LaunchQ.lqs (Q : LaunchQ) : Nat := Q.ri % 2 ^ 16 * 2 ^ 32 + Q.wi % 2 ^ 16 * 2 ^ 16 + Q.err % 2 ^ 8 * 2 ^ 8 + Q.st % 4

/-- The value of a register. -/
def winVal (s : State) (d : Nat) : Win → Nat
  | .lqd q => ((s.die d).queue q).lqd.toNat
  | .lqs q => ((s.die d).queue q).lqs
  | .ovr => (s.die d).ovr.toNat
  | .frr => (s.die d).frr.toNat
  | .rcc => (s.die d).rcc.toNat
  | .frc => s.frc.toNat
  | .ctb => s.ctb.toNat
  | .cxc => s.cxc.toNat
  | .irq i => (if i = 0 then (s.die d).irq0 else (s.die d).irq1).toNat
  | .part v => (s.vf v).part.toNat
  | .mon v => (s.vf v).mon.toNat
  | .virq v => (s.vf v).irq.toNat
  | .perf v k => ((s.vf v).perf.toList.getD k 0).toNat
  | .proxy p => (s.proxy d p).reg.toNat
  | .route j m => ((s.die d).routeOf j m).toNat
  | .none => 0

/-- A doubleword held until its register's highest one is written. -/
def Die.held (D : Die) (off : Nat) : Word := Sparse.get 0 D.hold off

/-- The whole new value of a register of n bytes at b when its highest doubleword is written. -/
def assembled (D : Die) (b n data : Nat) : Nat :=
  ((List.range (n / 8 - 1)).map (fun k => (D.held (b + 8 * k)).toNat * 2 ^ (64 * k))).sum + data * 2 ^ (64 * (n / 8 - 1))

/-! ### Management registers (R379, R382) -/

/-- mgst. -/
def mgst (s : State) : Nat :=
  let g := s.mg
  g.att % 16 * 2 ^ 20 + g.stage % 16 * 2 ^ 16 + g.lcs.toNat * 2 ^ 3 + (if g.d1up then 4 else 0) + (if g.min then 2 else 0) +
    (if g.ready then 1 else 0)

/-- A read in the management window. -/
def mgRead (s : State) (off : Nat) : Nat :=
  if off = 0x000 then mgst s
  else if off = 0x008 then s.mg.unit % 2 ^ 16 * 2 ^ 32 + s.mg.cause % 2 ^ 8
  else if off = 0x018 then (mgid s).toNat
  else if off = 0x020 then (mgid2 s).toNat
  else if off = 0x028 then s.mg.mod.toNat
  else 0

/-! ### Writes with no behaviour of their own (R179, R180, R364, R382) -/

/-- Reserved bits of a register are written as zero (R13). -/
def irqMask : BitVec 128 := 0xFFFFFFFFFFFFC00100000000FFFFFFFF#128

/-- A routing entry's byte. -/
def setRoute (s : State) (d j m v : Nat) : State :=
  s.modDie d (fun D => { D with route := Sparse.set 0 D.route (j * 512 + m) (BitVec.ofNat 8 (v &&& 0x9F)) })

/-- Eight routing entries. -/
def setRoutes (s : State) (d j m v : Nat) : State :=
  (List.range 8).foldl (fun s k => setRoute s d j (m + k) (v / 2 ^ (8 * k) % 256)) s

/-- A register takes a value. -/
def putReg (s : State) (d : Nat) (b : Bus) : State :=
  let v : BitVec 128 := b.val.setWidth 128 &&& irqMask
  match (winAt d b.off).1 with
  | .irq i => s.modDie d (fun D => if i = 0 then { D with irq0 := v } else { D with irq1 := v })
  | .virq w => s.setVf w { s.vf w with irq := v }
  | .ctb => if s.ctxs.any (fun c => c.2.live) then s else { s with ctb := b.val.setWidth 64 &&& 0xFFFFFFFFF0000#64 }
  | .rcc => s.modDie d (fun D => { D with rcc := setBits (b.val.setWidth 128) 127 126 3 })
  | .cxc => { s with cxc := setBits (b.val.setWidth 64) 63 62 3 }
  | _ => s

/-- REGISTER_WRITE (R179): a doubleword below the highest is held; routing entries, interrupt entries, the context table's
base and mgmod take their value; an operation code that is reserved is refused. -/
def execRegisterWrite (s : State) : Out :=
  let b := s.bus
  if 2 ≤ b.die then .next (if b.off = 0x028 then { s with mg := { s.mg with mod := b.val.setWidth 9 } } else s)
  else
    let (w, base) := winAt b.die b.off
    match w with
    | .route j m => .next (if b.n = 1 then setRoute s b.die j m (bits b.val 7 0) else setRoutes s b.die j m (bits b.val 63 0))
    | w =>
      if base + w.bytes ≤ b.off + 8 then .next (putReg s b.die b)
      else .next (s.modDie b.die (fun D => { D with hold := Sparse.set 0 D.hold b.off (b.val.setWidth 64) }))

/-! ### Launch queues (R174 to R176) -/

/-- Every page that a range meets is mapped readable. -/
def rangeReadable (s : State) (ctx va : Nat) : Nat → State × Bool
  | 0 => (s, true)
  | n + 1 =>
    match translate s (homeSlice s va) ctx va true false with
    | (s, .ok _ _ _) => rangeReadable s ctx ((va / 2 ^ 16 + 1) * 2 ^ 16) n
    | (s, _) => (s, false)

/-- The first check of R175 that fails, or zero. -/
def lqdErr (s : State) (v : BitVec 128) : State × Nat :=
  let c := bits v 121 112
  let base := bits v 55 0
  if !(s.ctx c).live then (s, 1)
  else if bits v 111 104 = 0 then (s, 2)
  else if base % 256 ≠ 0 ∨ 12 < bits v 103 100 ∨ bits v 127 122 ≠ 0 ∨ bits v 99 56 ≠ 0 then (s, 3)
  else
    let n := 2 ^ bits v 103 100 * 256
    if 2 ^ 56 < base + n ∨ isWindow base ∨ isWindow (base + n - 1) then (s, 4)
    else
      let (s, ok) := rangeReadable s c base ((base + n - 1) / 2 ^ 16 - base / 2 ^ 16 + 1)
      (s, if ok then 0 else 4)

/-- LQD_WRITE (R174, R175): the queue is registered afresh; the first queue of a context sets its deficit to zero (R183). -/
def execLqdWrite (s : State) : Out :=
  let b := s.bus
  let d := b.die % 2
  let q := b.idx % 256
  let v : BitVec 128 := b.val.setWidth 128
  let (s, err) := lqdErr s v
  let c := bits v 121 112
  let first := (s.die d).lq.all (fun p => p.1 == q || p.2.ctx != c || p.2.st == 0)
  let s := if err = 0 ∧ first then s.modDie d (fun D => D.setDeficit c 0) else s
  .next (s.setQueue d q { lqd := v, ri := 0, wi := 0, err := err, st := if err = 0 then 1 else 3 })

/-- LQS_WI_WRITE (R176). -/
def execLqsWiWrite (s : State) : Out :=
  let b := s.bus
  let d := b.die % 2
  let q := b.idx % 256
  let Q := (s.die d).queue q
  let wi := bits b.val 31 16
  if Q.st ≠ 1 then .next (s.setQueue d q { Q with wi := wi })
  else if Q.size ≤ wi then
    .next ((s.setQueue d q { Q with st := 2, err := 8 }).record d { kind := 0x50, ctx := Q.ctx, info := 8 * 2 ^ 8 + q })
  else .next (s.setQueue d q { Q with wi := wi })

/-! ### Rings (R180, R193 to R195, R314) -/

/-- Bits of ovr that hold something. -/
def ovrMask : BitVec 128 := (BitVec.allOnes 128) <<< 57

/-- OVR_REGISTER (R180): ignored while a record is spilled. -/
def execOvrRegister (s : State) : Out :=
  let d := s.bus.die % 2
  let v : BitVec 128 := s.bus.val.setWidth 128 &&& ovrMask
  if (s.die d).spilled ≠ 0 then .next s
  else
    let ok := decide (6 ≤ bits v 61 57) && decide (bits v 61 57 ≤ 24) && bits v 127 72 % 128 == 0
    .next (s.modDie d (fun D => { D with ovr := setBits v 1 0 (if ok then 1 else 3), nspill := 0 }))

/-- OVR_RESUME (R195). -/
def execOvrResume (s : State) : Out :=
  let d := s.bus.die % 2
  .next (if bits (s.die d).ovr 1 0 = 2 then s.modDie d (fun D => { D with ovr := setBits D.ovr 1 0 1 }) else s)

/-- FRR_REGISTER (R180): the ring is registered afresh with wi and lost zero; waiting records enter it. -/
def execFrrRegister (s : State) : Out :=
  let d := s.bus.die % 2
  let up := bits s.bus.val 127 73
  let ri := bits (s.die d).frr 23 0
  let s := s.modDie d (fun D => { D with frr := BitVec.ofNat 128 (up * 2 ^ 73 + ri) })
  .next (drainFaults s d 256)

/-- FRR_RI_WRITE (R180). -/
def execFrrRiWrite (s : State) : Out :=
  let d := s.bus.die % 2
  let ri := bits s.bus.val 23 0
  .next (drainFaults (s.modDie d (fun D => { D with frr := setBits D.frr 23 0 ri })) d 256)

/-! ### Record control and frame release (R180, R226, R315) -/

/-- rcc holds the operation and how it ended: 2 done, 3 refused. -/
def rccEnd (s : State) (d st : Nat) : State :=
  let v : BitVec 128 := s.bus.val.setWidth 128
  s.modDie d (fun D => { D with rcc := setBits (setBits v 125 41 0) 127 126 st })

/-- A record-control operation on the record that the register names, when it accepts it. -/
def recordControl (s : State) (ok : Rec → Bool) (act : State → Nat → Rec → State) : State :=
  let d := s.bus.die % 2
  let b := s.bus.val
  match s.rec? d (bits b 29 14) (bits b 40 30) with
  | none => rccEnd s d 3
  | some r => if r.ctx == bits b 13 4 && ok r then rccEnd (act s d r) d 2 else rccEnd s d 3

/-- A parked record returns to state 2 and takes its place in its queue again. -/
def requeueRec (s : State) (d : Nat) (r : Rec) (aborts : Nat) : State :=
  let s := s.modRec d r.inst r.tidx (fun q => { q with st := .fetching, aborts := aborts, opend := 0, place := [], left := 0 })
  (enqueue s d r.inst r.tidx).post (.placementPass d)

/-- PAGES_RESIDENT (R180, R315). -/
def execPagesResident (s : State) : Out :=
  .next (recordControl s (fun r => r.st == .parked && r.parkKind == 0x40) (fun s d r => requeueRec s d r r.aborts))

/-- REQUEUE (R180): the abort count is cleared. -/
def execRequeue (s : State) : Out :=
  .next (recordControl s (fun r => r.st == .parked) (fun s d r => requeueRec s d r 0))

/-- CANCEL_RECORD (R180, R157). -/
def execCancelRecord (s : State) : Out :=
  .next (recordControl s (fun r => r.st != .free && r.st != .done && r.st != .cancelled)
    (fun s d r => (cancelRec s d r.inst r.tidx).post (.placementPass d)))

/-- FRAME_RELEASE (R180, R226): lines filled from the frames go without write-back, then the frames are zeroed. -/
def execFrameRelease (s : State) : Out :=
  let v : BitVec 128 := s.bus.val.setWidth 128
  let lo := bits v 87 52 * 2 ^ 16
  let n := (bits v 115 92 + 1) * 2 ^ 16
  let c := bits v 125 116
  let fin := fun (s : State) (st : Nat) => { s with frc := setBits (setBits (setBits v 91 88 0) 51 0 0) 127 126 st }
  if !(hbmOk s lo && hbmOk s (lo + n - 1)) then .next (fin s 3)
  else
    let s := { s with llc := s.llc.filter (fun l => !(l.ctx == c && decide (lo ≤ l.pa) && decide (l.pa < lo + n))) }
    .next (fin (zeroRange s lo n) 2)

/-! ### Contexts (R156, R181, R182) -/

/-- cxc holds the command and how it ended. -/
def cxcEnd (s : State) (st : Nat) : State :=
  let v : Word := s.bus.val.setWidth 64
  { s with cxc := setBits (setBits (setBits v 61 28 0) 9 4 0) 63 62 st }

/-- The context and the phase that a command names. -/
def cxcCtx (s : State) : Nat := bits s.bus.val 19 10
def cxcPhase (s : State) : Nat := bits s.bus.val 27 20

/-- A context's descriptor in memory; none when the table does not lie in HBM or cannot be read. -/
def ctxDesc (s : State) (c : Nat) : Option (BitVec 512) :=
  let a := bits s.ctb 51 16 * 2 ^ 16 + 64 * c
  if hbmOk s a && !s.poisoned a then some (BitVec.ofNat 512 (memNat s.pmem a 64)) else none

/-- The descriptor meets R182. -/
def descOk (D : BitVec 512) : Bool :=
  bits D 511 480 == 0 && bits D 385 384 == 0 && bits D 333 0 == 0 && bits D 343 340 == 0 &&
    (bits D 479 475 == 0 || (decide (4 ≤ bits D 479 475) && decide (bits D 479 475 ≤ 20))) && bits D 474 419 % 4096 == 0

/-- The eviction ring of a context as its descriptor gives it, its write index read from the ring (R265). -/
def openRing (s : State) (c : Nat) (D : BitVec 512) : State :=
  let s := s.setCtx c { s.ctx c with evb := bits D 474 419, evm := bits D 479 475, evwi := 0, evri := 0, evStop := false }
  if bits D 479 475 = 0 then s
  else match ringWord s c (bits D 474 419) with
    | (s, none) => s
    | (s, some wi) =>
      match ringWord s c (bits D 474 419 + 8) with
      | (s, none) => s
      | (s, some ri) => s.setCtx c { s.ctx c with evwi := wi, evri := ri }

/-- ACTIVATE (R182): the job begins with every phase Idle. -/
def execActivate (s : State) : Out :=
  let c := cxcCtx s
  match ctxDesc s c with
  | none => .next (cxcEnd s 3)
  | some D =>
    if (s.ctx c).live || !descOk D then .next (cxcEnd s 3)
    else
      let C : Ctx := { Ctx.reset with live := true, root := bits D 383 340, vf := bits D 339 335, sys := D.getLsbD 334,
                                      tv := BitVec.ofNat 64 (bits D 418 386) &&& tvecMask }
      .next (cxcEnd (openRing (s.setCtx c C) c D) 2)

/-- The launch queues of a context stop (R182). -/
def stopQueues (s : State) (c : Nat) : State :=
  let die := fun (D : Die) => { D with lq := D.lq.map (fun q => if q.2.ctx == c && q.2.st == 1 then (q.1, { q.2 with st := 2, err := 10 }) else q) }
  { s with die0 := die s.die0, die1 := die s.die1 }

/-- The claim-table entries of a context are freed (R182): a Ready entry's record is written when its ring accepts it. -/
def freeClaims (s : State) (c : Nat) : State :=
  ((s.claims.filter (fun e => e.2.st != .free && e.2.ctx == c)).map (·.1)).foldl (fun s k =>
    let e := s.claim k
    let (s, room) := if e.st == .ready then ringRoom s c else (s, false)
    let s := if room then (evictEntry s k).1 else s
    if (s.claim k).st == .free then s else s.setClaim k { Claim.reset with tkt := (s.claim k).tkt }) s

/-- A message of a context between the dispatchers. -/
def ctxMessage (c : Nat) (i : Instr) : Bool :=
  match i with
  | .phaseJoin m => msgCtx m == c
  | .phaseLeave m => msgCtx m == c
  | .gateOpen m => msgCtx m == c
  | .gateRefuse m => msgCtx m == c
  | _ => false

/-- DEACTIVATE (R182). -/
def execDeactivate (s : State) : Out :=
  let c := cxcCtx s
  if !(s.ctx c).live then .next (cxcEnd s 3)
  else
    let s := stopQueues (cancelJob s c) c
    let s := { s with agenda := s.agenda.filter (fun i => !ctxMessage c i) }
    let s := invalidate (freeClaims s c) c 0 (2 ^ 56)
    let s := { s with pins := s.pins.filter (fun p => p.ctx != c) }
    .next (cxcEnd (s.setCtx c Ctx.reset) 2)

/-- RELOAD_RING (R182, R265). -/
def execReloadRing (s : State) : Out :=
  let c := cxcCtx s
  match ctxDesc s c with
  | none => .next (cxcEnd s 3)
  | some D => if !(s.ctx c).live then .next (cxcEnd s 3) else .next (cxcEnd (openRing s c D) 2)

/-- CLOSE_PHASE (R156). -/
def execClosePhase (s : State) : Out :=
  let c := cxcCtx s
  let p := cxcPhase s
  let (st, n) := (s.ctx c).phase p
  if !(s.ctx c).live ∨ 2 ≤ st then .next (cxcEnd s 3)
  else if st = 0 ∨ n = 0 then .next (cxcEnd (phaseComplete s c p) 2)
  else .next (cxcEnd (s.setCtx c ((s.ctx c).setPhase p (2, n))) 2)

/-- REOPEN_PHASE (R156). -/
def execReopenPhase (s : State) : Out :=
  let c := cxcCtx s
  let p := cxcPhase s
  let (st, n) := (s.ctx c).phase p
  if !(s.ctx c).live ∨ st ≠ 3 ∨ (s.ctx c).ended then .next (cxcEnd s 3)
  else .next (cxcEnd (s.setCtx c ((s.ctx c).setPhase p (0, n))) 2)

/-- END_JOB (R156). -/
def execEndJob (s : State) : Out :=
  let c := cxcCtx s
  if !(s.ctx c).live || (s.ctx c).ended then .next (cxcEnd s 3)
  else .next (cxcEnd (s.setCtx c { s.ctx c with ended := true }.settle) 2)

/-! ### Partitions, monitors, proxies (R323, R331, R359) -/

/-- Bits of a partition entry that hold something. -/
def partMask : BitVec 128 := 0xFFFFFFFFFF03E000FFFFFF000001FFFF#128

/-- A partition entry keeps the rules of R323 beside the entries of the other virtual functions that own pages. -/
def partOk (s : State) (v : Nat) (part : BitVec 128) : Bool :=
  areaFits part 0 s.die0.cw && areaFits part 1 s.die1.cw &&
    (List.range 32).all (fun u =>
      let V := s.vf u
      u == v || V.pages == 0 || bits part 127 88 == 0 ||
        (if V.grp = bits part 81 77 then V.pages == bits part 127 88 else V.pages &&& bits part 127 88 == 0))

/-- PARTITION_WRITE (R323): a new member of a group waits for its turn when another one holds the pages. -/
def execPartitionWrite (s : State) : Out :=
  let v := s.bus.idx % 32
  let part : BitVec 128 := s.bus.val.setWidth 128 &&& partMask
  if !partOk s v part then .next (s.record 0 { kind := 0x55, info := v })
  else
    let s := s.setVf v { s.vf v with part := part }
    let s := if (s.vf v).frozen then s
      else s.setVf v { s.vf v with sched := !groupBusy s v, since := s.cyc }
    .next ((s.post (.placementPass 0)).post (.placementPass 1))

/-- LATENCY_MONITOR_WRITE (R331): the buckets are emptied. -/
def execLatencyMonitorWrite (s : State) : Out :=
  let v := s.bus.idx % 32
  let V := s.vf v
  let b := s.bus.val
  let mon := setBits (setBits (setBits V.mon 20 16 (bits b 20 16)) 15 12 (bits b 15 12)) 0 0 (bits b 0 0)
  .next (s.setVf v { V with mon := mon, buckets := [], nstart := 0 })

/-- A proxy pair's fields and bases (R180); the shadow maps HBM of its window's die. -/
def proxyOk (s : State) (d : Nat) (v : BitVec 512) : State × Bool :=
  let sva := bits v 511 456
  let ok := sva % 4096 == 0 && bits v 455 400 % 4096 == 0 && decide (4 ≤ bits v 389 385) && decide (bits v 389 385 ≤ 16) &&
    decide (10 ≤ bits v 384 380) && decide (bits v 384 380 ≤ 30)
  if !ok then (s, false)
  else match translate s (homeSlice s sva) (bits v 399 390) sva true true with
    | (s, .ok pa _ .hbm) => (s, hbmDie pa == d)
    | (s, _) => (s, false)

/-- PROXY_PAIR_REGISTER (R359): the pair is registered afresh; pushes held before are tried again. -/
def execProxyPairRegister (s : State) : Out :=
  let d := s.bus.die % 2
  let p := s.bus.idx % 64
  let v := setBits s.bus.val 377 0 0
  let (s, ok) := proxyOk s d v
  let old := s.proxy d p
  let s := s.setProxy d p { Proxy.reset with reg := setBits v 379 378 (if ok then 1 else 3), held := old.held }
  .next (proxyWake s d p)

/-! ### The Cord (R179, R365, R374) -/

/-- The step that a window write makes: what the register's own rule says, else REGISTER_WRITE. -/
def winStep (s : State) : Instr :=
  let b := s.bus
  let (w, base) := winAt b.die b.off
  let top := base + w.bytes ≤ b.off + 8
  match w with
  | .lqs _ => .lqsWiWrite
  | .mon _ => .latencyMonitorWrite
  | .frr => if top then .frrRegister else .frrRiWrite
  | .lqd _ => if top then .lqdWrite else .registerWrite
  | .ovr => if top then (if bits b.val 2 2 = 1 ∧ bits (s.die b.die).ovr 1 0 = 2 then .ovrResume else .ovrRegister) else .registerWrite
  | .frc => if top then .frameRelease else .registerWrite
  | .part _ => if top then .partitionWrite else .registerWrite
  | .proxy _ => if top then .proxyPairRegister else .registerWrite
  | .rcc =>
    if top then
      (match bits b.val 3 0 with
       | 1 => .pagesResident
       | 2 => .requeue
       | 3 => .cancelRecord
       | _ => .registerWrite)
    else .registerWrite
  | .cxc =>
    (match bits b.val 3 0 with
     | 1 => .activate
     | 2 => .deactivate
     | 3 => .reloadRing
     | 4 => .closePhase
     | 5 => .reopenPhase
     | 6 => .endJob
     | _ => .registerWrite)
  | _ => .registerWrite

/-- The number of a register among its like. -/
def Win.number : Win → Nat
  | .lqd q => q
  | .lqs q => q
  | .irq i => i
  | .part v => v
  | .mon v => v
  | .virq v => v
  | .proxy p => p
  | _ => 0

/-- The step that a write to the management window makes. -/
def mgStep (s : State) : Instr :=
  let v := s.bus.val
  if s.bus.off ≠ 0x010 then .registerWrite
  else if v.getLsbD 5 then .lifecycleChange (BitVec.ofNat 2 (bits v 7 6))
  else if v.getLsbD 0 then .moduleReset (v.getLsbD 2)
  else if v.getLsbD 1 then .die1Reset
  else .registerWrite

/-- A window write is carried out. -/
def runWrite (i : Instr) (s : State) : Out :=
  match i with
  | .lqdWrite => execLqdWrite s
  | .lqsWiWrite => execLqsWiWrite s
  | .ovrRegister => execOvrRegister s
  | .ovrResume => execOvrResume s
  | .frrRegister => execFrrRegister s
  | .frrRiWrite => execFrrRiWrite s
  | .pagesResident => execPagesResident s
  | .requeue => execRequeue s
  | .cancelRecord => execCancelRecord s
  | .frameRelease => execFrameRelease s
  | .activate => execActivate s
  | .deactivate => execDeactivate s
  | .reloadRing => execReloadRing s
  | .closePhase => execClosePhase s
  | .reopenPhase => execReopenPhase s
  | .endJob => execEndJob s
  | .partitionWrite => execPartitionWrite s
  | .latencyMonitorWrite => execLatencyMonitorWrite s
  | .proxyPairRegister => execProxyPairRegister s
  | .lifecycleChange r => execLifecycleChange r s
  | .moduleReset c => execModuleReset c s
  | .die1Reset => execDie1Reset s
  | _ => execRegisterWrite s

/-- The host's answer register. -/
def hostAnswer (s : State) (v : Nat) (err : Bool) : State := { s with hostRead := BitVec.ofNat 64 v, hostErr := err }

/-- An access to a dispatcher window, or to the management window (die 2). -/
def windowAccess (s : State) (d off : Nat) (r : HostReq) : Out :=
  let (w, base) := if d = 2 then (.none, off) else winAt d off
  let byte := match w with | .route _ _ => true | _ => false
  if !((r.n == 8 && off % 8 == 0) || (r.n == 1 && byte)) then .next (hostAnswer s 0 true)
  else if r.write then
    let top := base + w.bytes ≤ off + 8
    let val := if d ≠ 2 ∧ byte = false ∧ top then assembled (s.die d) base w.bytes (r.data % 2 ^ 64) else r.data % 2 ^ (8 * r.n)
    let s := hostAnswer { s with bus := { die := d, idx := w.number, off := off, n := r.n, val := BitVec.ofNat 512 val } } 0 false
    runWrite (if d = 2 then mgStep s else winStep s) s
  else if d = 2 then .next (hostAnswer s (mgRead s off) false)
  else
    let v := match w with
      | .route j m => if r.n = 1 then winVal s d w else ((List.range 8).map (fun k => winVal s d (.route j (m + k)) * 2 ^ (8 * k))).sum
      | w => winVal s d w / 2 ^ (8 * (off - base))
    .next (hostAnswer s (v % 2 ^ 64) false)

/-- An access by physical address (R365), at the storage itself; poison and what is not backed answer an error. A line that is
overwritten whole holds no poison (R312). -/
def cordMemory (s : State) (r : HostReq) : State :=
  match target s r.addr, target s (r.addr + r.n - 1) with
  | some (tg, pa), some (tg', pa') =>
    if r.n = 0 || tg != tg' || tg == .remote || pa' != pa + r.n - 1 then hostAnswer s 0 true
    else
      let lines := (List.range ((pa' / 128) - pa / 128 + 1)).map (fun k => (pa / 128 + k) * 128)
      if r.write then
        let s := { s with pmem := memPutNat s.pmem pa r.n r.data,
                          poison := s.poison.filter (fun l => decide (l < pa) || decide (pa + r.n < l + 128)) }
        hostAnswer s 0 false
      else if lines.any s.poisoned then hostAnswer s 0 true
      else hostAnswer s (memNat s.pmem pa r.n) false
  | _, _ => hostAnswer s 0 true

/-- HOST_ACCESS (R365, R179): before the part is ready only the management window answers (R374); a stopped die answers
nothing. An access to the host's own memory does not cross the Cord. -/
def execHostAccess (r : HostReq) (s : State) : Out :=
  if r.aperture then
    if r.addr < 0x1000 then windowAccess s 2 r.addr r
    else if !s.mg.ready || s.die0.stopped then .next (hostAnswer s 0 true)
    else if 0x100000 ≤ r.addr ∧ r.addr < 0x200000 then windowAccess s 0 (r.addr - 0x100000) r
    else if 0x200000 ≤ r.addr ∧ r.addr < 0x300000 then
      (if s.dieDown 1 then .next (hostAnswer s 0 true) else windowAccess s 1 (r.addr - 0x200000) r)
    else .next (hostAnswer s 0 false)
  else if hostBase ≤ r.addr ∧ r.addr + r.n ≤ podBase then .next (cordMemory s r)
  else if !s.mg.ready || s.die0.stopped then .next (hostAnswer s 0 true)
  else .next (cordMemory s r)

end Sys2Proof.Machine
end

