-- ==== Sys2Proof/Machine/Vector.lean ====
section
/-! DEFINITION. Vector, mask and special-function instructions and the scratchpad vector loads and stores (07). -/

namespace Sys2Proof.Machine

/-! ### Elements under a mask (R99 to R101) -/

/-- The width that a float form is performed at (R65): FP32 at widths 0 and 3. -/
def floatWidth : Width → Width
  | .w16 => .w16
  | _ => .w32

/-- The format of a float form (R65, R104). -/
def vecFmt (w : Width) (bf : Bool) : FFormat := if w = .w16 then (if bf then fmtBF16 else fmtFP16) else fmtFP32

/-- Whether a float form takes a fallback (R65): its width, or bf away from width 1. -/
def floatFallback (w : Width) (bf : Bool) : Bool := w == .w8 || w == .w64 || (bf && w != .w16)

/-- The element results of a vector instruction written under its mask (R101). -/
def Tile.writeV (T : Tile) (d : Reg) (k : KReg) (w : Nat) (new : List Nat) : Tile :=
  T.putV d (BitVec.ofNat 2048 (packElems w (maskMerge (T.kreg k.toNat) (2048 / w) new (elemsOf w (2048 / w) (T.priorV d)))))

/-- A two-source integer form (R103); `hm` says that it names HMOD bit 0. -/
def vec2 (s : State) (i : Instr) (d a b : Reg) (k : KReg) (w : Width) (hm : Bool) (op : Bool → Nat → Nat → Nat → Nat) : Out :=
  issueTile s { instr := i, onA := false, rv := [a, b], wv := [d], hmod := if hm then 1 else 0 } (fun T _ I =>
    T.writeV d k w.nbits (List.zipWith (op (I.mod 0) w.nbits) (vecElems w.nbits (I.v 0)) (vecElems w.nbits (I.v 1))))

/-- A one-source integer form (R103). -/
def vec1 (s : State) (i : Instr) (d a : Reg) (k : KReg) (w : Width) (op : Nat → Nat → Nat) : Out :=
  issueTile s { instr := i, onA := false, rv := [a], wv := [d] } (fun T _ I =>
    T.writeV d k w.nbits ((vecElems w.nbits (I.v 0)).map (op w.nbits)))

/-! ### Integer arithmetic, logic and bit counts (R103) -/

/-- VADD (R103). -/
def execVadd (d a b : Reg) (k : KReg) (w : Width) (s : State) : Out :=
  vec2 s (.vadd d a b k w) d a b k w false (fun _ => aluAdd)

/-- VSUB (R103). -/
def execVsub (d a b : Reg) (k : KReg) (w : Width) (s : State) : Out :=
  vec2 s (.vsub d a b k w) d a b k w false (fun _ => aluSub)

/-- VMUL (R103). -/
def execVmul (d a b : Reg) (k : KReg) (w : Width) (s : State) : Out :=
  vec2 s (.vmul d a b k w) d a b k w false (fun _ => aluMul)

/-- VMULH (R103). -/
def execVmulh (d a b : Reg) (k : KReg) (w : Width) (s : State) : Out :=
  vec2 s (.vmulh d a b k w) d a b k w true (fun u w x y => if u then aluMulhu w x y else aluMulh w x y)

/-- VMIN (R103). -/
def execVmin (d a b : Reg) (k : KReg) (w : Width) (s : State) : Out :=
  vec2 s (.vmin d a b k w) d a b k w true (fun u w x y => if u then min x y else aluMin w x y)

/-- VMAX (R103). -/
def execVmax (d a b : Reg) (k : KReg) (w : Width) (s : State) : Out :=
  vec2 s (.vmax d a b k w) d a b k w true (fun u w x y => if u then max x y else aluMax w x y)

/-- VABS (R103). -/
def execVabs (d a : Reg) (k : KReg) (w : Width) (s : State) : Out := vec1 s (.vabs d a k w) d a k w (fun w x => (signedOf w x).natAbs % 2 ^ w)

/-- VNEG (R103). -/
def execVneg (d a : Reg) (k : KReg) (w : Width) (s : State) : Out := vec1 s (.vneg d a k w) d a k w (fun w x => aluSub w 0 x)

/-- VAND (R103). -/
def execVand (d a b : Reg) (k : KReg) (w : Width) (s : State) : Out :=
  vec2 s (.vand d a b k w) d a b k w false (fun _ _ x y => x &&& y)

/-- VOR (R103). -/
def execVor (d a b : Reg) (k : KReg) (w : Width) (s : State) : Out :=
  vec2 s (.vor d a b k w) d a b k w false (fun _ _ x y => x ||| y)

/-- VXOR (R103). -/
def execVxor (d a b : Reg) (k : KReg) (w : Width) (s : State) : Out :=
  vec2 s (.vxor d a b k w) d a b k w false (fun _ _ x y => x ^^^ y)

/-- VSLL (R103). -/
def execVsll (d a b : Reg) (k : KReg) (w : Width) (s : State) : Out :=
  vec2 s (.vsll d a b k w) d a b k w false (fun _ => aluSll)

/-- VSRL (R103). -/
def execVsrl (d a b : Reg) (k : KReg) (w : Width) (s : State) : Out :=
  vec2 s (.vsrl d a b k w) d a b k w false (fun _ => aluSrl)

/-- VSRA (R103). -/
def execVsra (d a b : Reg) (k : KReg) (w : Width) (s : State) : Out :=
  vec2 s (.vsra d a b k w) d a b k w false (fun _ => aluSra)

/-- VCLZ (R103, R50). -/
def execVclz (d a : Reg) (k : KReg) (w : Width) (s : State) : Out := vec1 s (.vclz d a k w) d a k w aluClz

/-- VFFS (R103, R50). -/
def execVffs (d a : Reg) (k : KReg) (w : Width) (s : State) : Out := vec1 s (.vffs d a k w) d a k w aluFfs

/-- VPOPC (R103, R50). -/
def execVpopc (d a : Reg) (k : KReg) (w : Width) (s : State) : Out := vec1 s (.vpopc d a k w) d a k w popCount

/-! ### Float arithmetic (R104) -/

/-- A float form: sources va, vb and, where it reads its destination, vd (R100); element e rounds with number e (R101). -/
def vecF (s : State) (i : Instr) (d : Reg) (rv : List Reg) (k : KReg) (w : Width) (bf draws : Bool)
    (op : FFormat → Rnd → Nat → Nat → Nat → Nat) : Out :=
  issueTile s { instr := i, onA := false, rv := rv, wv := [d] } (fun T f I =>
    let we := floatWidth w
    let n := we.nbits
    let fm := vecFmt we bf
    let (r, T) := T.sample f draws
    let T := T.raise (warnOf warnVfb (floatFallback w bf))
    let xs := List.zip (vecElems n (I.v 0)) (List.zip (vecElems n (I.v 1)) (vecElems n (I.v 2)))
    T.writeV d k n (mapFrom (fun e (x : Nat × Nat × Nat) => op fm { r with i := e } x.1 x.2.1 x.2.2) 0 xs))

/-- VADD, float form (R104). -/
def execVaddF (d a b : Reg) (k : KReg) (w : Width) (f : Bool) (s : State) : Out :=
  vecF s (.vaddF d a b k w f) d [a, b] k w f true (fun fm r x y _ => fAdd fm r x y)

/-- VSUB, float form (R104). -/
def execVsubF (d a b : Reg) (k : KReg) (w : Width) (f : Bool) (s : State) : Out :=
  vecF s (.vsubF d a b k w f) d [a, b] k w f true (fun fm r x y _ => fSub fm r x y)

/-- VMUL, float form (R104). -/
def execVmulF (d a b : Reg) (k : KReg) (w : Width) (f : Bool) (s : State) : Out :=
  vecF s (.vmulF d a b k w f) d [a, b] k w f true (fun fm r x y _ => fMul fm r x y)

/-- VMIN, float form (R104). -/
def execVminF (d a b : Reg) (k : KReg) (w : Width) (f : Bool) (s : State) : Out :=
  vecF s (.vminF d a b k w f) d [a, b] k w f false (fun fm _ x y _ => fMin fm x y)

/-- VMAX, float form (R104). -/
def execVmaxF (d a b : Reg) (k : KReg) (w : Width) (f : Bool) (s : State) : Out :=
  vecF s (.vmaxF d a b k w f) d [a, b] k w f false (fun fm _ x y _ => fMax fm x y)

/-- VABS, float form (R104). -/
def execVabsF (d a : Reg) (k : KReg) (w : Width) (f : Bool) (s : State) : Out :=
  vecF s (.vabsF d a k w f) d [a] k w f false (fun fm _ x _ _ => fAbs fm x)

/-- VNEG, float form (R104). -/
def execVnegF (d a : Reg) (k : KReg) (w : Width) (f : Bool) (s : State) : Out :=
  vecF s (.vnegF d a k w f) d [a] k w f false (fun fm _ x _ _ => fNeg fm x)

/-- VFMA (R104): the prior vd is the third source. -/
def execVfma (d a b : Reg) (k : KReg) (w : Width) (f : Bool) (s : State) : Out :=
  vecF s (.vfma d a b k w f) d [a, b, d] k w f true (fun fm r x y z => fFma fm r x y z)

/-- VFMS (R104): the prior vd is the third source. -/
def execVfms (d a b : Reg) (k : KReg) (w : Width) (f : Bool) (s : State) : Out :=
  vecF s (.vfms d a b k w f) d [a, b, d] k w f true (fun fm r x y z => fFms fm r x y z)

/-! ### Compares into masks (R105) -/

/-- The condition on two elements: as integers, or as floats of a format. -/
def vcmpElem (fl : Option FFormat) (w : Nat) (c : VCond) (x y : Nat) : Bool :=
  match fl with
  | some fm =>
    match c with
    | .eq => fCmp fm .eq x y
    | .ne => fCmp fm .ne x y
    | .lt | .ltu => fCmp fm .lt x y
    | .le | .leu => fCmp fm .le x y
    | .un => fCmp fm .un x y
  | none =>
    match c with
    | .eq => x == y
    | .ne => x != y
    | .lt => decide (signedOf w x < signedOf w y)
    | .le => decide (signedOf w x ≤ signedOf w y)
    | .ltu => decide (x < y)
    | .leu => decide (x ≤ y)
    | .un => false

/-- Fallbacks of VCMP (R65). -/
def vcmpFallback (w : Width) (bf fl : Bool) (c : VCond) : Bool :=
  if fl then floatFallback w bf || c == .ltu || c == .leu else bf || c == .un

/-- The mask bits of 64 lanes from the condition of each element: all elements of a lane, or any (R105). -/
def laneBits (w : Nat) (any : Bool) (cs : List Bool) : List Bool :=
  (List.range 64).map (fun i =>
    if w = 64 then cs.getD (i / 2) false
    else
      let own := (cs.drop (i * (32 / w))).take (32 / w)
      if any && w != 32 then own.any id else own.all id)

/-- Booleans as a word, the first as bit 0. -/
def wordOfBits (bs : List Bool) : Word := BitVec.ofNat 64 (packElems 1 (bs.map (fun b => if b then 1 else 0)))

/-- VCMP (R105). -/
def execVcmp (kd : KReg) (a b : Reg) (m : KReg) (w : Width) (bf fl : Bool) (c : VCond) (s : State) : Out :=
  issueTile s { instr := .vcmp kd a b m w bf fl c, onA := false, rv := [a, b], hmod := 1 } (fun T _ I =>
    let we := if fl then floatWidth w else w
    let fm := if fl then some (vecFmt we bf) else none
    let cs := List.zipWith (vcmpElem fm we.nbits c) (vecElems we.nbits (I.v 0)) (vecElems we.nbits (I.v 1))
    (T.raise (warnOf warnVfb (vcmpFallback w bf fl c))).setKreg kd.toNat
      (wordOfBits (laneBits we.nbits (I.mod 0) cs) &&& T.kreg m.toNat))

/-! ### Select, broadcast, extract, index, permute, scale (R106 to R111) -/

/-- VSEL (R106): every element is written. -/
def execVsel (d a b : Reg) (k : KReg) (w : Width) (s : State) : Out :=
  issueTile s { instr := .vsel d a b k w, onA := false, rv := [a, b], wv := [d] } (fun T _ I =>
    let n := w.nbits
    T.putV d (BitVec.ofNat 2048 (packElems n (maskMerge (T.kreg k.toNat) (2048 / n) (vecElems n (I.v 0)) (vecElems n (I.v 1))))))

/-- VBCAST (R107). -/
def execVbcast (d a : Reg) (k : KReg) (w : Width) (s : State) : Out :=
  issueTile s { instr := .vbcast d a k w, onA := false, rs := [a], wv := [d] } (fun T _ I =>
    T.writeV d k w.nbits (List.replicate (2048 / w.nbits) ((I.s 0).toNat % 2 ^ w.nbits)))

/-- Element x of a vector at width w. -/
def vecElem (w : Nat) (v : Vec) (x : Nat) : Nat := v.toNat / 2 ^ (w * x) % 2 ^ w

/-- VEXTR (R108). -/
def execVextr (d a b : Reg) (w : Width) (s : State) : Out :=
  issueTile s { instr := .vextr d a b w, onA := false, rv := [a], rs := [b], ws := [d], hmod := 1 } (fun T f I =>
    let e := vecElem w.nbits (I.v 0) ((I.s 0).toNat % (2048 / w.nbits))
    T.putS f d (if I.mod 0 then extS w.nbits e else extZ e))

/-- VIOTA (R109). -/
def execViota (d : Reg) (k : KReg) (w : Width) (s : State) : Out :=
  issueTile s { instr := .viota d k w, onA := false, wv := [d] } (fun T _ _ => T.writeV d k w.nbits (List.range (2048 / w.nbits)))

/-- VPERM (R110). -/
def execVperm (d a b : Reg) (k : KReg) (w : Width) (s : State) : Out :=
  issueTile s { instr := .vperm d a b k w, onA := false, rv := [a, b], wv := [d] } (fun T _ I =>
    T.writeV d k w.nbits ((vecElems w.nbits (I.v 1)).map (fun x => vecElem w.nbits (I.v 0) (x % (2048 / w.nbits)))))

/-- VSCL (R111): HMOD bit 0 is bf; away from width 1 it is ignored and sets warn.vfb. -/
def execVscl (d a b : Reg) (k : KReg) (w : Width) (s : State) : Out :=
  issueTile s { instr := .vscl d a b k w, onA := false, rv := [a, b], wv := [d], hmod := 1 } (fun T f I =>
    let we := floatWidth w
    let n := we.nbits
    let fm := vecFmt we (I.mod 0)
    let (r, T) := T.sample f true
    let T := T.raise (warnOf warnVfb (floatFallback w (I.mod 0)))
    let xs := List.zip (vecElems n (I.v 0)) (vecElems n (I.v 1))
    T.writeV d k n (mapFrom (fun e (x : Nat × Nat) => fScale fm { r with i := e } x.1 (signedOf n x.2)) 0 xs))

/-! ### Conversion (R112, R113) -/

/-- VCVT's codes: the 64-bit ones are performed as the 32-bit ones (R65). -/
def vcvtCode (c : BitVec 5) : Nat := if c = 18 then 16 else if c = 19 then 17 else c.toNat

/-- VCVT (R112, R113). A disabled element sets no bit but mt2 (R38, R101). -/
def execVcvt (d a : Reg) (t src : BitVec 5) (sat : Bool) (k : KReg) (s : State) : Out :=
  issueTile s { instr := .vcvt d a t src sat k, onA := false, rv := [a], wv := [d] } (fun T f I =>
    let tk := ckind (vcvtCode t)
    let sk := ckind (vcvtCode src)
    let n := 2048 / max (max sk.width tk.width) 8
    let (r, T) := T.sample f (convRounds tk sk)
    let m := T.kreg k.toNat
    let res := mapFrom (fun e x => convert tk sk { r with i := e } sat x) 0 (elemsOf sk.width n (I.v 0).toNat)
    let w := mapFrom (fun e (x : Nat × Warns) => if gov m n e then x.2 else x.2 &&& warnOf warnMt2 true) 0 res
    let T := (T.raise (w.foldl (· ||| ·) 0)).raise (warnOf warnVfb (t == 18 || t == 19 || src == 18 || src == 19))
    T.putV d (BitVec.ofNat 2048 (packElems tk.width (maskMerge m n (res.map (·.1)) (elemsOf tk.width n (T.priorV d))))))

/-! ### Reductions and scans (R114 to R116) -/

/-- The combining step of two present elements: integer form. -/
def ropInt (o : ROp) (w x y : Nat) : Nat :=
  match o with
  | .add => aluAdd w x y
  | .min => aluMin w x y
  | .max => aluMax w x y
  | .and => x &&& y
  | .or => x ||| y
  | .xor => x ^^^ y

/-- The combining step: float for ADD, MIN and MAX of a float form, else integer (R65, R114). -/
def ropElem (fm : Option FFormat) (o : ROp) (w : Nat) (r : Rnd) (x y : Nat) : Nat :=
  match fm, o with
  | some f, .add => fAdd f r x y
  | some f, .min => fMin f x y
  | some f, .max => fMax f x y
  | _, _ => ropInt o w x y

/-- A step in which a side may be absent (R114). -/
def ropStep (op : Rnd → Nat → Nat → Nat) (r : Rnd) : Option Nat → Option Nat → Option Nat
  | none, y => y
  | x, none => x
  | some x, some y => some (op r x y)

/-- One level of the tree (R115); steps are numbered from i. -/
def pairLevel (op : Rnd → Nat → Nat → Nat) (r : Rnd) (i : Nat) : List (Option Nat) → List (Option Nat)
  | x :: y :: rest => ropStep op { r with i := i } x y :: pairLevel op r (i + 1) rest
  | l => l

/-- The tree of R115 in k levels. -/
def treeReduce (op : Rnd → Nat → Nat → Nat) (r : Rnd) : Nat → Nat → List (Option Nat) → Option Nat
  | 0, _, l => (l.head?).join
  | k + 1, i, l => treeReduce op r k (i + l.length / 2) (pairLevel op r i l)

/-- What VRED gives when no input is present (R115). -/
def ropIdentity (fm : Option FFormat) (o : ROp) (w : Nat) : Nat :=
  match o with
  | .add | .or | .xor => 0
  | .and => 2 ^ w - 1
  | .min => match fm with | some f => f.overflowCode false | none => 2 ^ (w - 1) - 1
  | .max => match fm with | some f => f.overflowCode true | none => 2 ^ (w - 1)

/-- One doubling step of the scan (R116) at distance d; the step of element e is numbered i + (n − 1 − e). -/
def scanStep (op : Rnd → Nat → Nat → Nat) (r : Rnd) (i d : Nat) (l : List (Option Nat)) : List (Option Nat) :=
  l.take d ++ mapFrom (fun e (p : Option Nat × Option Nat) => ropStep op { r with i := i + (l.length - 1 - e) } p.1 p.2) d
    (List.zip l (l.drop d))

/-- The scan of R116 in k doubling steps. -/
def scanAll (op : Rnd → Nat → Nat → Nat) (r : Rnd) : Nat → Nat → Nat → List (Option Nat) → List (Option Nat)
  | 0, _, _, l => l
  | k + 1, i, d, l => scanAll op r k (i + (l.length - d)) (2 * d) (scanStep op r i d l)

/-- log2 of the number of elements at a width. -/
def logElems : Width → Nat
  | .w8 => 8
  | .w16 => 7
  | .w32 => 6
  | .w64 => 5

/-- Fallbacks of VRED and VSCAN (R65). -/
def ropFallback (w : Width) (bf fl : Bool) (o : ROp) : Bool :=
  if fl then floatFallback w bf || o == .and || o == .or || o == .xor else bf

/-- The inputs that the mask selects (R114). -/
def maskInputs (k : Word) (n : Nat) (xs : List Nat) : List (Option Nat) := mapFrom (fun e x => if gov k n e then some x else none) 0 xs

/-- VRED and VSCAN: one draw in SR when float ADD steps round (R114). -/
def vecRop (s : State) (i : Instr) (d a : Reg) (k : KReg) (w : Width) (bf fl : Bool) (o : ROp)
    (fin : Tile → Width → Option FFormat → (Rnd → Nat → Nat → Nat) → Rnd → List (Option Nat) → Tile) : Out :=
  issueTile s { instr := i, onA := false, rv := [a], wv := [d] } (fun T f I =>
    let we := if fl then floatWidth w else w
    let n := we.nbits
    let fm := if fl then some (vecFmt we bf) else none
    let (r, T) := T.sample f (fl && o == .add)
    let T := T.raise (warnOf warnVfb (ropFallback w bf fl o))
    fin T we fm (ropElem fm o n) r (maskInputs (T.kreg k.toNat) (2048 / n) (vecElems n (I.v 0))))

/-- VRED (R115). -/
def execVred (d a : Reg) (k : KReg) (w : Width) (bf fl : Bool) (o : ROp) (s : State) : Out :=
  vecRop s (.vred d a k w bf fl o) d a k w bf fl o (fun T we fm op r xs =>
    let v := (treeReduce op r (logElems we) 0 xs).getD (ropIdentity (if o == .min || o == .max then fm else none) o we.nbits)
    T.putV d (BitVec.ofNat 2048 v))

/-- VSCAN (R116). -/
def execVscan (d a : Reg) (k : KReg) (w : Width) (bf fl : Bool) (o : ROp) (s : State) : Out :=
  vecRop s (.vscan d a k w bf fl o) d a k w bf fl o (fun T we _ op r xs =>
    T.writeV d k we.nbits ((scanAll op r (logElems we) 0 1 xs).map (·.getD 0)))

/-! ### Special functions (R117, R118) -/

/-- A special function: performed at width 2 whatever the width (R65); one draw in SR. -/
def vecSpecial (s : State) (i : Instr) (d a : Reg) (k : KReg) (w : Width) (op : FVal → FVal) : Out :=
  issueTile s { instr := i, onA := false, rv := [a], wv := [d] } (fun T f I =>
    let (r, T) := T.sample f true
    let T := T.raise (warnOf warnVfb (w != .w32))
    T.writeV d k 32 (mapFrom (fun e x => fmtFP32.round { r with i := e } false (op (fmtFP32.decode x))) 0 (vecElems 32 (I.v 0))))

/-- VEXP2 (R117, R118). -/
def execVexp2 (d a : Reg) (k : KReg) (w : Width) (s : State) : Out := vecSpecial s (.vexp2 d a k w) d a k w vExp2

/-- VLOG2 (R117, R118). -/
def execVlog2 (d a : Reg) (k : KReg) (w : Width) (s : State) : Out := vecSpecial s (.vlog2 d a k w) d a k w vLog2

/-- VRCP (R117, R118). -/
def execVrcp (d a : Reg) (k : KReg) (w : Width) (s : State) : Out := vecSpecial s (.vrcp d a k w) d a k w vRcp

/-- VRSQ (R117, R118). -/
def execVrsq (d a : Reg) (k : KReg) (w : Width) (s : State) : Out := vecSpecial s (.vrsq d a k w) d a k w vRsq

/-- VTANH (R117, R118). -/
def execVtanh (d a : Reg) (k : KReg) (w : Width) (s : State) : Out := vecSpecial s (.vtanh d a k w) d a k w vTanh

/-! ### Mask instructions (R119) -/

/-- KAND. -/
def execKand (d a b : KReg) (s : State) : Out :=
  issueTile s { instr := .kand d a b, onA := false } (fun T _ _ => T.setKreg d.toNat (T.kreg a.toNat &&& T.kreg b.toNat))

/-- KOR. -/
def execKor (d a b : KReg) (s : State) : Out :=
  issueTile s { instr := .kor d a b, onA := false } (fun T _ _ => T.setKreg d.toNat (T.kreg a.toNat ||| T.kreg b.toNat))

/-- KNOT. -/
def execKnot (d a : KReg) (s : State) : Out :=
  issueTile s { instr := .knot d a, onA := false } (fun T _ _ => T.setKreg d.toNat (~~~ T.kreg a.toNat))

/-- KPOPC. -/
def execKpopc (d : Reg) (a : KReg) (s : State) : Out :=
  issueTile s { instr := .kpopc d a, onA := false, ws := [d] } (fun T f _ => T.putS f d (extZ (popCount 64 (T.kreg a.toNat).toNat)))

/-! ### Scratchpad vector loads and stores (R120 to R122) -/

/-- The address of a scratchpad vector form, exact. -/
def vaddr (base : Word) (h : Option (BitVec 22)) (o : BitVec 6) : Int := base.toNat + immS h 6 o.toNat * 256

/-- VLDS (R120). -/
def execVlds (d b : Reg) (o : BitVec 6) (s : State) : Out :=
  issue s { instr := .vlds d b o, onX := false, rs := [b], wv := [d], himm := true, hpri := true } (fun s I =>
    let x := vaddr (I.s 0) I.himm o
    match localCause x 256 codeEnd 4 with
    | some c => .trap c (BitVec.ofInt 64 x)
    | none =>
      if s.localHeld s.focus.2 x.toNat 256 false then .wait
      else .done (s.loadToV s.focus.2 d (BitVec.ofNat 2048 ((s.tile s.focus.1).localNat x.toNat 256))))

/-- Elements of nb bytes at a pitch, lowest first. -/
def Tile.gatherElems (T : Tile) (x pitch nb : Nat) : Nat → List Nat
  | 0 => []
  | n + 1 => T.localNat x nb :: T.gatherElems (x + pitch) pitch nb n

/-- VLDT (R120, R121): the pitch is the HMOD's payload [15:0] when one is bound, else 256. -/
def execVldt (d b : Reg) (w : Width) (o : BitVec 6) (s : State) : Out :=
  issue s { instr := .vldt d b w o, onX := false, rs := [b], wv := [d], himm := true, hmod := 0xFFFF, hpri := true } (fun s I =>
    let x := vaddr (I.s 0) I.himm o
    let p := match I.hmod with | some m => m.toNat % 2 ^ 16 | none => 256
    let n := 2048 / w.nbits
    let span := p * (n - 1) + w.nbytes
    match localCause x span codeEnd w.nbytes with
    | some c => .trap c (BitVec.ofInt 64 x)
    | none =>
      if p = 0 ∨ p % w.nbytes ≠ 0 then .trap 0x08 (BitVec.ofInt 64 x)
      else if s.localHeld s.focus.2 x.toNat span false then .wait
      else .done (s.loadToV s.focus.2 d
        (BitVec.ofNat 2048 (packElems w.nbits ((s.tile s.focus.1).gatherElems x.toNat p w.nbytes n)))))

/-- VSTS (R120). -/
def execVsts (d b : Reg) (o : BitVec 6) (s : State) : Out :=
  issue s { instr := .vsts d b o, onX := false, rs := [b], rv := [d], himm := true, hpri := true } (fun s I =>
    let x := vaddr (I.s 0) I.himm o
    match localCause x 256 spadEnd 4 with
    | some c => .trap c (BitVec.ofInt 64 x)
    | none =>
      if s.localHeld s.focus.2 x.toNat 256 true then .wait
      else .done (s.modTile s.focus.1 (fun T => T.spadPut x.toNat 256 (I.v 0).toNat)))

end Sys2Proof.Machine
end

