-- ==== Sys2Proof/Machine/Matrix.lean ====
section
/-! DEFINITION. The matrix unit, its operand rings, the loop controller, accumulator commands and TSWAP (08). -/

namespace Sys2Proof.Machine

/-! ### Shapes, formats, rings -/

/-- Rows and columns of a shape (R56). -/
def shapeOf : Shape → Nat × Nat
  | .s64x128 => (64, 128)
  | .s64x64 => (64, 64)
  | .s32x32 => (32, 32)
  | .s16x16 => (16, 16)
  | .s8x8 => (8, 8)

/-- A shape that an F-tile lacks (R19). -/
def bigShape (h : Shape) : Bool := h == .s64x128 || h == .s64x64

/-- Whether the tile has an accumulator (R19). -/
def accOk (t acc : Nat) : Bool := !isF t || decide (acc < 2)

def Tile.acc (T : Tile) (k : Nat) : Acc := if h : k < 4 then T.accs[k] else .reset
def Tile.setAcc (T : Tile) (k : Nat) (a : Acc) : Tile := { T with accs := T.accs.setIfInBounds k a }
def Tile.ring (T : Tile) (k : Nat) : Ring := if h : k < 8 then T.rings[k] else .reset
def Tile.setRing (T : Tile) (k : Nat) (r : Ring) : Tile := { T with rings := T.rings.setIfInBounds k r }
def Tile.chain (T : Tile) (k : Nat) : Chain := if h : k < 4 then T.chains[k] else .reset
def Tile.setChain (T : Tile) (k : Nat) (c : Chain) : Tile := { T with chains := T.chains.setIfInBounds k c }
def Tile.fslot (T : Tile) (k : Nat) : Option Armed := if h : k < 4 then T.slots[k] else none
def Tile.setFslot (T : Tile) (k : Nat) (a : Option Armed) : Tile := { T with slots := T.slots.setIfInBounds k a }

/-- Slots not filled (R127). -/
def Ring.free (r : Ring) : Nat := r.count - r.filled

/-- Filled slots that no fire has been assigned (R127). -/
def Ring.unclaimed (r : Ring) : Nat := r.filled - r.claimed

/-- Byte range of a slot by its index. -/
def Ring.range (r : Ring) (k : Nat) : Nat × Nat := (r.base + k * r.slot, r.slot)

/-- A fire pops its slot (R127). -/
def Ring.pop (r : Ring) : Ring := { r with head := (r.head + 1) % r.count, filled := r.filled - 1, claimed := r.claimed - 1 }

/-- Float formats of 8 bits or narrower; integer formats of 8 bits or narrower but for T2 (R66). -/
def narrowFloat (f : Nat) : Bool := decide (3 ≤ f) && decide (f ≤ 7)
def narrowInt (f : Nat) : Bool := f == 8 || f == 9 || f == 11 || f == 12

/-- The supported format pairs (R66). -/
def pairOk (a b : Nat) : Bool :=
  (narrowFloat a && narrowFloat b) || (narrowInt a && narrowInt b) || (a == 13 && b == 8) || (a == 8 && b == 13) ||
    (a == b && (a == 0 || a == 1 || a == 2 || a == 10))

/-- An operation whose fires are null fires (R65). -/
def mmaNull (t ra rb fa fb : Nat) (h : Shape) (p : Sparsity) : Bool :=
  !pairOk fa fb || (isF t && bigShape h) || (p != .dense && (decide (16 ≤ (ckind fa).width) || fa == 13)) || ra == rb

/-- The integer mode of a pair (R41). -/
def intMode (fa fb : Nat) : Bool := decide (8 ≤ fa) && decide (8 ≤ fb)

/-- Index bits and group of a sparsity (R131). -/
def sparsityOf : Sparsity → Nat × Nat
  | .dense => (0, 1)
  | .sp24 => (2, 4)
  | .sp48 => (3, 8)

/-- Depth K and values per row J of an operation, from the slot size of ring A (R131); `none` when they are not whole. -/
def mmaDepth (m wa : Nat) (p : Sparsity) (sa : Nat) : Option (Nat × Nat) :=
  let (b, g) := sparsityOf p
  let j := 8 * sa / (m * (wa + b))
  if 8 * sa % (m * (wa + b)) ≠ 0 ∨ j = 0 then none
  else if p = .dense then some (j, j)
  else if j % (g / 2) ≠ 0 then none else some (2 * j, j)

/-- The checks of R131. -/
def mmaSetupOk (A B : Ring) (fa fb : Nat) (h : Shape) (p : Sparsity) : Bool :=
  A.slot != 0 && B.slot != 0 &&
    (match mmaDepth (shapeOf h).1 (ckind fa).width p A.slot with
     | none => false
     | some (k, _) => decide (k * (shapeOf h).2 * (ckind fb).width ≤ 8 * B.slot))

/-- Places in the command queue (R124). -/
def mqDepth : Nat := 8

/-! ### MMA and MMA.ARM at issue (R131, R134, R135) -/

/-- An MMA word's operation, and its draw (R134): in SR, for MMA.ARM always, for MMA outside integer mode. -/
def Tile.mmaSample (T : Tile) (f : Front) (op : MmaOp) : MmaOp × Tile :=
  let (r, T) := T.sample f (op.arm || !intMode op.fa op.fb)
  ({ op with mode := BitVec.ofNat 3 r.mode, seed := r.seed }, T)

/-- MMA and MMA.ARM join the command queue once a place is free (R124). -/
def issueMma (s : State) (i : Instr) (op : MmaOp) : Out :=
  issue s { instr := i, onA := false, unit := accOk s.focus.1 op.acc } (fun s _ =>
    let T := s.tile s.focus.1
    if !mmaSetupOk (T.ring op.ringA) (T.ring op.ringB) op.fa op.fb op.shape op.sp then .trap 0x0B (wordVal i)
    else if mqDepth ≤ T.mq.length then .wait
    else
      let (op, T) := T.mmaSample s.focus.2 op
      .done (s.setTile s.focus.1 { T with mq := T.mq ++ [.mma op] }))

/-- The operation of an MMA word's fields. -/
def mmaOpOf (t : Nat) (x y : BitVec 3) (c : BitVec 2) (a b : BitVec 4) (h : Shape) (p : Sparsity) (f : BitVec 3) (arm : Bool) : MmaOp :=
  { ringA := x.toNat, ringB := y.toNat, acc := c.toNat, fa := a.toNat, fb := b.toNat, shape := h, sp := p,
    ovw := f.getLsbD 0, neg := f.getLsbD 1, tb := f.getLsbD 2, arm := arm,
    null := mmaNull t x.toNat y.toNat a.toNat b.toNat h p, mode := 0, seed := 0 }

/-- MMA (R133). -/
def execMma (x y : BitVec 3) (c : BitVec 2) (a b : BitVec 4) (h : Shape) (p : Sparsity) (f : BitVec 3) (s : State) : Out :=
  issueMma s (.mma x y c a b h p f) (mmaOpOf s.focus.1 x y c a b h p f false)

/-- MMA.ARM (R135). -/
def execMmaArm (x y : BitVec 3) (c : BitVec 2) (a b : BitVec 4) (h : Shape) (p : Sparsity) (f : BitVec 3) (s : State) : Out :=
  issueMma s (.mmaArm x y c a b h p f) (mmaOpOf s.focus.1 x y c a b h p f true)

/-! ### Accumulator commands at issue (R142 to R147) -/

/-- A command joins the queue, its byte ranges the scoreboard at once (R149). -/
def pushMCmd (s : State) (ranges : List (Nat × Nat)) (writes : Bool) (mk : Nat → MCmd) : Verdict :=
  let T := s.tile s.focus.1
  if mqDepth ≤ T.mq.length then .wait
  else
    let (id, s) := s.fresh
    let T := if ranges.isEmpty then T else T.sbEnter id ranges writes
    .done (s.setTile s.focus.1 { T with mq := T.mq ++ [mk id] })

/-- MDIS (R143). -/
def execMdis (c : BitVec 2) (s : State) : Out :=
  issue s { instr := .mdis c, onA := false, unit := accOk s.focus.1 c.toNat } (fun s _ => pushMCmd s [] false (fun _ => .mdis c.toNat))

/-- MZERO (R144). -/
def execMzero (c : BitVec 2) (s : State) : Out :=
  issue s { instr := .mzero c, onA := false, unit := accOk s.focus.1 c.toNat } (fun s _ => pushMCmd s [] false (fun _ => .mzero c.toNat))

/-- Bytes of a packed row of n elements (R39). -/
def rowBytes (n w : Nat) : Nat := (n * w + 7) / 8

/-- The byte ranges of m rows of r bytes at a pitch. -/
def rowRanges (addr pitch r m : Nat) : List (Nat × Nat) := (List.range m).map (fun k => (addr + k * pitch, r))

/-- The address checks of R145 and R146; the cause raised. -/
def rowCause (addr pitch r m : Nat) : Option Nat :=
  if spadEnd < addr + (m - 1) * pitch + r then some 0x07
  else if addr % 4 ≠ 0 ∨ pitch % 4 ≠ 0 ∨ pitch < r then some 0x08 else none

/-- Whether the tile has the region a command names (R142). -/
def regionOk (t acc : Nat) (h : Shape) : Bool := accOk t acc && !(isF t && bigShape h)

/-- MFLUSH (R145). -/
def execMflush (a b : Reg) (t : BitVec 5) (c : BitVec 2) (r : Bool) (h : Shape) (s : State) : Out :=
  issue s { instr := .mflush a b t c r h, onA := false, unit := regionOk s.focus.1 c.toNat h, rs := [a, b] } (fun s I =>
    let (m, n) := shapeOf h
    let rb := rowBytes n (ckind t.toNat).width
    let x := (I.s 0).toNat
    let p := (I.s 1).toNat
    match rowCause x p rb m with
    | some cause => .trap cause (I.s 0)
    | none =>
      let (rd, T) := (s.tile s.focus.1).sample s.focus.2 true
      pushMCmd (s.setTile s.focus.1 T) (rowRanges x p rb m) true
        (fun id => .mflush c.toNat h x p t.toNat r (BitVec.ofNat 3 rd.mode) rd.seed id))

/-- MLOAD (R146). -/
def execMload (a b : Reg) (t : BitVec 5) (c : BitVec 2) (h : Shape) (s : State) : Out :=
  issue s { instr := .mload a b t c h, onA := false, unit := regionOk s.focus.1 c.toNat h, rs := [a, b] } (fun s I =>
    let (m, n) := shapeOf h
    let rb := rowBytes n (ckind t.toNat).width
    let x := (I.s 0).toNat
    let p := (I.s 1).toNat
    match rowCause x p rb m with
    | some cause => .trap cause (I.s 0)
    | none => pushMCmd s (rowRanges x p rb m) false (fun id => .mload c.toNat h x p t.toNat id))

/-- The scale vectors MSCA reads: address and bytes (R147). -/
def scaleVecs (h : Shape) (f32 norow nocol : Bool) (ra ca : Nat) : List (Nat × Nat) :=
  let w := if f32 then 4 else 1
  (if norow then [] else [(ra, (shapeOf h).1 * w)]) ++ (if nocol then [] else [(ca, (shapeOf h).2 * w)])

/-- The checks of MSCA's scale vectors; the cause and the address. -/
def scaleCause (f32 : Bool) (vs : List (Nat × Nat)) : Option (Nat × Nat) :=
  match vs.find? (fun v => decide (spadEnd < v.1 + v.2)) with
  | some v => some (0x07, v.1)
  | none => match vs.find? (fun v => f32 && v.1 % 4 != 0) with
    | some v => some (0x08, v.1)
    | none => none

/-- MSCA (R147). -/
def execMsca (a b : Reg) (u : BitVec 2) (f r l : Bool) (c : BitVec 2) (h : Shape) (s : State) : Out :=
  issue s { instr := .msca a b u f r l c h, onA := false, unit := regionOk s.focus.1 c.toNat h && accOk s.focus.1 u.toNat,
            rs := [a, b] } (fun s I =>
    let vs := scaleVecs h f r l (I.s 0).toNat (I.s 1).toNat
    match scaleCause f vs with
    | some (cause, x) => .trap cause (BitVec.ofNat 64 x)
    | none =>
      let (rd, T) := (s.tile s.focus.1).sample s.focus.2 true
      pushMCmd (s.setTile s.focus.1 T) vs false
        (fun id => .msca c.toNat u.toNat h f r l (I.s 0).toNat (I.s 1).toNat (BitVec.ofNat 3 rd.mode) rd.seed id))

/-! ### Rings (R126 to R129) -/

/-- An operation names a ring. -/
def MmaOp.names (op : MmaOp) (g : Nat) : Bool := op.ringA == g || op.ringB == g

/-- A queued command, an armed slot or a fire names the ring. -/
def Tile.ringInUse (T : Tile) (g : Nat) : Bool :=
  T.mq.any (fun c => match c with | .mma op => op.names g | _ => false) ||
    T.slots.toList.any (fun a => match a with | some x => x.op.names g | none => false) || T.fires.any (fun f => f.op.names g)

/-- RSET (R126). -/
def execRset (g : BitVec 3) (a : Reg) (s : State) : Out :=
  issue s { instr := .rset g a, onX := false, rs := [a] } (fun s I =>
    let v := I.s 0
    let cnt := bits v 45 40 + 1
    let slot := bits v 31 20 * 256
    let base := bits v 19 0
    if spadEnd < base + cnt * slot then .trap 0x07 v
    else if base % 256 ≠ 0 then .trap 0x08 v
    else if slot = 0 then .trap 0x0B v
    else if (s.tile s.focus.1).ringInUse g.toNat then .wait
    else .done (s.modTile s.focus.1 (fun T =>
      T.setRing g.toNat { Ring.reset with base := base, slot := slot, count := cnt })))

/-- The slots that a push of n publishes. -/
def Ring.published (r : Ring) (n : Nat) : List (Nat × Nat) := (List.range n).map (fun k => r.range ((r.tail + k) % r.count))

/-- RPUSH (R128): it waits for room, and, as a reader of what it publishes, for earlier engine writes there (R149). -/
def execRpush (g : BitVec 3) (a : Reg) (s : State) : Out :=
  issue s { instr := .rpush g a, onX := false, rs := [a] } (fun s I =>
    let T := s.tile s.focus.1
    let r := T.ring g.toNat
    let n := (I.s 0).toNat
    if r.slot = 0 ∨ r.count < n then .trap 0x0B (I.s 0)
    else if r.free < n ∨ T.sbClash (r.published n) false then .wait
    else .done (s.setTile s.focus.1 (T.setRing g.toNat { r with tail := (r.tail + n) % r.count, filled := r.filled + n })))

/-- RSTAT's result (R129). -/
def Ring.stat (r : Ring) : Word :=
  BitVec.ofNat 64 (r.tail * 2 ^ 32 + r.claimed * 2 ^ 24 + r.count * 2 ^ 16 + r.filled * 2 ^ 8 + r.free)

/-- RSTAT (R129). -/
def execRstat (d : Reg) (g : BitVec 3) (b : Reg) (s : State) : Out :=
  issue s { instr := .rstat d g b, rs := [b], ws := [d] } (fun s I =>
    let T := s.tile s.focus.1
    let r := T.ring g.toNat
    let n := (I.s 0).toNat
    if r.count < n then .trap 0x0B (I.s 0)
    else if r.free < n then .wait
    else .done (s.setTile s.focus.1 (T.putS s.focus.2 d r.stat)))

/-! ### Counter chains (R136 to R141) -/

def Chain.lm1 (c : Chain) : Nat := bits c.desc 15 14
def Chain.rm1 (c : Chain) : Nat := bits c.desc 13 12
def Chain.mode (c : Chain) : Nat := bits c.desc 11 10
def Chain.fslotNo (c : Chain) : Nat := bits c.desc 9 8
def Chain.fen (c : Chain) : Bool := c.desc.getLsbD 1
def Chain.ftarget (c : Chain) : Nat := bits c.desc 6 2
def Chain.frule (c : Chain) : Bool := c.desc.getLsbD 7
def Chain.pen (c : Chain) : Bool := c.desc.getLsbD 31
def Chain.pchain (c : Chain) : Nat := bits c.desc 30 29
def Chain.ratio (c : Chain) : Nat := bits c.desc 63 48
def Chain.pitch (c : Chain) : Nat := bits c.desc 255 224
def Chain.bound (c : Chain) (l : Nat) : Nat := bits c.desc (143 + 16 * l) (128 + 16 * l)
def Chain.stride (c : Chain) (l : Nat) : Int := signedOf 32 (bits c.desc (351 + 32 * l) (320 + 32 * l))
def Chain.fbase (c : Chain) : Nat := bits c.desc 223 192
def Chain.count (c : Chain) (l : Nat) : Nat := c.cnt.getD l 0

/-- A flush target or source code (R141). -/
def accTarget (k : Nat) : Bool := decide (k ≤ 13) || k == 16 || k == 17

/-- The faults of a chain descriptor (R137). -/
def chainFaulty (c : Chain) (cc : Nat) (ftile : Bool) : Bool :=
  let ls := List.range (c.lm1 + 1)
  c.mode == 3 || ls.any (fun l => c.bound l == 0) || decide (c.lm1 < c.rm1) ||
    (c.pen && (c.ratio == 0 || c.pchain == cc)) || (c.fen && !accTarget c.ftarget) || (ftile && decide (2 ≤ c.fslotNo)) ||
    decide (2 ^ 32 ≤ (ls.map c.bound).foldl (· * ·) 1)

/-- CSET (R137). -/
def execCset (c : BitVec 2) (a : Reg) (s : State) : Out :=
  issue s { instr := .cset c a, onA := false, rs := [a] } (fun s I =>
    let T := s.tile s.focus.1
    let x := (I.s 0).toNat
    if spadEnd < x + 64 then .trap 0x07 (I.s 0)
    else if x % 64 ≠ 0 then .trap 0x08 (I.s 0)
    else if (T.chain c.toNat).st = .running ∨ T.sbClash [(x, 64)] false then .wait
    else
      let ch : Chain := { Chain.reset with desc := BitVec.ofNat 512 (T.localNat x 64), st := .ready }
      if chainFaulty ch c.toNat (isF s.focus.1) then .trap 0x0B (I.s 0)
      else .done (s.setTile s.focus.1 (T.setChain c.toNat ch)))

/-- CGO (R137). -/
def execCgo (c : BitVec 2) (s : State) : Out :=
  issue s { instr := .cgo c, onA := false } (fun s _ =>
    let T := s.tile s.focus.1
    let ch := T.chain c.toNat
    match ch.st with
    | .unconfigured => .trap 0x0B (wordVal (.cgo c))
    | .running => .wait
    | _ => .done (s.setTile s.focus.1 (T.setChain c.toNat { Chain.reset with desc := ch.desc, st := .running })))

def ChainState.code : ChainState → Nat
  | .unconfigured => 0
  | .ready => 1
  | .running => 2
  | .done => 3

/-- CSTAT (R141). -/
def execCstat (d : Reg) (c : BitVec 2) (b : Reg) (s : State) : Out :=
  issue s { instr := .cstat d c b, onA := false, rs := [b], ws := [d] } (fun s I =>
    let T := s.tile s.focus.1
    let ch := T.chain c.toNat
    if I.s 0 ≠ 0 ∧ ch.st = .running ∧ ch.done < bits (I.s 0) 31 0 then .wait
    else .done (s.setTile s.focus.1 (T.putS s.focus.2 d
      (BitVec.ofNat 64 (ch.done * 2 ^ 32 + (if ch.err then 4 else 0) + ch.st.code)))))

/-! ### Accumulators (R41, R46, R145 to R147) -/

/-- Element m, n; default zero, which is +0 and the integer 0. -/
def Acc.get (a : Acc) (m n : Nat) : BitVec 96 := Sparse.get 0 a.elems (m * 128 + n)

/-- The exact value of an element in its accumulator's mode. -/
def accVal (int : Bool) (e : BitVec 96) : FVal := if int then FVal.ofInt e.toInt else fmtXF96.decode e.toNat

/-- Conversion of one element to the other mode (R41): integer to XF96 rounds; XF96 to integer is towards zero with
saturation, a NaN 0. -/
def accConvElem (toIntMode : Bool) (r : Rnd) (e : BitVec 96) : BitVec 96 :=
  if toIntMode then
    BitVec.ofInt 96 (toInt { r with mode := 1 } true (-(2 ^ 95)) (2 ^ 95 - 1) 96 (fmtXF96.decode e.toNat)).1
  else BitVec.ofNat 96 (fmtXF96.round r false (FVal.ofInt e.toInt))

/-- Every element converted, numbered from 2^41 (R134). -/
def Acc.toMode (a : Acc) (int : Bool) (r : Rnd) : Acc :=
  { elems := (a.elems.map (fun (p : Nat × BitVec 96) => (p.1, accConvElem int { r with i := 2 ^ 41 + p.1 } p.2))).filter (fun p => p.2 != 0),
    int := int }

/-- An element of a run of w-bit elements held as one number (R39). -/
def runElem (w run i : Nat) : Nat := run / 2 ^ (w * i) % 2 ^ w

/-- The integer that an element of an integer format holds. -/
def CKind.intVal (k : CKind) (w : Nat) : Int :=
  match k with
  | .int true n => signedOf n w
  | .int false n => (w % 2 ^ n : Nat)
  | .t2 => if w % 4 = 1 then 1 else if w % 4 = 3 then -1 else 0
  | _ => 0

/-- What a fire reads: the operation, K and J, and the bytes of its two slots. -/
structure FireIn where
  op : MmaOp
  k  : Nat
  j  : Nat
  a  : Nat
  b  : Nat

/-- The values of A that stand at [m][k] (R132): one for a dense operand; for a sparse one those whose index is k, or a
zero. -/
def FireIn.aAt (x : FireIn) (m k : Nat) : List Nat :=
  let w := (ckind x.op.fa).width
  if x.op.sp = .dense then [runElem w x.a (m * x.k + k)]
  else
    let (b, g) := sparsityOf x.op.sp
    let idx := x.a / 2 ^ (8 * ((shapeOf x.op.shape).1 * x.j * w / 8))
    let js := (List.range x.j).filter (fun j => g * (j / (g / 2)) + runElem b idx (m * x.j + j) == k)
    if js.isEmpty then [0] else js.map (fun j => runElem w x.a (m * x.j + j))

/-- B[k][n] (R132). -/
def FireIn.bAt (x : FireIn) (k n : Nat) : Nat :=
  runElem (ckind x.op.fb).width x.b (if x.op.tb then n * x.k + k else k * (shapeOf x.op.shape).2 + n)

/-- The k of group g (R46). -/
def FireIn.groupKs (x : FireIn) (g : Nat) : List Nat := (List.range 8).filterMap (fun i => if 8 * g + i < x.k then some (8 * g + i) else none)

/-- The products of one group at [m][n], integers. -/
def FireIn.groupInt (x : FireIn) (m n g : Nat) : Int :=
  let one (k : Nat) : Int := ((x.aAt m k).map (fun a => (ckind x.op.fa).intVal a * (ckind x.op.fb).intVal (x.bAt k n))).foldl (· + ·) 0
  let v := ((x.groupKs g).map one).foldl (· + ·) 0
  if x.op.neg then -v else v

/-- The exact sum of one group at [m][n]. -/
def FireIn.groupF (x : FireIn) (m n g : Nat) : FVal :=
  let ps := (x.groupKs g).flatMap (fun k => (x.aAt m k).map (fun a =>
    let p := FVal.mul ((ckind x.op.fa).decode a).1 ((ckind x.op.fb).decode (x.bAt k n)).1
    if x.op.neg then p.neg else p))
  ps.foldl (FVal.add false) (.fin false 0 1 0)

/-- Groups added one after the other, in ascending g (R46): element and aovf. -/
def FireIn.accumulate (x : FireIn) (int : Bool) (r : Rnd) (m n : Nat) (e : BitVec 96) : BitVec 96 × Bool :=
  (List.range ((x.k + 7) / 8)).foldl (fun (st : BitVec 96 × Bool) g =>
    if int then
      let v := st.1.toInt + x.groupInt m n g
      (BitVec.ofInt 96 v, st.2 || decide (v < -(2 ^ 95)) || decide (2 ^ 95 ≤ v))
    else
      let r := { r with i := g * 2 ^ 13 + m * 128 + n }
      (BitVec.ofNat 96 (fmtXF96.round r false (FVal.add r.rdn (fmtXF96.decode st.1.toNat) (x.groupF m n g))), st.2)) (e, false)

/-- All index pairs of an M × N region. -/
def regionOf (h : Shape) : List (Nat × Nat) :=
  (List.range (shapeOf h).1).flatMap (fun m => (List.range (shapeOf h).2).map (fun n => (m, n)))

/-- A T2 operand holds the spare code (R38). -/
def t2Spare (f w run cnt : Nat) : Bool := f == 13 && (List.range cnt).any (fun i => runElem w run i == 2)

/-- A supported fire's effect on its accumulator (R133), with the sticky bits it raises. -/
def FireIn.perform (x : FireIn) (first : Bool) (seed : Word) (a : Acc) : Acc × Warns :=
  let int := intMode x.op.fa x.op.fb
  let r : Rnd := { mode := x.op.mode.toNat, seed := seed, i := 0 }
  let owr := first || (!x.op.arm && x.op.ovw)
  let mix := !owr && a.int != int
  let a : Acc := if owr then { elems := [], int := int } else if mix then a.toMode int r else a
  let (els, ov) := (regionOf x.op.shape).foldl (fun (st : Sparse (BitVec 96) × Bool) mn =>
    let (e, o) := x.accumulate int r mn.1 mn.2 (a.get mn.1 mn.2)
    (Sparse.set 0 st.1 (mn.1 * 128 + mn.2) e, st.2 || o)) (a.elems, false)
  let cA := if x.op.sp = .dense then (shapeOf x.op.shape).1 * x.k else (shapeOf x.op.shape).1 * x.j
  ({ elems := els, int := int },
   warnOf warnAmix mix ||| warnOf warnAovf ov |||
     warnOf warnMt2 (t2Spare x.op.fa 2 x.a cA || t2Spare x.op.fb 2 x.b (x.k * (shapeOf x.op.shape).2)))

/-- Rows written by MFLUSH or a marker flush (R145); numbers of the values start at i0. -/
def Tile.flushAcc (T : Tile) (acc : Nat) (h : Shape) (addr pitch code : Nat) (sat : Bool) (r : Rnd) (i0 : Nat) : Tile :=
  let a := T.acc acc
  let k := ckind code
  let (m, n) := shapeOf h
  let row (i : Nat) : List (Nat × Warns) :=
    (List.range n).map (fun j => k.encode { r with i := i0 + i * 128 + j } sat (accVal a.int (a.get i j)))
  (List.range m).foldl (fun (T : Tile) i =>
    let es := row i
    (T.spadPut (addr + i * pitch) (rowBytes n k.width) (packElems k.width (es.map (·.1)))).raise ((es.map (·.2)).foldl (· ||| ·) 0)) T

/-- MLOAD's effect (R146). -/
def Tile.loadAcc (T : Tile) (acc : Nat) (h : Shape) (addr pitch code : Nat) : Tile :=
  let k := ckind code
  let (m, n) := shapeOf h
  let int := k.isInt
  let row (i : Nat) : List Nat := elemsOf k.width n (memNat T.spad (addr + i * pitch) (rowBytes n k.width))
  let rows := (List.range m).map row
  let el (w : Nat) : BitVec 96 :=
    if int then BitVec.ofInt 96 (k.intVal w) else BitVec.ofNat 96 (fmtXF96.round { mode := 0, seed := 0, i := 0 } false (k.decode w).1)
  let els := (regionOf h).foldl (fun (st : Sparse (BitVec 96)) mn =>
    Sparse.set 0 st (mn.1 * 128 + mn.2) (el ((rows.getD mn.1 []).getD mn.2 0))) []
  (T.setAcc acc { elems := els, int := int }).raise (warnOf warnMt2 (code == 13 && rows.any (fun r => r.any (fun w => w == 2))))

/-- MSCA's effect (R147): all sources are read first. -/
def Tile.scaleAcc (T : Tile) (accd accs : Nat) (h : Shape) (f32 norow nocol : Bool) (ra ca : Nat) (r : Rnd) : Tile :=
  let src := T.acc accs
  let d := T.acc accd
  let mix := d.int
  let d := if mix then d.toMode false r else d
  let one : FVal := .fin false 1 1 0
  let entry (base k : Nat) : FVal :=
    if f32 then fmtFP32.decode (memNat T.spad (base + 4 * k) 4) else (CKind.e8m0.decode (memNat T.spad (base + k) 1)).1
  let els := (regionOf h).foldl (fun (st : Sparse (BitVec 96)) mn =>
    let sc := FVal.mul (if norow then one else entry ra mn.1) (if nocol then one else entry ca mn.2)
    let v := FVal.add r.rdn (fmtXF96.decode (d.get mn.1 mn.2).toNat) (FVal.mul (accVal src.int (src.get mn.1 mn.2)) sc)
    Sparse.set 0 st (mn.1 * 128 + mn.2) (BitVec.ofNat 96 (fmtXF96.round { r with i := mn.1 * 128 + mn.2 } false v))) d.elems
  (T.setAcc accd { elems := els, int := false }).raise (warnOf warnAmix mix)

/-! ### The command queue's head (R124, R135, R143 to R147) -/

/-- The accumulators that a command names. -/
def MCmd.accs : MCmd → List Nat
  | .mma op => [op.acc]
  | .mdis _ => []
  | .mzero c => [c]
  | .mflush c .. => [c]
  | .mload c .. => [c]
  | .msca d s .. => [d, s]

/-- A command waits at the head while a slot of its accumulators is armed (R124), or for an earlier command that
overlaps it (R149). -/
def Tile.headHeld (T : Tile) (c : MCmd) : Bool :=
  c.accs.any (fun a => (T.fslot a).isSome) ||
    (match c with
     | .mflush _ _ _ _ _ _ _ _ sb => T.sbMust sb
     | .mload _ _ _ _ _ sb => T.sbMust sb
     | .msca _ _ _ _ _ _ _ _ _ _ sb => T.sbMust sb
     | _ => false)

/-- The head command is done. -/
def Tile.dropHead (T : Tile) : Tile := { T with mq := T.mq.drop 1 }

/-- Fires emitted to a slot and not retired. -/
def Tile.slotFires (T : Tile) (acc : Nat) : List Fire := T.fires.filter (fun f => f.op.acc == acc)

/-- The command at the head is performed; `none` when it cannot be, or is an MMA, which FIRE performs. -/
def Tile.command (T : Tile) : Option Tile :=
  match T.mq with
  | [] => none
  | c :: _ =>
    if T.headHeld c then none
    else match c with
      | .mma op => if op.arm then some (T.dropHead.setFslot op.acc (some { op := op, t := 0, stop := false })) else none
      | .mdis a =>
        match T.fslot a with
        | none => some T.dropHead
        | some x =>
          if (T.slotFires a).isEmpty then some (T.dropHead.setFslot a none)
          else if x.stop then none else some (T.setFslot a (some { x with stop := true }))
      | .mzero a => some (T.dropHead.setAcc a { T.acc a with elems := [] })
      | .mflush a h addr pitch code sat mode seed sb =>
        some ((T.dropHead.flushAcc a h addr pitch code sat { mode := mode.toNat, seed := seed, i := 0 } 0).sbLeave sb)
      | .mload a h addr pitch code sb => some ((T.dropHead.loadAcc a h addr pitch code).sbLeave sb)
      | .msca d a h f r l ra ca mode seed sb =>
        some ((T.dropHead.scaleAcc d a h f r l ra ca { mode := mode.toNat, seed := seed, i := 0 }).sbLeave sb)

/-- Whether the tile's units move: its strand runs and is not frozen (R325). -/
def Tile.unitsMove (T : Tile) : Bool := (T.phase == .running || T.phase == .waiting) && !T.frozen

/-- ACCUMULATOR_COMMAND (R124). -/
def execAccumulatorCommand (t : Nat) (s : State) : Out :=
  let T := s.tile t
  if !T.unitsMove then .next s
  else match T.command with
    | none => .next s
    | some T => .next (s.setTile t T.wake)

/-! ### Tokens, fires and their retirement (R133, R138 to R140) -/

/-- A fire claims its slots (R127): `none` when a ring lacks one. One ring named twice gives two slots. -/
def Tile.claim (T : Tile) (op : MmaOp) : Option ((Nat × Nat) × Tile) :=
  let A := T.ring op.ringA
  let a := (A.head + A.claimed) % A.count
  if A.unclaimed = 0 then none
  else
    let T := T.setRing op.ringA { A with claimed := A.claimed + 1 }
    let B := T.ring op.ringB
    let b := (B.head + B.claimed) % B.count
    if B.unclaimed = 0 then none else some ((a, b), T.setRing op.ringB { B with claimed := B.claimed + 1 })

/-- A fire reads its slots, accumulates unless it is a null fire, and pops (R133, R67). -/
def Tile.fireNow (T : Tile) (op : MmaOp) (sl : Nat × Nat) (first : Bool) (seed : Word) : Tile :=
  let A := T.ring op.ringA
  let B := T.ring op.ringB
  let T := if op.null then T.raise (warnOf warnMfb true)
    else
      let kj := (mmaDepth (shapeOf op.shape).1 (ckind op.fa).width op.sp A.slot).getD (0, 0)
      let x : FireIn := { op := op, k := kj.1, j := kj.2, a := memNat T.spad (A.range sl.1).1 A.slot,
                          b := memNat T.spad (B.range sl.2).1 B.slot }
      let (acc, w) := x.perform first seed (T.acc op.acc)
      (T.setAcc op.acc acc).raise (w ||| warnOf warnMfb (op.arm && op.ovw))
  let T := T.setRing op.ringA (T.ring op.ringA).pop
  T.setRing op.ringB (T.ring op.ringB).pop

/-- The slots of an armed fire stand at the heads of its rings, so that slots are popped in claim order. -/
def Tile.slotsAtHead (T : Tile) (op : MmaOp) (sl : Nat × Nat) : Bool :=
  sl.1 == (T.ring op.ringA).head &&
    sl.2 == (if op.ringA = op.ringB then ((T.ring op.ringB).head + 1) % (T.ring op.ringB).count else (T.ring op.ringB).head)

/-- The MMA command at the head fires (R133): number 0 among the fires. -/
def Tile.fireHead (T : Tile) : Option Tile :=
  match T.mq with
  | .mma op :: _ =>
    if op.arm || T.headHeld (.mma op) then none
    else match T.claim op with
      | none => none
      | some (sl, U) =>
        if !U.slotsAtHead op sl || U.sbClash [(U.ring op.ringA).range sl.1, (U.ring op.ringB).range sl.2] false then none
        else some (U.dropHead.fireNow op sl false op.seed)
  | _ => none

/-- An armed fire claims its slots if it has none yet, then is performed: it is the oldest of its slot, its slots stand at
the heads of their rings, and earlier engine writes there are performed (R124, R139, R149). -/
def Tile.fireArmed (T : Tile) (f : Fire) (sb : Nat) : Option Tile :=
  if f.performed || ((T.slotFires f.op.acc).head?.map (·.id)) != some f.id then none
  else match f.slots with
    | some sl =>
      if !T.slotsAtHead f.op sl || T.sbMust f.sbIn then none
      else
        let T := (T.fireNow f.op sl f.first f.seed).sbLeave f.sbIn
        some { T with fires := T.fires.map (fun g => if g.id == f.id then { g with performed := true } else g) }
    | none =>
      match T.claim f.op with
      | none => none
      | some (sl, U) =>
        let U := U.sbEnter sb [(U.ring f.op.ringA).range sl.1, (U.ring f.op.ringB).range sl.2] false
        some { U with fires := U.fires.map (fun g => if g.id == f.id then { g with slots := some sl, sbIn := sb } else g) }

/-- FIRE (R133): number 0 is the MMA command at the head, other numbers are armed fires. -/
def execFire (t id : Nat) (s : State) : Out :=
  let T := s.tile t
  if !T.unitsMove then .next s
  else if id = 0 then
    match T.fireHead with
    | none => .next s
    | some T => .next ((s.setTile t T.wake).count T.vf 4 1)
  else match T.fires.find? (fun f => f.id == id) with
    | none => .next s
    | some f =>
      match T.fireArmed f (s.nextId) with
      | none => .next s
      | some U => .next (({ s with nextId := s.nextId + 1 }.setTile t U.wake).count T.vf 4 (if f.slots.isSome then 1 else 0))

/-- Markers and flush address of the chain's next token (R138). -/
def Chain.firstTok (c : Chain) : Bool := (List.range (c.rm1 + 1)).all (fun l => c.count l == 0)
def Chain.lastTok (c : Chain) : Bool := (List.range (c.rm1 + 1)).all (fun l => c.count l + 1 == c.bound l)
def Chain.endTok (c : Chain) : Bool := (List.range (c.lm1 + 1)).all (fun l => c.count l + 1 == c.bound l)
def Chain.faddr (c : Chain) : Int :=
  ((List.range 4).map (fun l => if c.rm1 < l ∧ l ≤ c.lm1 then (c.count l : Int) * c.stride l else 0)).foldl (· + ·) c.fbase

/-- The counters of the next token, counter 0 innermost. -/
def advanceCounters (bound : Nat → Nat) : Nat → Nat → List Nat → List Nat
  | 0, _, cs => cs
  | _, _, [] => []
  | k + 1, l, c :: cs => if c + 1 < bound l then (c + 1) :: cs else 0 :: advanceCounters bound k (l + 1) cs

/-- Whether token t may be emitted (R139). -/
def Tile.mayEmit (T : Tile) (c : Chain) : Bool :=
  c.st == .running && !c.stopped &&
    (match T.fslot c.fslotNo with
     | none => false
     | some a => !a.stop && (!c.pen || decide ((c.t + 1) * c.ratio ≤ (T.chain c.pchain).done)) &&
         (match c.mode with
          | 0 => c.done == c.t
          | 1 => decide (c.t - c.done < 4) && (T.claim a.op).isSome
          | _ => decide (c.t - c.done < 16)))

/-- Token t is emitted to its slot (R138, R139): a last marker of a flushing chain makes its address checks now (R140). -/
def Tile.emit (T : Tile) (cc : Nat) (c : Chain) (a : Armed) (n : Nat) : Tile :=
  let op := a.op
  let flush := c.fen && c.lastTok
  let rb := rowBytes (shapeOf op.shape).2 (ckind c.ftarget).width
  let fa := c.faddr
  let bad := flush && (decide (fa < 0) || (rowCause fa.toNat c.pitch rb (shapeOf op.shape).1).isSome)
  let (sl, T) := if c.mode = 1 then (match T.claim op with | some (sl, U) => (some sl, U) | none => (none, T)) else (none, T)
  let T := match sl with
    | some sl => T.sbEnter n [(T.ring op.ringA).range sl.1, (T.ring op.ringB).range sl.2] false
    | none => T
  let T := if flush && !bad then T.sbEnter (n + 1) (rowRanges fa.toNat c.pitch rb (shapeOf op.shape).1) true else T
  let fire : Fire := { id := n + 2, op := op, chain := some cc, first := c.firstTok, last := flush && !bad, isEnd := c.endTok,
                       seed := mix (op.seed + BitVec.ofNat 64 a.t), slots := sl, faddr := fa.toNat, sbIn := n, sbOut := n + 1,
                       performed := false }
  let T := T.setFslot c.fslotNo (some { a with t := a.t + 1 })
  let T := T.setChain cc { c with t := c.t + 1, cnt := advanceCounters c.bound (c.lm1 + 1) 0 c.cnt, err := c.err || bad,
                                  stopped := c.endTok || bad }
  { T with fires := T.fires ++ [fire] }

/-- TOKEN_EMIT (R139). -/
def execTokenEmit (t cc : Nat) (s : State) : Out :=
  let T := s.tile t
  let c := T.chain cc
  if !T.unitsMove || !T.mayEmit c then .next s
  else match T.fslot c.fslotNo with
    | none => .next s
    | some a => .next ({ s with nextId := s.nextId + 3 }.setTile t (T.emit cc c a s.nextId).wake)

/-- A fire retires (R140, R143): its marker flush is made, the done count grows, and the slot is disarmed at an end token,
after a failed flush address, or when MDIS waits for it. -/
def Tile.retireFire (T : Tile) (f : Fire) : Tile :=
  let cc := f.chain.getD 0
  let c := T.chain cc
  let T := if f.last then
      (T.flushAcc f.op.acc f.op.shape f.faddr c.pitch c.ftarget c.frule { mode := f.op.mode.toNat, seed := f.seed, i := 0 } (2 ^ 40)).sbLeave f.sbOut
    else T
  let T := { T with fires := T.fires.filter (fun g => g.id != f.id) }
  let owr := f.isEnd || (c.err && c.stopped && !T.fires.any (fun g => g.chain == some cc))
  let T := T.setChain cc { c with done := c.done + 1, st := if owr then .done else c.st }
  if owr then T.setFslot f.op.acc none else T

/-- FIRE_RETIRE (R140): a fire that has been performed, once the flush may be. -/
def execFireRetire (t id : Nat) (s : State) : Out :=
  let T := s.tile t
  if !T.unitsMove then .next s
  else match T.fires.find? (fun f => f.id == id) with
    | none => .next s
    | some f => if !f.performed || (f.last && T.sbMust f.sbOut) then .next s else .next (s.setTile t (T.retireFire f).wake)

/-! ### TSWAP (R148) -/

/-- The mirror of a tile in its cluster's rectangle. -/
def mirrorOf (t : Nat) (crect : Word) : Nat := t - xOf t + (xOf (bits crect 15 0) + xOf (bits crect 31 16) - xOf t)

/-- Where an operation's answer goes: the register or the port slot that waits for its number. -/
def Tile.destOf (T : Tile) (f : Front) (id : Nat) : Dest :=
  match (T.front f).pend.find? (fun p => p.2 == id) with
  | some p => .sreg p.1
  | none =>
    match (List.range 8).find? (fun q => (T.sport q).contains (.pending id)) with
    | some q => .sport q
    | none => .none

/-- TSWAP (R148): the tile's own mirror is answered at once. -/
def execTswap (d a b : Reg) (s : State) : Out :=
  issue s { instr := .tswap d a b, onA := false, rs := [a, b], ws := [d] } (fun s I =>
    let t := s.focus.1
    let x := (I.s 0).toNat
    let n := (I.s 1).toNat
    if x % 256 ≠ 0 ∨ n % 256 ≠ 0 then .trap 0x08 (I.s 0)
    else if spadEnd < x + n then .trap 0x07 (I.s 0)
    else
      let T := s.tile t
      if mirrorOf t T.crect = t then .done (s.setTile t (T.putS s.focus.2 d 2))
      else
        let (id, s) := s.fresh
        let (_, T) := T.reserveS s.focus.2 d id
        .done (s.setTile t { T.sbEnter id [(x, n)] true with tswaps := T.tswaps ++ [{ id := id, addr := x, len := n }] }))

/-- One side's end of an exchange. -/
def Tile.endSwap (T : Tile) (q : TswapReq) (status : Word) (bytes : Option Nat) : Tile :=
  let T := match bytes with | some v => T.spadPut q.addr q.len v | none => T
  let T := { T with tswaps := T.tswaps.drop 1 }.sbLeave q.id
  (T.deliver .x q.id (T.destOf .x q.id) (status.setWidth 2048)).wake

/-- TSWAP_EXCHANGE (R148): both partners have issued. -/
def execTswapExchange (t : Nat) (s : State) : Out :=
  let T := s.tile t
  let u := mirrorOf t T.crect
  let U := s.tile u
  match T.tswaps, U.tswaps with
  | p :: _, q :: _ =>
    if u = t ∨ mirrorOf u U.crect ≠ t ∨ U.inst ≠ T.inst ∨ U.tidx ≠ T.tidx ∨ !T.unitsMove ∨ !U.unitsMove ∨ T.sbMust p.id ∨ U.sbMust q.id then .next s
    else if p.len ≠ q.len then .next ((s.setTile t (T.endSwap p 1 none)).setTile u (U.endSwap q 1 none))
    else .next ((s.setTile t (T.endSwap p 0 (some (memNat U.spad q.addr q.len)))).setTile u
      (U.endSwap q 0 (some (memNat T.spad p.addr p.len))))
  | _, _ => .next s

end Sys2Proof.Machine
end

