-- ==== Sys2Proof/Machine/Pod.lean ====
section
/-! DEFINITION. Beyond the module (24): jacks (R361, R362), inbound UALink requests (R363), the torus (R364) and the lehr's
epochs (R367). -/

namespace Sys2Proof.Machine

/-! ### Jacks (R361, R362) -/

/-- The graph that takes tokens of an epoch. -/
def Jack.graphOf (J : Jack) (e : Bool) : Option (Nat × JackImage) := if e == J.epoch then J.graph else J.old

def Jack.queue (q : Sparse (List JTok)) (k : Nat) : List JTok := Sparse.get [] q k
def Jack.push (q : Sparse (List JTok)) (k : Nat) (t : JTok) : Sparse (List JTok) := Sparse.set [] q k (Jack.queue q k ++ [t])
def Jack.pop (q : Sparse (List JTok)) (k : Nat) : Sparse (List JTok) := Sparse.set [] q k (Jack.queue q k).tail

/-- The switch of a port is due. -/
def switchDue (s : State) (p : Nat) : Bool :=
  match (s.jack p).pend with
  | some (_, m) => decide (JackImage.swc m ≤ s.cyc.toNat)
  | none => false

/-- The port core of a graph: its code words at the bottom of a code store, its execute front at the entry word. It pops s24 to
s27, the inbound control queues, and pushes s28 to s31, the outbound ones. -/
def portCore (c : Nat) (m : JackImage) (old : Tile) : Tile :=
  let code := (List.range (JackImage.clen m)).foldl (fun (mem : List Host.Cell) (i : Nat) => memPutNat mem (4 * i) 4 (JackImage.word m i).toNat) []
  { Tile.reset with
    phase := if JackImage.clen m = 0 then .idle else .running
    ctx := BitVec.ofNat 64 c
    code := code
    sq := old.sq
    fa := { FrontState.reset with ended := true }
    fx := { FrontState.reset with pc := BitVec.ofNat 16 (4 * JackImage.ent m) } }

/-- JACK_SWITCH (R362): the new graph takes what arrives from now on; the old one is kept for tokens of its epoch. -/
def execJackSwitch (p : Nat) (s : State) : Out :=
  let J := s.jack p
  match J.pend with
  | none => .next s
  | some (c, m) =>
    if !switchDue s p then .next s
    else
      let s := s.setJack p { J with graph := some (c, m), old := J.graph, pend := none, epoch := !J.epoch, cnt := [] }
      .next (s.modTile (jackTile p) (portCore c m))

/-- Bytes of an element. -/
def jackBytes (fmt : Nat) : Nat := if fmt = 1 then 2 else 4

/-- The result of an adder's operation (R361): a is taken exactly, b is added with one rounding in RNE. -/
def jackOp (op fmt a b : Nat) : Nat :=
  let r : Rnd := { mode := 0, seed := 0, i := 0 }
  let f := if fmt = 1 then fmtBF16 else fmtFP32
  let x := a % 2 ^ (8 * jackBytes fmt)
  let y := b % 2 ^ (8 * jackBytes fmt)
  if fmt = 2 then (if op = 1 then aluAdd 32 x y else if op = 2 then aluMax 32 x y else aluMin 32 x y)
  else if op = 1 then fAdd f r x y else if op = 2 then fMax f x y else fMin f x y

/-- Key of the queue from adder j to input i of adder k. -/
def addKey (j k i : Nat) : Nat := j * 16 + k * 2 + i

/-- Where an input stands: no element yet, none connected, a token, a local read. -/
inductive JIn | wait | none | tok (v : Nat) | memory
  deriving DecidableEq, Repr

/-- Input i of adder k, code x, for tokens of an epoch. -/
def jackIn (J : Jack) (e : Bool) (k i x : Nat) : JIn :=
  let head := fun (l : List JTok) => match l with | t :: _ => if t.epoch == e then JIn.tok t.v.toNat else JIn.wait | [] => JIn.wait
  if x = 31 then .none
  else if x = 16 then .memory
  else if x < 8 then head (Jack.queue J.inq x)
  else head (Jack.queue J.addq (addKey (x - 8) k i))

/-- The adder can fire on tokens of an epoch. -/
def adderReady (J : Jack) (e : Bool) (k : Nat) : Bool :=
  match J.graphOf e with
  | none => false
  | some (_, m) =>
    if JackImage.op m k = 0 ∨ JackImage.count m k = 0 then false
    else match jackIn J e k 0 (JackImage.in0 m k), jackIn J e k 1 (JackImage.in1 m k) with
      | .wait, _ => false
      | _, .wait => false
      | .none, .none => false
      | _, _ => true

/-- A local read or write of an adder: the bytes, `none` when a pinned line holds it back; one that fails is reported as a
failed replay and its element holds no defined value. -/
def jackMem (s : State) (p c va n : Nat) (bs : Option (List Byte)) : Option (State × List Byte) :=
  let q : HReq := { ctx := c, va := va, n := n, r := bs.isNone, w := bs.isSome, reads := bs.isNone, agent := .outside }
  match homeAccess (recallLine s c (va / 128 * 128)) q (fun _ => bs) with
  | (s, .data old) => some (s, old)
  | (_, .bad .retry) => none
  | (s, .bad _) => some (s.record (p / 8 % 2) { va := va, kind := 0x46, ctx := c, cls := 3, info := p }, openBytes s 0 n)

/-- The value of an input, with the token consumed. -/
def takeIn (s : State) (p : Nat) (e : Bool) (c : Nat) (m : JackImage) (k i x : Nat) : Option (State × Option Nat) :=
  let J := s.jack p
  match jackIn J e k i x with
  | .wait => none
  | .none => some (s, none)
  | .tok v =>
    if x < 8 then some (s.setJack p { J with inq := Jack.pop J.inq x }, some v)
    else some (s.setJack p { J with addq := Jack.pop J.addq (addKey (x - 8) k i) }, some v)
  | .memory =>
    let n := jackBytes (JackImage.fmt m k)
    (jackMem s p c (JackImage.addr m k + n * Sparse.get 0 J.cnt k) n none).map (fun r => (r.1, some (leNat r.2)))

/-- The result goes to every adder that takes it, and to its output. -/
def jackEmit (s : State) (p : Nat) (e : Bool) (c : Nat) (m : JackImage) (k v : Nat) : Option State :=
  let t : JTok := { v := BitVec.ofNat 32 v, epoch := e }
  let J := s.jack p
  let users := (List.range 8).flatMap (fun q => (if JackImage.op m q ≠ 0 ∧ JackImage.in0 m q = k + 8 then [addKey k q 0] else []) ++
    (if JackImage.op m q ≠ 0 ∧ JackImage.in1 m q = k + 8 then [addKey k q 1] else []))
  let i := Sparse.get 0 J.cnt k
  let J := { J with addq := users.foldl (fun (a : Sparse (List JTok)) (u : Nat) => Jack.push a u t) J.addq,
                    cnt := Sparse.set 0 J.cnt k ((i + 1) % JackImage.count m k) }
  let o := JackImage.out m k
  let n := jackBytes (JackImage.fmt m k)
  if o < 4 then some (s.setJack p { J with outq := Jack.push J.outq o t })
  else if o = 8 then (jackMem (s.setJack p J) p c (JackImage.addr m k + n * i) n (some (leBytes n v))).map (·.1)
  else some (s.setJack p J)

/-- One element pair of an adder; nothing happens while a pinned line holds it back. -/
def adderFire (s : State) (p k : Nat) (e : Bool) : State :=
  match (s.jack p).graphOf e with
  | none => s
  | some (c, m) =>
    match takeIn s p e c m k 0 (JackImage.in0 m k) with
    | none => s
    | some (s1, a) =>
      match takeIn s1 p e c m k 1 (JackImage.in1 m k) with
      | none => s
      | some (s2, b) =>
        let v := match a, b with
          | some a, some b => jackOp (JackImage.op m k) (JackImage.fmt m k) a b
          | some a, none => a
          | none, some b => b
          | none, none => 0
        (jackEmit s2 p e c m k v).getD s

/-- JACK_ADDER_FIRE (R361, R362): tokens of the old epoch are processed by the old graph. -/
def execJackAdderFire (p k : Nat) (s : State) : Out :=
  let J := s.jack p
  if adderReady J (!J.epoch) k then .next (adderFire s p k (!J.epoch))
  else if adderReady J J.epoch k then .next (adderFire s p k J.epoch)
  else .next s

/-! ### The torus (R364) -/

/-- The die of a port, and its number there. -/
def portDie (p : Nat) : Nat := p / 8 % 2

/-- A flit that has arrived: an element of a reduction channel, or a word of a control queue, which waits for room. -/
def flitHere (s : State) (p : Nat) (f : Flit) : State :=
  let J := s.jack p
  match f.load with
  | .token c v e => s.setJack p { J with inq := Jack.push J.inq (c % 4) { v := v, epoch := e } }
  | .control q v =>
    let T := s.tile (jackTile p)
    if sDepth ≤ (T.sport (q % 4)).length then s.post (.flitForward p f)
    else s.setTile (jackTile p) ((T.setSport (q % 4) (T.sport (q % 4) ++ [.filled v])).wake)
  | .other _ => s

/-- FLIT_FORWARD (R364): to the output port of its destination's entry, on channel 1 once it has passed a dateline; a dropped
destination answers an error. -/
def execFlitForward (p : Nat) (f : Flit) (s : State) : Out :=
  let d := portDie p
  if !s.mg.ready || s.dieDown d then .next s
  else
    let e := (s.die d).routeOf (p % 8) (f.dest % 512)
    let out := bits e 4 0
    if out = 16 then .next (flitHere s p f)
    else if out < 16 then
      let J := s.jack out
      .next (s.setJack out { J with sent := J.sent ++ [{ f with vc := if e.getLsbD 7 then 1 else f.vc }] })
    else .next { s with ualErr := true }

/-! ### Inbound UALink requests (R216, R350, R363, R374) -/

/-- The reply of a request. -/
def ualAnswer (s : State) (v : Nat) (err : Bool) : State := { s with ualReply := BitVec.ofNat 2048 v, ualErr := err }

/-- A decrement message sets out for the rule that its kind names (R350). -/
def deliverMessage (s : State) (m : BitVec 128) : State :=
  match msgKind m with
  | 0 => s.post (.recordDecrement (bits m 42 42) { ctx := msgCtx m, inst := msgInst m, tidx := msgTidx m, reply := none })
  | 1 => s.post (.phaseJoin m)
  | 2 => s.post (.phaseLeave m)
  | 3 => s.post (.gateOpen m)
  | 4 => s.post (.gateRefuse m)
  | _ => s.post (.reservedKindMessage (bits m 42 42) m)

/-- The decrement window. -/
def inWindow (a : Nat) : Bool := decide (0x3FF00000000 ≤ a) && decide (a ≤ 0x3FF0000FFFF)

/-- A size and an address within the subset: a power of two up to 256, naturally aligned. -/
def ualShape (n a : Nat) : Bool := [1, 2, 4, 8, 16, 32, 64, 128, 256].contains n && a % n == 0

/-- A request to the part's own storage. -/
def ualMemory (s : State) (r : UalReq) (a : Nat) : State :=
  match localTarget s a with
  | none => ualAnswer s 0 true
  | some _ =>
    let old := memNat s.pmem a r.n
    let atomicOk := (r.n == 4 || r.n == 8) && a % r.n == 0 && !s.poisoned a
    match r.kind with
    | .read => if ualShape r.n a && !s.poisoned a && !s.poisoned (a + r.n - 1) then ualAnswer s old false else ualAnswer s 0 true
    | .write =>
      if ualShape r.n a then
        ualAnswer { s with pmem := memPutNat s.pmem a r.n r.data,
                           poison := s.poison.filter (fun l => decide (l < a) || decide (a + r.n < l + 128)) } 0 false
      else ualAnswer s 0 true
    | .atomic o =>
      if atomicOk && o != .fadd then
        ualAnswer { s with pmem := memPutNat s.pmem a r.n (amoNew o (8 * r.n) old (r.data % 2 ^ (8 * r.n))) } old false
      else ualAnswer s 0 true
    | .cas c =>
      if atomicOk then
        ualAnswer (if old = c % 2 ^ (8 * r.n) then { s with pmem := memPutNat s.pmem a r.n r.data } else s) old false
      else ualAnswer s 0 true
    | .other => ualAnswer s 0 true

/-- UALINK_REQUEST (R363). -/
def execUalinkRequest (r : UalReq) (s : State) : Out :=
  let a := r.addr % 2 ^ 42
  if !s.mg.ready || s.mg.min then .next (ualAnswer s 0 true)
  else if inWindow a then
    (match r.kind with
     | .write =>
       if r.n = 16 ∧ a % 16 = 0 then .next (ualAnswer (deliverMessage s (BitVec.ofNat 128 r.data)) 0 false)
       else .next (ualAnswer s 0 true)
     | _ => .next (ualAnswer s 0 true))
  else .next (ualMemory s r a)

/-! ### The lehr's epochs (R366, R367) -/

/-- LEHR_EPOCH_OPEN (R367): the dirty blocks become the set to copy. -/
def execLehrEpochOpen (s : State) : Out :=
  let L := s.lehr
  if L.st ≠ .armed ∨ L.due = false then .next s
  else .next ({ s with lehr := { L with st := .opened, epoch := L.epoch + 1, todo := L.dirty, dirty := [], count := L.dirty.length,
                                        opened := s.cyc, due := false } }.post .lehrEpochClose)

/-- Disarms that wait for the epoch's end are answered. -/
def answerDisarms (s : State) (st : Nat) : State :=
  s.lehr.disarm.foldl (fun s id => answer s id (.data (BitVec.ofNat 2048 st))) { s with lehr := { s.lehr with disarm := [] } }

/-- The epoch record (R367): four 64-bit words, zeros after them (log 46). -/
def epochRecord (s : State) : List Byte :=
  leBytes 64 (s.lehr.epoch.toNat + s.lehr.count * 2 ^ 64 + s.lehr.opened.toNat * 2 ^ 128 + s.cyc.toNat * 2 ^ 192)

/-- Address of the epoch record. -/
def Lehr.recAddr (l : Lehr) : Nat := bits l.desc 455 400

/-- The epoch closes. -/
def lehrClose (s : State) : State :=
  match ringPut s s.lehr.ctx s.lehr.recAddr (epochRecord s) with
  | (s, false) => answerDisarms (lehrError s s.lehr.recAddr) 2
  | (s, true) =>
    let waits := !s.lehr.disarm.isEmpty
    answerDisarms { s with lehr := { s.lehr with st := if waits then .idle else .armed } } 0

/-- LEHR_EPOCH_CLOSE (R367): the blocks of the epoch are copied one by one, in no fixed order; then the record is written and
the epoch closes. -/
def execLehrEpochClose (s : State) : Out :=
  match s.lehr.st with
  | .opened =>
    if s.lehr.todo.isEmpty then .next (lehrClose s)
    else
      let b := s.lehr.todo.getD (Config.victimWay (s.freeAt 0) % s.lehr.todo.length) 0
      match lehrBlock s b with
      | none => .next (s.post .lehrEpochClose)
      | some s => .next (s.post .lehrEpochClose)
  | .stopped => .next (answerDisarms s 2)
  | _ => .next s

end Sys2Proof.Machine
end

