-- ==== Sys2Proof/Machine/Dispatch.lean ====
section
/-! DEFINITION. The dispatch of an instruction to its meaning: one arm for each constructor. -/

namespace Sys2Proof.Machine

def exec (i : Instr) (s : State) : Host.Outcome State Fault Refusal :=
  match i with
  | .add d a b w => Sys2Proof.Machine.execAdd d a b w s
  | .sub d a b w => Sys2Proof.Machine.execSub d a b w s
  | .andd d a b w => Sys2Proof.Machine.execAndd d a b w s
  | .orr d a b w => Sys2Proof.Machine.execOrr d a b w s
  | .xorr d a b w => Sys2Proof.Machine.execXorr d a b w s
  | .andn d a b w => Sys2Proof.Machine.execAndn d a b w s
  | .sll d a b w => Sys2Proof.Machine.execSll d a b w s
  | .srl d a b w => Sys2Proof.Machine.execSrl d a b w s
  | .sra d a b w => Sys2Proof.Machine.execSra d a b w s
  | .slt d a b w => Sys2Proof.Machine.execSlt d a b w s
  | .sltu d a b w => Sys2Proof.Machine.execSltu d a b w s
  | .minn d a b w => Sys2Proof.Machine.execMinn d a b w s
  | .maxx d a b w => Sys2Proof.Machine.execMaxx d a b w s
  | .minu d a b w => Sys2Proof.Machine.execMinu d a b w s
  | .maxu d a b w => Sys2Proof.Machine.execMaxu d a b w s
  | .mul d a b w => Sys2Proof.Machine.execMul d a b w s
  | .mulh d a b w => Sys2Proof.Machine.execMulh d a b w s
  | .mulhu d a b w => Sys2Proof.Machine.execMulhu d a b w s
  | .div d a b w => Sys2Proof.Machine.execDiv d a b w s
  | .divu d a b w => Sys2Proof.Machine.execDivu d a b w s
  | .rem d a b w => Sys2Proof.Machine.execRem d a b w s
  | .remu d a b w => Sys2Proof.Machine.execRemu d a b w s
  | .clz d a w => Sys2Proof.Machine.execClz d a w s
  | .ffs d a w => Sys2Proof.Machine.execFfs d a w s
  | .popc d a w => Sys2Proof.Machine.execPopc d a w s
  | .brev d a w => Sys2Proof.Machine.execBrev d a w s
  | .bext d a b w => Sys2Proof.Machine.execBext d a b w s
  | .bins d a b w => Sys2Proof.Machine.execBins d a b w s
  | .sext d a b w => Sys2Proof.Machine.execSext d a b w s
  | .addi d a i0 => Sys2Proof.Machine.execAddi d a i0 s
  | .andi d a i0 => Sys2Proof.Machine.execAndi d a i0 s
  | .ori d a i0 => Sys2Proof.Machine.execOri d a i0 s
  | .xori d a i0 => Sys2Proof.Machine.execXori d a i0 s
  | .slti d a i0 => Sys2Proof.Machine.execSlti d a i0 s
  | .sethi d a i0 => Sys2Proof.Machine.execSethi d a i0 s
  | .slli d a s0 => Sys2Proof.Machine.execSlli d a s0 s
  | .srli d a s0 => Sys2Proof.Machine.execSrli d a s0 s
  | .srai d a s0 => Sys2Proof.Machine.execSrai d a s0 s
  | .sel d a b c => Sys2Proof.Machine.execSel d a b c s
  | .fadd d a b f => Sys2Proof.Machine.execFadd d a b f s
  | .fsub d a b f => Sys2Proof.Machine.execFsub d a b f s
  | .fmul d a b f => Sys2Proof.Machine.execFmul d a b f s
  | .fmin d a b f => Sys2Proof.Machine.execFmin d a b f s
  | .fmax d a b f => Sys2Proof.Machine.execFmax d a b f s
  | .fcmpEq d a b f => Sys2Proof.Machine.execFcmpEq d a b f s
  | .fcmpNe d a b f => Sys2Proof.Machine.execFcmpNe d a b f s
  | .fcmpLt d a b f => Sys2Proof.Machine.execFcmpLt d a b f s
  | .fcmpLe d a b f => Sys2Proof.Machine.execFcmpLe d a b f s
  | .fcmpUn d a b f => Sys2Proof.Machine.execFcmpUn d a b f s
  | .ffma d a b c f => Sys2Proof.Machine.execFfma d a b c f s
  | .fcvt d a t s0 r => Sys2Proof.Machine.execFcvt d a t s0 r s
  | .br a b c o => Sys2Proof.Machine.execBr a b c o s
  | .jal o => Sys2Proof.Machine.execJal o s
  | .jalr d a i0 => Sys2Proof.Machine.execJalr d a i0 s
  | .lds d b s0 o => Sys2Proof.Machine.execLds d b s0 o s
  | .sts d b s0 o => Sys2Proof.Machine.execSts d b s0 o s
  | .ld d b c p z x q o => Sys2Proof.Machine.execLd d b c p z x q o s
  | .st d b c p z q o => Sys2Proof.Machine.execSt d b c p z q o s
  | .amo d a b o z c p => Sys2Proof.Machine.execAmo d a b o z c p s
  | .cas d a b z c p => Sys2Proof.Machine.execCas d a b z c p s
  | .red a b o z c p => Sys2Proof.Machine.execRed a b o z c p s
  | .fence a m p => Sys2Proof.Machine.execFence a m p s
  | .promote a p => Sys2Proof.Machine.execPromote a p s
  | .hash d a b c => Sys2Proof.Machine.execHash d a b c s
  | .claim d a b => Sys2Proof.Machine.execClaim d a b s
  | .cfulfil d a b => Sys2Proof.Machine.execCfulfil d a b s
  | .cabandon d a => Sys2Proof.Machine.execCabandon d a s
  | .cpin d a b => Sys2Proof.Machine.execCpin d a b s
  | .cunpin d a b => Sys2Proof.Machine.execCunpin d a b s
  | .qstat d a w => Sys2Proof.Machine.execQstat d a w s
  | .qdrain d a w => Sys2Proof.Machine.execQdrain d a w s
  | .signal a b => Sys2Proof.Machine.execSignal a b s
  | .waitch d => Sys2Proof.Machine.execWaitch d s
  | .block a => Sys2Proof.Machine.execBlock a s
  | .unblock a => Sys2Proof.Machine.execUnblock a s
  | .vadd d a b k w => Sys2Proof.Machine.execVadd d a b k w s
  | .vsub d a b k w => Sys2Proof.Machine.execVsub d a b k w s
  | .vmul d a b k w => Sys2Proof.Machine.execVmul d a b k w s
  | .vmulh d a b k w => Sys2Proof.Machine.execVmulh d a b k w s
  | .vmin d a b k w => Sys2Proof.Machine.execVmin d a b k w s
  | .vmax d a b k w => Sys2Proof.Machine.execVmax d a b k w s
  | .vabs d a k w => Sys2Proof.Machine.execVabs d a k w s
  | .vneg d a k w => Sys2Proof.Machine.execVneg d a k w s
  | .vand d a b k w => Sys2Proof.Machine.execVand d a b k w s
  | .vor d a b k w => Sys2Proof.Machine.execVor d a b k w s
  | .vxor d a b k w => Sys2Proof.Machine.execVxor d a b k w s
  | .vsll d a b k w => Sys2Proof.Machine.execVsll d a b k w s
  | .vsrl d a b k w => Sys2Proof.Machine.execVsrl d a b k w s
  | .vsra d a b k w => Sys2Proof.Machine.execVsra d a b k w s
  | .vclz d a k w => Sys2Proof.Machine.execVclz d a k w s
  | .vffs d a k w => Sys2Proof.Machine.execVffs d a k w s
  | .vpopc d a k w => Sys2Proof.Machine.execVpopc d a k w s
  | .vaddF d a b k w f => Sys2Proof.Machine.execVaddF d a b k w f s
  | .vsubF d a b k w f => Sys2Proof.Machine.execVsubF d a b k w f s
  | .vmulF d a b k w f => Sys2Proof.Machine.execVmulF d a b k w f s
  | .vminF d a b k w f => Sys2Proof.Machine.execVminF d a b k w f s
  | .vmaxF d a b k w f => Sys2Proof.Machine.execVmaxF d a b k w f s
  | .vabsF d a k w f => Sys2Proof.Machine.execVabsF d a k w f s
  | .vnegF d a k w f => Sys2Proof.Machine.execVnegF d a k w f s
  | .vfma d a b k w f => Sys2Proof.Machine.execVfma d a b k w f s
  | .vfms d a b k w f => Sys2Proof.Machine.execVfms d a b k w f s
  | .vcmp k a b m w f t c => Sys2Proof.Machine.execVcmp k a b m w f t c s
  | .vsel d a b k w => Sys2Proof.Machine.execVsel d a b k w s
  | .vbcast d a k w => Sys2Proof.Machine.execVbcast d a k w s
  | .vextr d a b w => Sys2Proof.Machine.execVextr d a b w s
  | .viota d k w => Sys2Proof.Machine.execViota d k w s
  | .vperm d a b k w => Sys2Proof.Machine.execVperm d a b k w s
  | .vscl d a b k w => Sys2Proof.Machine.execVscl d a b k w s
  | .vcvt d a t s0 r k => Sys2Proof.Machine.execVcvt d a t s0 r k s
  | .vred d a k w f t o => Sys2Proof.Machine.execVred d a k w f t o s
  | .vscan d a k w f t o => Sys2Proof.Machine.execVscan d a k w f t o s
  | .vexp2 d a k w => Sys2Proof.Machine.execVexp2 d a k w s
  | .vlog2 d a k w => Sys2Proof.Machine.execVlog2 d a k w s
  | .vrcp d a k w => Sys2Proof.Machine.execVrcp d a k w s
  | .vrsq d a k w => Sys2Proof.Machine.execVrsq d a k w s
  | .vtanh d a k w => Sys2Proof.Machine.execVtanh d a k w s
  | .kand d a b => Sys2Proof.Machine.execKand d a b s
  | .kor d a b => Sys2Proof.Machine.execKor d a b s
  | .knot d a => Sys2Proof.Machine.execKnot d a s
  | .kpopc d a => Sys2Proof.Machine.execKpopc d a s
  | .vlds d b o => Sys2Proof.Machine.execVlds d b o s
  | .vldt d b w o => Sys2Proof.Machine.execVldt d b w o s
  | .vld d b c p q o => Sys2Proof.Machine.execVld d b c p q o s
  | .vsts d b o => Sys2Proof.Machine.execVsts d b o s
  | .vst d b c p q o => Sys2Proof.Machine.execVst d b c p q o s
  | .mma x y c a b s0 p f => Sys2Proof.Machine.execMma x y c a b s0 p f s
  | .mmaArm x y c a b s0 p f => Sys2Proof.Machine.execMmaArm x y c a b s0 p f s
  | .mdis c => Sys2Proof.Machine.execMdis c s
  | .mzero c => Sys2Proof.Machine.execMzero c s
  | .mflush a b t c r s0 => Sys2Proof.Machine.execMflush a b t c r s0 s
  | .mload a b t c s0 => Sys2Proof.Machine.execMload a b t c s0 s
  | .msca a b u f r l c h => Sys2Proof.Machine.execMsca a b u f r l c h s
  | .rset g a => Sys2Proof.Machine.execRset g a s
  | .rpush g a => Sys2Proof.Machine.execRpush g a s
  | .rstat d g b => Sys2Proof.Machine.execRstat d g b s
  | .cset c a => Sys2Proof.Machine.execCset c a s
  | .cgo c => Sys2Proof.Machine.execCgo c s
  | .cstat d c b => Sys2Proof.Machine.execCstat d c b s
  | .tswap d a b => Sys2Proof.Machine.execTswap d a b s
  | .copy a b => Sys2Proof.Machine.execCopy a b s
  | .copyc a b => Sys2Proof.Machine.execCopyc a b s
  | .mcast a b => Sys2Proof.Machine.execMcast a b s
  | .sopen d a => Sys2Proof.Machine.execSopen d a s
  | .sclose a => Sys2Proof.Machine.execSclose a s
  | .scfg d a b => Sys2Proof.Machine.execScfg d a b s
  | .binit a b => Sys2Proof.Machine.execBinit a b s
  | .bexpect a b => Sys2Proof.Machine.execBexpect a b s
  | .barrive a => Sys2Proof.Machine.execBarrive a s
  | .bwait d a b => Sys2Proof.Machine.execBwait d a b s
  | .btest d a => Sys2Proof.Machine.execBtest d a s
  | .fcfg d a => Sys2Proof.Machine.execFcfg d a s
  | .frun a => Sys2Proof.Machine.execFrun a s
  | .fstat d => Sys2Proof.Machine.execFstat d s
  | .instantiate d a => Sys2Proof.Machine.execInstantiate d a s
  | .decr d a => Sys2Proof.Machine.execDecr d a s
  | .gcancelJob d => Sys2Proof.Machine.execGcancelJob d s
  | .gcancelPhase d a => Sys2Proof.Machine.execGcancelPhase d a s
  | .gcancelGraph d a => Sys2Proof.Machine.execGcancelGraph d a s
  | .gcancelTask d a => Sys2Proof.Machine.execGcancelTask d a s
  | .fwpush d a b => Sys2Proof.Machine.execFwpush d a b s
  | .fwpop d a b => Sys2Proof.Machine.execFwpop d a b s
  | .carrive d => Sys2Proof.Machine.execCarrive d s
  | .cwait a => Sys2Proof.Machine.execCwait a s
  | .ldx d a b c z => Sys2Proof.Machine.execLdx d a b c z s
  | .stx d a b c z => Sys2Proof.Machine.execStx d a b c z s
  | .trap n => Sys2Proof.Machine.execTrap n s
  | .csrr d c => Sys2Proof.Machine.execCsrr d c s
  | .csrw a c => Sys2Proof.Machine.execCsrw a c s
  | .csrx d a c => Sys2Proof.Machine.execCsrx d a c s
  | .freeze d => Sys2Proof.Machine.execFreeze d s
  | .scrub d a u n => Sys2Proof.Machine.execScrub d a u n s
  | .invpg d a u n => Sys2Proof.Machine.execInvpg d a u n s
  | .waysetCw d a => Sys2Proof.Machine.execWaysetCw d a s
  | .waysetShare d a => Sys2Proof.Machine.execWaysetShare d a s
  | .lehrArm d a => Sys2Proof.Machine.execLehrArm d a s
  | .lehrStat d => Sys2Proof.Machine.execLehrStat d s
  | .lehrDisarm d => Sys2Proof.Machine.execLehrDisarm d s
  | .jcfg d a p => Sys2Proof.Machine.execJcfg d a p s
  | .perfsel a n => Sys2Proof.Machine.execPerfsel a n s
  | .himm p => Sys2Proof.Machine.execHimm p s
  | .hmod p => Sys2Proof.Machine.execHmod p s
  | .hpri p => Sys2Proof.Machine.execHpri p s
  | .unassignedEncoding w => Sys2Proof.Machine.execUnassignedEncoding w s
  | .decouplingDeadlock t => Sys2Proof.Machine.execDecouplingDeadlock t s
  | .strandRetire t => Sys2Proof.Machine.execStrandRetire t s
  | .localLoadFill t id => Sys2Proof.Machine.execLocalLoadFill t id s
  | .fire t id => Sys2Proof.Machine.execFire t id s
  | .tokenEmit t cc => Sys2Proof.Machine.execTokenEmit t cc s
  | .fireRetire t id => Sys2Proof.Machine.execFireRetire t id s
  | .tswapExchange t => Sys2Proof.Machine.execTswapExchange t s
  | .packetIntake die => Sys2Proof.Machine.execPacketIntake die s
  | .spillRefill die => Sys2Proof.Machine.execSpillRefill die s
  | .decrementApply die m => Sys2Proof.Machine.execDecrementApply die m s
  | .placementPass die => Sys2Proof.Machine.execPlacementPass die s
  | .operandToken die id => Sys2Proof.Machine.execOperandToken die id s
  | .strandStart die inst tidx => Sys2Proof.Machine.execStrandStart die inst tidx s
  | .taskDone die inst tidx => Sys2Proof.Machine.execTaskDone die inst tidx s
  | .graphWatchdog die inst => Sys2Proof.Machine.execGraphWatchdog die inst s
  | .eventEntry t => Sys2Proof.Machine.execEventEntry t s
  | .eventRetire die inst tidx => Sys2Proof.Machine.execEventRetire die inst tidx s
  | .payloadArrival id => Sys2Proof.Machine.execPayloadArrival id s
  | .blockArrival id => Sys2Proof.Machine.execBlockArrival id s
  | .globalRequest id => Sys2Proof.Machine.execGlobalRequest id s
  | .globalResponse id => Sys2Proof.Machine.execGlobalResponse id s
  | .retryReissue id => Sys2Proof.Machine.execRetryReissue id s
  | .promoteRequest id => Sys2Proof.Machine.execPromoteRequest id s
  | .gatherSendHome t k => Sys2Proof.Machine.execGatherSendHome t k s
  | .claimResultDelivery id => Sys2Proof.Machine.execClaimResultDelivery id s
  | .leaseExpiry die key => Sys2Proof.Machine.execLeaseExpiry die key s
  | .operationCompletion id => Sys2Proof.Machine.execOperationCompletion id s
  | .fibreFire t u => Sys2Proof.Machine.execFibreFire t u s
  | .fibreFault t => Sys2Proof.Machine.execFibreFault t s
  | .uncorrectableError site => Sys2Proof.Machine.execUncorrectableError site s
  | .crcRetransmit id => Sys2Proof.Machine.execCrcRetransmit id s
  | .sliceEnd vf => Sys2Proof.Machine.execSliceEnd vf s
  | .restore vf => Sys2Proof.Machine.execRestore vf s
  | .latencyWindowClose vf => Sys2Proof.Machine.execLatencyWindowClose vf s
  | .counterWrap vf n => Sys2Proof.Machine.execCounterWrap vf n s
  | .recordDecrement die m => Sys2Proof.Machine.execRecordDecrement die m s
  | .phaseJoin m => Sys2Proof.Machine.execPhaseJoin m s
  | .phaseLeave m => Sys2Proof.Machine.execPhaseLeave m s
  | .gateOpen m => Sys2Proof.Machine.execGateOpen m s
  | .gateRefuse m => Sys2Proof.Machine.execGateRefuse m s
  | .reservedKindMessage die m => Sys2Proof.Machine.execReservedKindMessage die m s
  | .spanPacketForward q => Sys2Proof.Machine.execSpanPacketForward q s
  | .predecrementRetry die m => Sys2Proof.Machine.execPredecrementRetry die m s
  | .proxyForward die p => Sys2Proof.Machine.execProxyForward die p s
  | .proxyTimeout die p => Sys2Proof.Machine.execProxyTimeout die p s
  | .jackSwitch p => Sys2Proof.Machine.execJackSwitch p s
  | .jackAdderFire p k => Sys2Proof.Machine.execJackAdderFire p k s
  | .ualinkRequest r => Sys2Proof.Machine.execUalinkRequest r s
  | .flitForward p f => Sys2Proof.Machine.execFlitForward p f s
  | .hostAccess r => Sys2Proof.Machine.execHostAccess r s
  | .moduleReset clr => Sys2Proof.Machine.execModuleReset clr s
  | .die1Rejoin r => Sys2Proof.Machine.execDie1Rejoin r s
  | .lifecycleChange lreq => Sys2Proof.Machine.execLifecycleChange lreq s
  | .powerGood r => Sys2Proof.Machine.execPowerGood r s
  | .tempWarning die => Sys2Proof.Machine.execTempWarning die s
  | .thermalTrip die => Sys2Proof.Machine.execThermalTrip die s
  | .accumulatorCommand t => Sys2Proof.Machine.execAccumulatorCommand t s
  | .peerAccessArrival id => Sys2Proof.Machine.execPeerAccessArrival id s
  | .clusterArrival t id => Sys2Proof.Machine.execClusterArrival t id s
  | .hostFreezeCommand vf => Sys2Proof.Machine.execHostFreezeCommand vf s
  | .nop => Sys2Proof.Machine.execNop s
  | .endStrand => Sys2Proof.Machine.execEndStrand s
  | .eret => Sys2Proof.Machine.execEret s
  | .lehrEpochOpen => Sys2Proof.Machine.execLehrEpochOpen s
  | .lehrEpochClose => Sys2Proof.Machine.execLehrEpochClose s
  | .lqdWrite => Sys2Proof.Machine.execLqdWrite s
  | .lqsWiWrite => Sys2Proof.Machine.execLqsWiWrite s
  | .ovrRegister => Sys2Proof.Machine.execOvrRegister s
  | .ovrResume => Sys2Proof.Machine.execOvrResume s
  | .frrRegister => Sys2Proof.Machine.execFrrRegister s
  | .frrRiWrite => Sys2Proof.Machine.execFrrRiWrite s
  | .pagesResident => Sys2Proof.Machine.execPagesResident s
  | .requeue => Sys2Proof.Machine.execRequeue s
  | .cancelRecord => Sys2Proof.Machine.execCancelRecord s
  | .frameRelease => Sys2Proof.Machine.execFrameRelease s
  | .activate => Sys2Proof.Machine.execActivate s
  | .deactivate => Sys2Proof.Machine.execDeactivate s
  | .reloadRing => Sys2Proof.Machine.execReloadRing s
  | .closePhase => Sys2Proof.Machine.execClosePhase s
  | .reopenPhase => Sys2Proof.Machine.execReopenPhase s
  | .endJob => Sys2Proof.Machine.execEndJob s
  | .partitionWrite => Sys2Proof.Machine.execPartitionWrite s
  | .latencyMonitorWrite => Sys2Proof.Machine.execLatencyMonitorWrite s
  | .proxyPairRegister => Sys2Proof.Machine.execProxyPairRegister s
  | .registerWrite => Sys2Proof.Machine.execRegisterWrite s
  | .die1Reset => Sys2Proof.Machine.execDie1Reset s

end Sys2Proof.Machine
end

