-- ==== Sys2Proof/Machine/Schedule.lean ====
section
/-! DEFINITION. Who moves next (log 2) and the fetch (R22, R31, R54): the steps of the part that are enabled without a message,
the fair rotation among the part's agents, and the word that a front issues. -/

namespace Sys2Proof.Machine

/-! ### Steps that are enabled without a message -/

/-- The steps of one tile: commands, fires, tokens, exchanges, gathered lines, fibre units, deadlock, event entry, retirement. -/
def ownTile (s : State) (t : Nat) (T : Tile) : List Instr :=
  if T.frozen then []
  else
    (if T.mq.isEmpty then [] else [.accumulatorCommand t, .fire t 0]) ++
    T.fires.map (fun f => if f.performed then .fireRetire t f.id else .fire t f.id) ++
    ((List.range 4).filter (fun c => (T.chain c).st == .running)).map (fun c => .tokenEmit t c) ++
    (if T.tswaps.isEmpty then [] else [.tswapExchange t]) ++
    (List.range T.gather.length).map (fun k => .gatherSendHome t k) ++
    (if T.fibre.st == .running then (fUnits T.fibre.cfg).map (fun u => .fibreFire t u) ++ (if T.fibreFaultAt.isSome then [.fibreFault t] else [])
     else []) ++
    (if T.deadlock.isSome then [.decouplingDeadlock t] else []) ++
    (if T.fa.ended && T.fx.ended then
      (if T.events && T.pickChan.isSome then [.eventEntry t] else if T.phase == .running then [.strandRetire t] else [])
     else [])

/-- The steps of one die's dispatcher. -/
def ownDie (s : State) (d : Nat) : List Instr :=
  let D := s.die d
  if s.dieDown d then []
  else
    (if D.ready.isEmpty then [] else [.placementPass d]) ++
    (if D.turn % 2 = 1 || (D.nextCtx 0).isSome then [.packetIntake d] else []) ++
    (if D.recs.any (fun r => r.live && r.spill.isSome) && decide (D.resident < recordsTotal - reserveTotal) then [.spillRefill d] else []) ++
    (D.graphs.filter (watchdogDue s)).map (fun g => .graphWatchdog d g.inst) ++
    (D.recs.filter (fun r => r.st == .running && r.place.any (fun t => (s.tile t).phase == .waiting))).map (fun r => .eventRetire d r.inst r.tidx)

/-- The steps of the module's other parts: leases, slices, jacks. -/
def ownRest (s : State) : List Instr :=
  ((s.claims.filter (fun e => leasePassed s e.2)).map (fun e => .leaseExpiry (e.1 / 2 ^ 21) e.1)) ++
  ((s.vfs.filter (fun v => sliceDue s v.1)).map (fun v => .sliceEnd v.1)) ++
  ((s.jacks.filter (fun j => switchDue s j.1)).map (fun j => .jackSwitch j.1)) ++
  s.jacks.flatMap (fun j => ((List.range 8).filter (fun k => adderReady j.2 (!j.2.epoch) k || adderReady j.2 j.2.epoch k)).map (fun k =>
    .jackAdderFire j.1 k))

/-- Every step that is enabled without a message. -/
def spontaneous (s : State) : List Instr :=
  s.tiles.flatMap (fun p => ownTile s p.1 p.2) ++ ownDie s 0 ++ ownDie s 1 ++ ownRest s

/-! ### The fetch (R22, R54) -/

/-- The word at an address of a code store. -/
def Tile.wordAt (T : Tile) (pc : Pc) : Nat := memNat T.code pc.toNat 4

/-- The instruction that a word stands for; a word that is none is taken as one (R64). -/
def instrOf (w : Nat) : Instr :=
  match decodeWord w with
  | .ok i => i
  | .error _ => .unassignedEncoding (BitVec.ofNat 32 w)

/-- The instruction at which a front stands. -/
def fetchOf (s : State) (t : Nat) (f : Front) : Instr := instrOf ((s.tile t).wordAt ((s.tile t).front f).pc)

/-! ### Time (R333, log 1) -/

/-- Fronts of a virtual function that wait on queue ports (R32). -/
def blockedFronts (s : State) (v : Nat) : Nat :=
  ((s.tiles.filter (fun p => p.2.phase == .running && !p.2.frozen && p.2.vf == v)).map (fun p =>
    (if p.2.fa.blockedOn.isSome then 1 else 0) + (if p.2.fx.blockedOn.isSome then 1 else 0))).sum

/-- Cycles pass: a free number; the counters of events 1 and 5 follow. -/
def passTime (s : State) : State :=
  let n := Config.stepCycles s.free
  s.vfs.foldl (fun s v => (s.count v.1 1 n).count v.1 5 (n * blockedFronts s v.1)) { s with cyc := s.cyc + BitVec.ofNat 64 n }

/-! ### The rotation -/

/-- What happens next: an instruction's step on a state, or time alone. -/
inductive Move | act (i : Instr) (s : State) | time (s : State)

/-- A front issues. -/
def moveFront (s : State) (t : Nat) (f : Front) : Move := .act (fetchOf s t f) { s with focus := (t, f) }

/-- Item k of the agenda is carried out. -/
def moveEvent (s : State) (k : Nat) : Move :=
  match s.agenda[k]? with
  | none => .time s
  | some i => .act i { s with agenda := s.agenda.eraseIdx k }

/-- The k-th enabled step of the part itself. -/
def moveOwn (s : State) (k : Nat) : Move :=
  let l := spontaneous s
  match l[k % l.length]? with
  | none => .time s
  | some i => .act i s

/-- The fronts that can issue, in the order of their tiles. -/
def running (s : State) : List (Nat × Front) :=
  s.tiles.flatMap (fun p => (if p.2.runs .a then [(p.1, Front.a)] else []) ++ (if p.2.runs .x then [(p.1, Front.x)] else []))

/-- A front after another one in that order. -/
def frontAfter (p q : Nat × Front) : Bool := decide (p.1 < q.1) || (p.1 == q.1 && p.2 == .a && q.2 == .x)

/-- The next front in turn issues. -/
def moveTurn (s : State) : Move :=
  let l := running s
  match (match l.find? (frontAfter s.focus) with | some q => some q | none => l.head?) with
  | some (t, f) => moveFront s t f
  | none => .time s

/-- The agents take turns: messages, the part's own steps, the fronts, time. -/
def moveFair (s : State) : Move :=
  match s.free % 4 with
  | 0 => moveEvent s 0
  | 1 => moveOwn s (s.free / 4)
  | 2 => moveTurn s
  | _ => .time s

/-- The mover that stands on the tape, else the one whose turn it is; the counter of free values advances. -/
def nextMove (s : State) : Move :=
  let s1 := { s with free := s.free + 1 }
  match s.tape with
  | [] => moveFair s1
  | m :: rest =>
    let s1 := { s1 with tape := rest }
    match m with
    | .front t f => moveFront s1 t f
    | .event k => moveEvent s1 k
    | .own k => moveOwn s1 k

end Sys2Proof.Machine
end

