-- ==== Sys2Proof/Machine/Step.lean ====
section
/-! DEFINITION. One step of the module, and an instruction placed where the next step fetches it. -/

namespace Sys2Proof.Machine

/-- One step: the instruction or the part's own step whose turn it is, or time alone. -/
def step (s : State) : Host.Outcome State Fault Refusal :=
  match nextMove s with
  | .act i s' => exec i s'
  | .time s' => .next (passTime s')

/-- The front on which a word of a major opcode may issue: the execute front for those that only it issues (R60). -/
def majorFront (m : Nat) : Front := if [0x20, 0x21, 0x22, 0x23, 0x24, 0x25, 0x26, 0x27, 0x28, 0x30, 0x31, 0x32, 0x34, 0x35].contains m then .x else .a

/-- The tile for a word of a major opcode: an F-tile for the fibre words, else tile 0 (R3, R20). -/
def majorTile (m : Nat) : Nat := if m = 0x39 then 3 else 0

/-- The state with an instruction of nbits bits at the program counter of a front that the next step lets issue. -/
def State.withFetchWord (s : State) (nbits w : Nat) : State :=
  let v := w % 2 ^ nbits % 2 ^ 32
  let f := majorFront (v / 2 ^ 26)
  let t := majorTile (v / 2 ^ 26)
  let T := s.tile t
  let F := { T.front f with ended := false, inEret := false }
  let T := { T with phase := .running, frozen := false, code := memPutNat T.code F.pc.toNat 4 v }
  { s.setTile t (T.setFront f F) with tape := [.front t f] }

end Sys2Proof.Machine
end

