-- ==== Sys2Proof/Safety.lean ====
section
/-! DEFINITION. The terms in which claims are stated: the canonical form of the module's memories and tables (R216), when
a word issues, its operands, and what an executed word changes and leaves unchanged (its frame). -/

namespace Sys2Proof.Machine

/-! ### Good states -/

/-- Every memory of a tile is in canonical form. -/
def Tile.memWf (T : Tile) : Bool := Memory.wf T.spad && Memory.wf T.code

/-- The part's memory and every tile's memories are in canonical form, and so are the tables of tiles, contexts and
virtual functions. -/
def State.memWf (s : State) : Bool :=
  Memory.wf s.pmem && Sparse.wfFrom Tile.reset 0 s.tiles && s.tiles.all (fun p => p.2.memWf) && Sparse.wfFrom Ctx.reset 0 s.ctxs &&
    Sparse.wfFrom Vf.reset 0 s.vfs

/-! ### A word that issues -/

/-- The word may issue now on the front in focus: the front runs (R23, R31), no cause of R64 is raised by the word's
fields, no register it names is interlocked (R23), and no port it names makes it wait (R28). -/
structure Ready (s : State) (fm : Form) : Prop where
  runs : s.cur.runs s.focus.2 = true
  gate : fm.gate s.cur s.focus.1 s.focus.2 = none
  free : fm.hold s.cur s.focus.2 = .none

/-- Scalar source k of a word: its register, or the entry of its port behind those that earlier fields pop (R17, R28). -/
def Tile.src (T : Tile) (f : Front) (rs : List Reg) (k : Nat) : Word :=
  match rs[k]? with
  | none => 0
  | some r =>
    if r.toNat < 24 then (T.front f).reg r.toNat
    else ((T.sport (r.toNat - 24)).map QSlot.val).getD (countReg (rs.take k) r.toNat) 0

/-- Vector source k of a word. -/
def Tile.vsrc (T : Tile) (rv : List Reg) (k : Nat) : Vec :=
  match rv[k]? with
  | none => 0
  | some r =>
    if r.toNat < 28 then T.vreg r.toNat
    else ((T.vport (r.toNat - 28)).map QSlot.val).getD (countReg (rv.take k) r.toNat) 0

/-- The same of the front in focus. -/
def State.src (s : State) (rs : List Reg) (k : Nat) : Word := s.cur.src s.focus.2 rs k
def State.vsrc (s : State) (rv : List Reg) (k : Nat) : Vec := s.cur.vsrc rv k

/-- The hints bound to the word that issues next (R57). -/
def State.hints (s : State) : Hints := (s.cur.front s.focus.2).hints

/-- Program counter and rounding mode of the front in focus. -/
def State.pc (s : State) : Pc := (s.cur.front s.focus.2).pc
def State.rmode (s : State) : BitVec 3 := (s.cur.front s.focus.2).rmode

/-- What a word does: results for scalar and vector destinations, destinations reserved for operations that answer later
(with the operation's serial number), whether it draws from the generator when it rounds in SR (R45), sticky bits it
raises, what else of its front and of its tile changes, serial numbers it takes, transactions that set out and messages
that are posted. -/
structure Effect where
  dst   : List (Reg × Word) := []
  vdst  : List (Reg × Vec) := []
  resv  : List (Reg × Nat) := []
  vresv : List (Reg × Nat) := []
  draws : Bool := false
  warns : Warns := 0
  front : FrontState → FrontState := id
  body  : Tile → Tile := id
  ids   : Nat := 0
  txns  : List Txn := []
  posts : List Instr := []

/-- The last result for a register; none where the word writes no such register. -/
def lastFor {α : Type} : List (Reg × α) → Nat → Option α
  | [], _ => none
  | (d, v) :: l, r =>
    match lastFor l r with
    | some u => some u
    | none => if d.toNat = r then some v else none

/-- The entries pushed into a port. -/
def pushesFor {n : Nat} (l : List (Reg × BitVec n)) (r : Nat) : List (QSlot n) :=
  (l.filter (fun p => p.1.toNat == r)).map (fun p => .filled p.2)

/-- The slots reserved in a port. -/
def reservesFor {n : Nat} (l : List (Reg × Nat)) (r : Nat) : List (QSlot n) :=
  (l.filter (fun p => p.1.toNat == r)).map (fun p => .pending p.2)

/-- The registers that interlock for an operation (R23); s0 takes nothing. -/
def interlocksOf (l : List (Reg × Nat)) : List (Nat × Nat) :=
  (l.filter (fun p => p.1.toNat != 0 && decide (p.1.toNat < 24))).map (fun p => (p.1.toNat, p.2))

/-- The strand's tile after a word: the program counter stands at the next word and the pending hints are dropped, each
port has lost the entries the word's sources pop and gained the results sent to it or the slots reserved in it, each
register holds its result or what it held; nothing else of the tile changes but what the effect says. -/
structure TileDone (T T' : Tile) (f : Front) (fm : Form) (x : Effect) : Prop where
  kept   : T' = { x.body T with fa := T'.fa, fx := T'.fx, sq := T'.sq, vq := T'.vq, vregs := T'.vregs, warn := T'.warn }
  other  : T'.front f.other = { T.front f.other with wait := .none }
  front  : T'.front f = { x.front { T.front f with
    pc := (T.front f).pc + 4, hints := {}, wait := .none, pend := (T.front f).pend ++ interlocksOf x.resv,
    sgen := if x.draws && (T.front f).rmode == 5 then (T.front f).sgen + goldenRatio else (T.front f).sgen } with regs := (T'.front f).regs }
  regs   : ∀ r, 0 < r → r < 24 → (T'.front f).reg r = (lastFor x.dst r).getD ((T.front f).reg r)
  ports  : ∀ q, q < 8 → T'.sport q =
    (T.sport q).drop (countReg fm.rs (q + 24)) ++ pushesFor x.dst (q + 24) ++ reservesFor x.resv (q + 24)
  vregs  : ∀ r, r < 28 → T'.vreg r = (lastFor x.vdst r).getD (T.vreg r)
  vports : ∀ q, q < 4 → T'.vport q =
    (T.vport q).drop (countReg fm.rv (q + 28)) ++ pushesFor x.vdst (q + 28) ++ reservesFor x.vresv (q + 28)
  warn   : T'.warn = T.warn ||| warnOf warnHint (fm.hintIgnored (T.front f).hints) ||| x.warns

/-- Outside the issuing strand's tile a word changes nothing but the transactions and messages of its effect, and the
performance counters, whose wraps are carried on by steps of their own (R332 to R334). -/
structure Quiet (s t : State) (x : Effect) : Prop where
  rest   : t = { s with tiles := t.tiles, vfs := t.vfs, agenda := t.agenda, nextId := s.nextId + x.ids, txns := s.txns ++ x.txns }
  tiles  : ∀ u, u ≠ s.focus.1 → t.tile u = s.tile u
  vfs    : ∀ v, t.vf v = { s.vf v with perf := (t.vf v).perf }
  agenda : ∃ l, t.agenda = s.agenda ++ x.posts ++ l ∧ ∀ e ∈ l, ∃ v k, e = .counterWrap v k

/-- A word has been executed with an effect: this is its frame. -/
structure Executed (s t : State) (fm : Form) (x : Effect) : Prop where
  quiet : Quiet s t x
  tile  : TileDone s.cur t.cur s.focus.2 fm x

/-- The instruction, where it may issue, answers a next state in which its effect on its own strand has been made. -/
def Completes (i : Instr) (fm : Form) (x : State → Effect) : Prop :=
  ∀ s, Ready s fm → ∃ t, exec i s = .next t ∧ Executed s t fm (x s)

/-- The state in which a word takes effect: its sources are read, its program counter stands at the next word. -/
def State.begun (s : State) (fm : Form) : State := s.setTile s.focus.1 (fm.start s.cur s.focus.2).2

/-- An issued word is counted (R333, events 2 and 3). -/
def State.counted (s t : State) : State := t.count s.cur.vf (2 + s.focus.2.code) 1

/-- What a word's meaning has at hand. -/
def State.operands (s : State) (fm : Form) : Issue := (fm.start s.cur s.focus.2).1

end Sys2Proof.Machine
end

