-- ==== Sys2Proof/Certificates/Slice0/Obligations.lean ====
section
/-! DEFINITION. The statements for the provers, `Obligations.<Name>`, in the order of OBLIGATIONS.json, after the terms that they are
written in. The terms give the spec's rules in a form of their own; where a statement names a function of the model, it is one whose
meaning the spec gives elsewhere or a choice that a log entry names. -/

namespace Sys2Proof.Machine

/-! ### Integer words (R80 to R86) -/

/-- R81: the w-bit result of each operation of major 0x01 on A and B, extended to 64 bits as its row says. -/
def aluTable : List ((Reg → Reg → Reg → Width → Instr) × (∀ n, BitVec n → BitVec n → Word)) :=
  [(.add, fun _ x y => (x + y).signExtend 64), (.sub, fun _ x y => (x - y).signExtend 64),
   (.andd, fun _ x y => (x &&& y).signExtend 64), (.orr, fun _ x y => (x ||| y).signExtend 64),
   (.xorr, fun _ x y => (x ^^^ y).signExtend 64), (.andn, fun _ x y => (x &&& ~~~y).signExtend 64),
   (.sll, fun n x y => (x <<< (y.toNat % n)).signExtend 64), (.srl, fun n x y => (x >>> (y.toNat % n)).setWidth 64),
   (.sra, fun n x y => (x.sshiftRight (y.toNat % n)).signExtend 64), (.slt, fun _ x y => if x.slt y then 1 else 0),
   (.sltu, fun _ x y => if x.ult y then 1 else 0), (.minn, fun _ x y => (if x.sle y then x else y).signExtend 64),
   (.maxx, fun _ x y => (if x.sle y then y else x).signExtend 64), (.minu, fun _ x y => (if x.ule y then x else y).setWidth 64),
   (.maxu, fun _ x y => (if x.ule y then y else x).setWidth 64)]

/-- R82 with the division cases of R49. -/
def mulTable : List ((Reg → Reg → Reg → Width → Instr) × (∀ n, BitVec n → BitVec n → Word)) :=
  [(.mul, fun _ x y => (x * y).signExtend 64),
   (.mulh, fun n x y => (((x.signExtend (2 * n) * y.signExtend (2 * n)) >>> n).setWidth n).signExtend 64),
   (.mulhu, fun n x y => (((x.setWidth (2 * n) * y.setWidth (2 * n)) >>> n).setWidth n).setWidth 64),
   (.div, fun n x y => (if y = 0 then BitVec.allOnes n else x.sdiv y).signExtend 64),
   (.divu, fun n x y => (if y = 0 then BitVec.allOnes n else x / y).setWidth 64),
   (.rem, fun _ x y => (if y = 0 then x else x.srem y).signExtend 64),
   (.remu, fun _ x y => (if y = 0 then x else x % y).setWidth 64)]

/-- R83, the one-source rows. -/
def bitTable : List ((Reg → Reg → Width → Instr) × (∀ n, BitVec n → Word)) :=
  [(.clz, fun n x => if x = 0 then BitVec.ofNat 64 n else BitVec.ofNat 64 (n - 1 - Nat.log2 x.toNat)),
   (.ffs, fun n x => match (List.range n).find? (fun i => x.getLsbD i) with
     | some i => BitVec.ofNat 64 (i + 1)
     | none => 0),
   (.popc, fun n x => BitVec.ofNat 64 ((List.range n).filter (fun i => x.getLsbD i)).length),
   (.brev, fun _ x => x.reverse.setWidth 64)]

/-- The bits of the field F of R83 at width n, for a position p and a length l. -/
def fieldMask (n p l : Nat) : BitVec n := BitVec.ofNat n (2 ^ min (p + l) n - 2 ^ min p n)

/-- Position and length in a control word of R83. -/
def fieldPos (c : Word) : Nat := (c.extractLsb' 0 6).toNat
def fieldLength (c : Word) : Nat := (c.extractLsb' 8 7).toNat

/-- The operands of a two-source word at width w. -/
def lowA (s : State) (rs : List Reg) (w : Width) : BitVec w.nbits := (s.src rs 0).setWidth w.nbits
def lowB (s : State) (rs : List Reg) (w : Width) : BitVec w.nbits := (s.src rs 1).setWidth w.nbits

/-- The immediate of R84 on 64 bits: imm16 with a bound HIMM's payload in front, read as signed or as unsigned. -/
def immSigned (s : State) (i : BitVec 16) : Word :=
  match s.hints.himm with
  | none => i.signExtend 64
  | some p => (p ++ i).signExtend 64
def immUnsigned (s : State) (i : BitVec 16) : Word :=
  match s.hints.himm with
  | none => i.setWidth 64
  | some p => (p ++ i).setWidth 64

/-- R84: what each immediate form writes, for sreg[a] and the state's hints. -/
def immTable : List ((Reg → Reg → BitVec 16 → Instr) × (State → Word → BitVec 16 → Word)) :=
  [(.addi, fun s x i => x + immSigned s i), (.andi, fun s x i => x &&& immUnsigned s i),
   (.ori, fun s x i => x ||| immUnsigned s i), (.xori, fun s x i => x ^^^ immUnsigned s i),
   (.slti, fun s x i => if x.slt (immSigned s i) then 1 else 0),
   (.sethi, fun s x i => match s.hints.himm with
     | none => (i ++ x.setWidth 48 : BitVec 64)
     | some p => ((p ++ i : BitVec 38) ++ x.setWidth 26 : BitVec 64))]

/-- R85. -/
def shiftTable : List ((Reg → Reg → BitVec 6 → Instr) × (Word → Nat → Word)) :=
  [(.slli, fun x n => x <<< n), (.srli, fun x n => x >>> n), (.srai, fun x n => x.sshiftRight n)]

/-! ### Scalar floating point (R87 to R90) -/

/-- The exact number a value stands for; none for NaN and the infinities. -/
def FVal.toRat : FVal → Option ℚ
  | .fin s n d e => some ((if s then -1 else 1) * ((n : ℚ) / (d : ℚ)) * (2 : ℚ) ^ e)
  | _ => none

/-- The number of a code of a format. -/
def FFormat.num (f : FFormat) (c : Nat) : Option ℚ := (f.decode c).toRat

/-- The rounding that the word issuing next samples (R44, R45): in SR it takes one draw, with i = 0. -/
def sampled (s : State) : Rnd :=
  if s.rmode = 5 then { mode := 5, seed := mix ((s.cur.front s.focus.2).sgen + goldenRatio), i := 0 }
  else { mode := s.rmode.toNat, seed := 0, i := 0 }

/-- The code in the low bits of a source (R87). -/
def codeOf (s : State) (rs : List Reg) (f : FFmt) (k : Nat) : Nat := (s.src rs k).toNat % 2 ^ (fmtOf f).width

/-- R88: the words of major 0x0E that round, that choose, and that compare. -/
def roundTable : List ((Reg → Reg → Reg → FFmt → Instr) × (FFormat → Rnd → Nat → Nat → Nat)) :=
  [(.fadd, fAdd), (.fsub, fSub), (.fmul, fMul)]
def chooseTable : List ((Reg → Reg → Reg → FFmt → Instr) × (FFormat → Nat → Nat → Nat)) := [(.fmin, fMin), (.fmax, fMax)]
def compareTable : List ((Reg → Reg → Reg → FFmt → Instr) × FRel) :=
  [(.fcmpEq, .eq), (.fcmpNe, .ne), (.fcmpLt, .lt), (.fcmpLe, .le), (.fcmpUn, .un)]

/-- The float formats of R35. -/
def floatFormats : List FFormat := [fmtFP32, fmtFP16, fmtBF16, fmtF8E4, fmtF8E5, fmtF6E3, fmtF6E2, fmtF4E2]

/-! ### Control, hints, local accesses (R57 to R59, R91 to R97) -/

/-- R91: the conditions of BR on all 64 bits. -/
def branchHolds : BrCond → Word → Word → Bool
  | .eq, x, y => x == y
  | .ne, x, y => x != y
  | .lt, x, y => x.slt y
  | .ge, x, y => y.sle x
  | .ltu, x, y => x.ult y
  | .geu, x, y => y.ule x
  | .al, _, _ => true

/-- The branch offset in words, with a bound HIMM's payload in front, modulo 2^16. -/
def branchOffset (s : State) (o : BitVec 13) : Pc :=
  match s.hints.himm with
  | none => o.signExtend 16
  | some p => (p ++ o).setWidth 16

/-- The target of JALR as an exact number (R92). -/
def jalrTarget (s : State) (a : Reg) (i : BitVec 16) : Int := (s.src [a] 0).toNat + (immSigned s i).toInt

/-- Some hint is pending (R57). -/
def Hints.any (h : Hints) : Bool := h.himm.isSome || h.hmod.isSome || h.hpri.isSome

/-- A hint word has joined the pending group: the hints of the front become h, and a kind pending before sets warn.hint. -/
structure HintTaken (s t : State) (h : Hints) (again : Bool) : Prop where
  quiet : Quiet s t {}
  kept  : t.cur = { s.cur with fa := t.cur.fa, fx := t.cur.fx, warn := s.cur.warn ||| warnOf warnHint again }
  front : t.cur.front s.focus.2 = { s.cur.front s.focus.2 with
    pc := s.pc + 4, wait := .none, hints := { h with first := if s.hints.any then s.hints.first else s.pc } }
  other : t.cur.front s.focus.2.other = { s.cur.front s.focus.2.other with wait := .none }

/-- The address of an LDS or STS (R94): base plus offset, widened by a bound HIMM, times the size, as an exact number. -/
def localAddr (s : State) (rs : List Reg) (o : BitVec 10) (n : Nat) : Int :=
  (s.src rs 0).toNat + (match s.hints.himm with | none => o.toInt | some p => (p ++ o).toInt) * n

/-- R94: a loaded value by its size code. -/
def loadedWord : LoadSize → Nat → Word
  | .u8, v => (BitVec.ofNat 8 v).setWidth 64
  | .u16, v => (BitVec.ofNat 16 v).setWidth 64
  | .u32, v => (BitVec.ofNat 32 v).setWidth 64
  | .d64, v => BitVec.ofNat 64 v
  | .s8, v => (BitVec.ofNat 8 v).signExtend 64
  | .s16, v => (BitVec.ofNat 16 v).signExtend 64
  | .s32, v => (BitVec.ofNat 32 v).signExtend 64

/-- Bytes of an LDS size code. -/
def loadBytes : LoadSize → Nat
  | .u8 => 1
  | .s8 => 1
  | .u16 => 2
  | .s16 => 2
  | .u32 => 4
  | .s32 => 4
  | .d64 => 8

/-- Where a scalar destination field lies: nowhere for s0, a register, a port. -/
def destOf (d : Reg) : Dest := if d.toNat = 0 then .none else if d.toNat < 24 then .sreg d.toNat else .sport (d.toNat - 24)

/-- The effect of a load whose value v is on its way to d (R23, R28): d is reserved, and the value arrives by a step of its
own; a load into s0 discards it. -/
def loadEffect (s : State) (d : Reg) (v : Word) : Effect :=
  { resv := [(d, s.nextId)], ids := 1,
    body := fun T => if d.toNat = 0 then T else
      { T with fills := T.fills ++ [{ id := s.nextId, front := s.focus.2, dest := destOf d, val := v.setWidth 2048 }] },
    posts := if d.toNat = 0 then [] else [.localLoadFill s.focus.1 s.nextId] }

/-- Counts of a port's slots by what they hold. -/
def filledIn {n : Nat} (l : List (QSlot n)) : Nat := (l.filter (fun e => !e.isPending)).length
def pendingIn {n : Nat} (l : List (QSlot n)) : Nat := (l.filter (fun e => e.isPending)).length

/-- Ended, free, pending and filled as QSTAT's word (R96). -/
def statWord (ended : Bool) (free pending filled : Nat) : Word :=
  BitVec.ofNat 64 ((if ended then 1 else 0) * 2 ^ 15 + free * 2 ^ 10 + pending * 2 ^ 5 + filled)

/-! ### Traps and system words (R25, R307 to R311, R335 to R346) -/

/-- tcause of R308: ipc, class, front and code in their fields. -/
def causeWord (ipc : Pc) (cls : BitVec 3) (f : Front) (code : BitVec 8) : Word :=
  (0#16 ++ ipc ++ 0#17 ++ cls ++ 0#3 ++ (match f with | .a => 0#1 | .x => 1#1) ++ code : BitVec 64)

/-- The address of the first instruction that a front has not issued (R57, R309): the first hint of a pending group. -/
def resumeAt (F : FrontState) : Pc := if F.ended then F.endPc else if F.hints.any then F.hints.first else F.pc

/-- A handler entry: bits [1:0] read as zero (R308). -/
def entryOf (p : BitVec 16) : Pc := p &&& 0xFFFC

/-- A front after a trap or a return: it stands at an address, issues again and has no pending hints. -/
def frontAt (F : FrontState) (p : Pc) : FrontState := { F with pc := p, hints := {}, ended := false, inEret := false, wait := .none }

/-- R309: the trap has been taken by the strand's handler; only the strand's tile has changed. -/
structure HandlerEntered (s t : State) (u : Nat) (code : BitVec 8) (cls : BitVec 3) (f : Front) (ipc : Pc) (val : Word) : Prop where
  tile : t.tile u = { s.tile u with
    epca := resumeAt (s.tile u).fa, epcx := resumeAt (s.tile u).fx, tcause := causeWord ipc cls f code, tval := val, slv := true,
    fa := frontAt (s.tile u).fa (entryOf ((s.tile u).tvec.extractLsb' 0 16)),
    fx := frontAt (s.tile u).fx (entryOf ((s.tile u).tvec.extractLsb' 16 16)) }
  rest : t = { s with tiles := t.tiles }
  others : ∀ v, v ≠ u → t.tile v = s.tile v

/-- The fronts on which a word may issue (R25), from its bits (R60, R61). -/
def frontAllows (w : Nat) : Front → Bool
  | .a => !([0x20, 0x21, 0x22, 0x23, 0x24, 0x25, 0x26, 0x27, 0x28, 0x30, 0x31, 0x32, 0x34, 0x35].contains (w / 2 ^ 26))
  | .x => !([0x16, 0x17, 0x18, 0x19, 0x1A, 0x1B, 0x1C, 0x1D, 0x1F, 0x2E, 0x2F, 0x36, 0x37, 0x38, 0x39, 0x3B, 0x3C].contains (w / 2 ^ 26)) &&
      !(w / 2 ^ 26 == 0x33 && w % 2 ^ 11 != 2) && !(w / 2 ^ 26 == 0x3D && decide (5 ≤ w / 2 ^ 12 % 16))

/-- The words that need service level whatever their operands (R335). -/
def serviceWord : Instr → Bool
  | .eret => true
  | .invpg .. => true
  | .waysetCw .. => true
  | .waysetShare .. => true
  | .lehrArm .. => true
  | .lehrStat .. => true
  | .lehrDisarm .. => true
  | .jcfg .. => true
  | .csrw _ c => c == 0x020 || c == 0x023 || c == 0x024
  | .csrx _ _ c => c == 0x020 || c == 0x023 || c == 0x024
  | _ => false

/-- R338, R332, R169: what each control and status register reads as, by its number. -/
def csrTable : List (Nat × (State → Word)) :=
  [(0x000, fun s => s.rmode.setWidth 64), (0x001, fun s => (s.cur.front s.focus.2).sgen), (0x002, fun s => s.cur.warn),
   (0x010, fun s => s.cur.tid), (0x011, fun s => s.cur.rank), (0x012, fun s => s.cur.crect), (0x013, fun s => s.cur.ctx),
   (0x014, fun s => s.cyc), (0x020, fun s => s.cur.tvec), (0x021, fun s => s.cur.tcause), (0x022, fun s => s.cur.tval),
   (0x023, fun s => s.cur.epca.setWidth 64), (0x024, fun s => s.cur.epcx.setWidth 64),
   (0x025, fun s => if s.cur.slv then 1 else 0), (0x015, mgid), (0x016, mgid2), (0x034, fun s => (s.vf s.cur.vf).cfg &&& perfcfgMask)] ++
  (List.range 4).map (fun k => (0x030 + k, fun s => if fabricEvent ((s.vf s.cur.vf).event k) then 0
    else ((s.vf s.cur.vf).perf.toList.getD k 0).setWidth 64)) ++
  (List.range 16).map (fun k => (0x040 + k, fun s =>
    (0#16 ++ (s.cur.chan k).xe ++ (s.cur.chan k).ae ++ BitVec.ofBool (s.cur.chan k).val ++ (s.cur.chan k).cpri ++
      BitVec.ofBool (s.cur.chan k).blk ++ BitVec.ofNat 3 (s.cur.chan k).payloads.length ++ 0#8 : BitVec 64)))

/-- R338: register n has been written with v; `keep` are the sticky bits of warn raised by the same word (R27). -/
structure CsrWritten (s t : State) (n : Nat) (v keep : Word) : Prop where
  rmode  : n = 0x000 → v.toNat % 8 < 6 → t.rmode = v.setWidth 3
  noMode : n = 0x000 → 6 ≤ v.toNat % 8 → t.rmode = s.rmode ∧ t.cur.warn.getLsbD 5 = true
  sgen   : n = 0x001 → (t.cur.front s.focus.2).sgen = v
  warn   : n = 0x002 → t.cur.warn = (v &&& 0x7FFF) ||| keep
  tvec   : n = 0x020 → t.cur.tvec = v &&& 0x1FFFCFFFC
  epca   : n = 0x023 → t.cur.epca = v.setWidth 16 &&& 0xFFFC
  epcx   : n = 0x024 → t.cur.epcx = v.setWidth 16 &&& 0xFFFC
  perf   : ∀ k, k < 4 → n = 0x030 + k → (s.vf s.cur.vf).event k ≠ 2 + s.focus.2.code →
    (t.vf s.cur.vf).perf.toList.getD k 0 = v.setWidth 48
  chan   : ∀ k, k < 16 → n = 0x040 + k → t.cur.chan k =
    { xe := v.extractLsb' 32 16, ae := v.extractLsb' 16 16, val := v.getLsbD 15, cpri := v.extractLsb' 12 3, blk := v.getLsbD 11,
      payloads := if v.getLsbD 15 then (s.cur.chan k).payloads else [] }
  kept   : t.cur = { s.cur with
    fa := t.cur.fa, fx := t.cur.fx, sq := t.cur.sq, warn := t.cur.warn, tvec := t.cur.tvec, epca := t.cur.epca,
    epcx := t.cur.epcx, chans := t.cur.chans }
  rest   : t = { s with tiles := t.tiles, vfs := t.vfs, agenda := t.agenda }
  others : ∀ u, u ≠ s.focus.1 → t.tile u = s.tile u

/-- A transaction that the word issuing next sends (R248). -/
def sentTxn (s : State) (k : TxnKind) (places cls scope : Nat) (tval : Word) (dest : Dest) : Txn :=
  { id := s.nextId, tile := s.focus.1, inst := s.cur.inst, tidx := s.cur.tidx, front := s.focus.2, ipc := s.pc, user := !s.cur.slv,
    ctx := s.cur.ctx.toNat, kind := k, dest := dest, places := places, cls := cls, scope := scope, acq := false, rel := false,
    mode := 0, seed := 0, resp := .pending, tval := tval }

/-- The context of the issuing strand has the sys bit (R335). -/
def hasSys (s : State) : Bool := (s.ctx s.cur.ctx.toNat).sys

/-- The status a word writes into d, on a state that its effect left. -/
def withStatus (s : State) (u : State) (d : Reg) (v : Word) : State := u.modTile s.focus.1 (fun T => T.putS s.focus.2 d v)

/-! ### Vector words (R99 to R122) -/

/-- Element e of a vector at width w (R99). -/
def elemAt (w e : Nat) (v : Vec) : BitVec w := v.extractLsb' (w * e) w

/-- R99: the mask bit that governs element e of n. -/
def governs (K : Word) (n e : Nat) : Bool := K.getLsbD (e * 64 / n)

/-- R101: V holds, in n elements of w bits, the result of `op` where the mask enables an element, and elsewhere the prior
value of the destination, or zero in a port; nothing stands above the n elements. -/
def Masked (V : Vec) (K : Word) (w n : Nat) (d : Reg) (prior : Vec) (op : Nat → BitVec w) : Prop :=
  (∀ e, e < n → elemAt w e V = if governs K n e then op e else if d.toNat < 28 then elemAt w e prior else 0) ∧
  ∀ b, n * w ≤ b → V.getLsbD b = false

/-- The prior value of a vector destination. -/
def State.prior (s : State) (d : Reg) : Vec := s.cur.vreg d.toNat

/-- A mask register as an operand. -/
def State.mask (s : State) (k : KReg) : Word := s.cur.kreg k.toNat

/-- Element e of vector source k. -/
def State.velem (s : State) (rv : List Reg) (k w e : Nat) : BitVec w := elemAt w e (s.vsrc rv k)

/-- Bit b of a bound HMOD (R59). -/
def Hints.modBit (h : Hints) (b : Nat) : Bool := (h.hmod.getD 0).getLsbD b

/-- R103, the two-source rows: whether the row accepts HMOD bit 0, and its element result with that bit. -/
def vec2Table : List ((Reg → Reg → Reg → KReg → Width → Instr) × Bool × (Bool → ∀ n, BitVec n → BitVec n → BitVec n)) :=
  [(.vadd, false, fun _ _ x y => x + y), (.vsub, false, fun _ _ x y => x - y), (.vmul, false, fun _ _ x y => x * y),
   (.vmulh, true, fun u n x y => if u then ((x.setWidth (2 * n) * y.setWidth (2 * n)) >>> n).setWidth n
     else ((x.signExtend (2 * n) * y.signExtend (2 * n)) >>> n).setWidth n),
   (.vmin, true, fun u _ x y => if (if u then x.ule y else x.sle y) then x else y),
   (.vmax, true, fun u _ x y => if (if u then x.ule y else x.sle y) then y else x),
   (.vand, false, fun _ _ x y => x &&& y), (.vor, false, fun _ _ x y => x ||| y), (.vxor, false, fun _ _ x y => x ^^^ y),
   (.vsll, false, fun _ n x y => x <<< (y.toNat % n)), (.vsrl, false, fun _ n x y => x >>> (y.toNat % n)),
   (.vsra, false, fun _ n x y => x.sshiftRight (y.toNat % n))]

/-- R103, R50, the one-source rows. -/
def vec1Table : List ((Reg → Reg → KReg → Width → Instr) × (∀ n, BitVec n → BitVec n)) :=
  [(.vabs, fun _ x => if x.msb then -x else x), (.vneg, fun _ x => -x),
   (.vclz, fun n x => BitVec.ofNat n (if x = 0 then n else n - 1 - Nat.log2 x.toNat)),
   (.vffs, fun n x => match (List.range n).find? (fun i => x.getLsbD i) with
     | some i => BitVec.ofNat n (i + 1)
     | none => 0),
   (.vpopc, fun n x => BitVec.ofNat n ((List.range n).filter (fun i => x.getLsbD i)).length)]

/-- Width and format at which a float form is performed, and whether that is a fallback (R65, R104). -/
def floatShape (w : Width) (bf : Bool) : Nat × FFormat × Bool :=
  match w, bf with
  | .w16, false => (16, fmtFP16, false)
  | .w16, true => (16, fmtBF16, false)
  | .w32, false => (32, fmtFP32, false)
  | _, _ => (32, fmtFP32, true)

/-- R104: the rows on two sources, on one, and with the prior destination; whether they draw. -/
def vecF2Table : List ((Reg → Reg → Reg → KReg → Width → Bool → Instr) × Bool × (FFormat → Rnd → Nat → Nat → Nat)) :=
  [(.vaddF, true, fAdd), (.vsubF, true, fSub), (.vmulF, true, fMul), (.vminF, false, fun f _ => fMin f), (.vmaxF, false, fun f _ => fMax f)]
def vecF1Table : List ((Reg → Reg → KReg → Width → Bool → Instr) × (FFormat → Nat → Nat)) := [(.vabsF, fAbs), (.vnegF, fNeg)]
def vecF3Table : List ((Reg → Reg → Reg → KReg → Width → Bool → Instr) × (FFormat → Rnd → Nat → Nat → Nat → Nat)) :=
  [(.vfma, fFma), (.vfms, fFms)]

/-- R117: the special functions on exact values. -/
def specialTable : List ((Reg → Reg → KReg → Width → Instr) × (FVal → FVal)) :=
  [(.vexp2, vExp2), (.vlog2, vLog2), (.vrcp, vRcp), (.vrsq, vRsq), (.vtanh, vTanh)]

/-- The rounding of element e (R101): the word's draw with the element's number. -/
def sampledAt (s : State) (e : Nat) : Rnd := { sampled s with i := e }

/-- A vector word with one masked result completes: everything else is as in its frame. -/
def CompletesV (i : Instr) (fm : Form) (w n : State → Nat) (d : Reg) (k : KReg) (op : ∀ s, Nat → BitVec (w s)) (draws : Bool) (warns : State → Warns) : Prop :=
  ∀ s, Ready s fm → ∃ V t, Masked V (s.mask k) (w s) (n s) d (s.prior d) (op s) ∧ exec i s = .next t ∧
    Executed s t fm { vdst := [(d, V)], draws := draws, warns := warns s }

/-- R105: the condition on an element pair, in the integer form and in the float form. -/
def condHolds : VCond → ∀ n, BitVec n → BitVec n → Bool
  | .eq, _, x, y => x == y
  | .ne, _, x, y => x != y
  | .lt, _, x, y => x.slt y
  | .le, _, x, y => x.sle y
  | .ltu, _, x, y => x.ult y
  | .leu, _, x, y => x.ule y
  | .un, _, _, _ => false
def condFloat (f : FFormat) (c : VCond) (x y : Nat) : Bool :=
  fCmp f (match c with | .eq => .eq | .ne => .ne | .lt => .lt | .ltu => .lt | .le => .le | .leu => .le | .un => .un) x y

/-- R105: bit i of the mask, from the condition on each element of lane i. -/
def laneHolds (w : Nat) (any : Bool) (c : Nat → Bool) (i : Nat) : Bool :=
  if w = 64 then c (i / 2) else if w = 32 then c i
  else
    let own := (List.range (32 / w)).map (fun j => c (i * (32 / w) + j));
    if any then own.any id else own.all id

/-- R114: the inputs, in order. -/
def inputsOf (K : Word) (w : Nat) (v : Vec) : List (Option Nat) :=
  (List.range (2048 / w)).map (fun e => if governs K (2048 / w) e then some (elemAt w e v).toNat else none)

/-- R114: width, float format if any, and fallback of a VRED or VSCAN. -/
def ropShape (w : Width) (bf fl : Bool) (o : ROp) : Nat × Option FFormat × Bool :=
  if fl then ((floatShape w bf).1, some (floatShape w bf).2.1, (floatShape w bf).2.2 || [ROp.and, .or, .xor].contains o)
  else (w.nbits, none, bf)

/-- Levels of the tree: log2 N. -/
def treeDepth (w : Nat) : Nat := Nat.log2 (2048 / w)

/-- R114: the integer operations and their identities (R115). -/
def intRop (o : ROp) (w : Nat) : BitVec w → BitVec w → BitVec w :=
  match o with
  | .add => fun x y => x + y
  | .min => fun x y => if x.sle y then x else y
  | .max => fun x y => if x.sle y then y else x
  | .and => fun x y => x &&& y
  | .or => fun x y => x ||| y
  | .xor => fun x y => x ^^^ y
def intIdentity (o : ROp) (w : Nat) : BitVec w :=
  match o with
  | .add => 0
  | .min => BitVec.allOnes w >>> 1
  | .max => BitVec.twoPow w (w - 1)
  | .and => BitVec.allOnes w
  | .or => 0
  | .xor => 0

/-- The enabled elements below n, in order. -/
def enabledBelow (K : Word) (w n : Nat) (v : Vec) : List (BitVec w) :=
  ((List.range n).filter (fun e => governs K (2048 / w) e)).map (fun e => elemAt w e v)

/-- The address of a scratchpad vector form as an exact number (R120): base plus 256 times the offset, widened by HIMM. -/
def vlocalAddr (s : State) (rs : List Reg) (o : BitVec 6) : Int :=
  (s.src rs 0).toNat + (match s.hints.himm with | none => o.toInt | some p => (p ++ o).toInt) * 256

/-- The effect of a vector load into a port whose vector v is on its way (R120, R28). -/
def vloadEffect (s : State) (d : Reg) (v : Vec) : Effect :=
  { vresv := [(d, s.nextId)], ids := 1,
    body := fun T => { T with fills := T.fills ++ [{ id := s.nextId, front := s.focus.2, dest := .vport (d.toNat - 28), val := v }] },
    posts := [.localLoadFill s.focus.1 s.nextId] }

/-! ### Global accesses (R247 to R257) -/

/-- The rounding that a word samples: a draw only where it can round (R44, R45). -/
def sampledIf (s : State) (draws : Bool) : Rnd := if draws then sampled s else { mode := s.rmode.toNat, seed := 0, i := 0 }

/-- The address of a LD, ST, VLD or VST (R247): base plus the offset, widened by HIMM, times the size, modulo 2^64. -/
def globalAddr (s : State) (rs : List Reg) (o : BitVec 6) (n : Nat) : Word :=
  s.src rs 0 + (match s.hints.himm with | none => o.signExtend 64 | some p => (p ++ o).signExtend 64) * BitVec.ofNat 64 n

/-- R56, R65: the scope at which an access is performed; a rectangle falls back to the die. -/
def performedAt : Scope → Nat
  | .tile => 0
  | .cluster => 1
  | .rect => 3
  | .die => 3
  | .module => 4
  | .pod => 5

/-- How an access sets out (R248, R215): to its home with the kind `g`, or for an address in the tile window to the peer
that it names, with the kind `w` and the scope of the peer (R210). -/
def sentTo (s : State) (x : Nat) (g : TxnKind) (w : Nat → Nat → TxnKind) (places cls scope : Nat) (tval : Word) (dest : Dest) : Txn × Instr :=
  if x / 2 ^ 48 = 0xFF then
    (sentTxn s (w (peerNo s s.focus.1 (windowMember x)) (x % 2 ^ 28)) places cls (if (windowMember x).g then 3 else 1) tval dest,
     .peerAccessArrival s.nextId)
  else (sentTxn s g places cls scope tval dest, .globalRequest s.nextId)

/-- The effect of an access that sets out; `f` sets the fields that the word's options give. -/
def sentEffect (p : Txn × Instr) (f : Txn → Txn) : Effect := { ids := 1, txns := [f p.1], posts := [p.2] }

/-- Lines of 128 bytes that 256 bytes from x touch: the places that a vector access takes (R7, R250). -/
def vectorPlaces (x : Nat) : Nat := (x + 255) / 128 - x / 128 + 1

/-- The word at this address may set out: no cause of R247 or R215, no FENCE before it that holds it, and its places free. -/
def MaySend (s : State) (x n align cls places : Nat) : Prop :=
  globalCause s x n align = none ∧ fenced s s.focus.1 cls = false ∧ placesFree s s.focus.1 places = true

/-- The draw of an atomic (R252) and its size, FADD always on 32 bits (R65). -/
def amoWidth (o : AmoOp) (z : Bool) : Nat := if z && o != .fadd then 8 else 4

/-- A RED may be gathered at its tile (R227; log 19). -/
def MayGather (s : State) (x cls : Nat) (p : Scope) (rel : Bool) (n : Nat) (b : Nat) (o : AmoOp) : Prop :=
  x / 2 ^ 48 ≠ 0xFF ∧ rel = false ∧ 2 ≤ performedAt p ∧ isHbmLoc s s.cur.ctx.toNat x = true ∧ s.cur.gather.length < 512 ∧
    Txn.mustWait s (sentTxn s (.amo x n o b false) 1 cls (performedAt p) 0 .none) = false ∧
    ∀ g ∈ s.cur.gather, ¬ (g.ctx = s.cur.ctx.toNat ∧ g.line = x / 128 * 128)

/-! ### The steps of a global access (R217, R227, R243 to R246, R248) -/

/-- No tile holds a gathered line: nothing has to be recalled first (R227). -/
def NoGather (s : State) : Prop := ∀ p ∈ s.tiles, p.2.gather = []

/-- The access is at its home's turn: it is pending, its strand is not frozen, and nothing before it is ordered before it
(R235). -/
structure AtHome (s : State) (id : Nat) (x : Txn) : Prop where
  found  : s.txn? id = some x
  here   : x.resp = .pending
  awake  : (s.tile x.tile).frozen = false
  turn   : x.mustWait s = false
  noRel  : x.rel = false
  quiet  : NoGather s

/-- A line of the cache that serves the n bytes from va at once: present, whole, on a die that runs, not pinned, not poisoned,
outside the lehr's range. -/
structure Serves (s : State) (ctx va n : Nat) (l : Line) : Prop where
  line   : s.line? ctx (va / 128 * 128) = some l
  inLine : va % 128 + n ≤ 128
  whole  : l.data.length = 128
  up     : s.dieDown (homeSlice s va / 64) = false
  clean  : l.poison = false
  unpinned : s.pin? ctx (va / 128 * 128) = none
  noLehr : s.lehr.st = .idle

/-- n bytes of a line, as a number. -/
def lineNat (l : Line) (va n : Nat) : Nat := leNat ((l.data.drop (va % 128)).take n)

/-- The transaction has been answered; memory and every tile are as before. -/
structure Answered (s t : State) (id : Nat) (r : Resp) : Prop where
  txns  : t.txns = s.txns.map (fun y => if y.id = id then { y with resp := r } else y)
  posted : ∃ l, t.agenda = s.agenda ++ l ++ [.globalResponse id] ∧ ∀ e ∈ l, ∃ v k, e = .counterWrap v k
  pmem  : t.pmem = s.pmem
  tiles : t.tiles = s.tiles

/-- What a response gives its destination: sub-word loads extended, other values as they are (R249). -/
def loadedValue (k : TxnKind) (v : Vec) : Vec :=
  match k with
  | .ld _ n sx => if sx then ((v.setWidth (8 * n)).signExtend 64).setWidth 2048 else (v.setWidth 64).setWidth 2048
  | .ldx _ _ n sx => if sx then ((v.setWidth (8 * n)).signExtend 64).setWidth 2048 else (v.setWidth 64).setWidth 2048
  | _ => v

/-- The transaction has left its place. -/
def Retired (s t : State) (id : Nat) : Prop := t.txns = s.txns.filter (fun y => y.id != id)

/-! ### The claim table (R258 to R266) -/

/-- The name of a CLAIM (R258): its digest in a and a + 1, its function and version in b, and the strand's context. -/
def claimNameOf (s : State) (rs : List Reg) : ClaimName :=
  { dg := (s.src rs 1).toNat * 2 ^ 64 + (s.src rs 0).toNat, fid := bits (s.src rs 2) 15 0, ver := bits (s.src rs 2) 31 16,
    ctx := s.cur.ctx.toNat }

/-- The set of a name. -/
def claimSet (s : State) (n : ClaimName) : List Nat := setKeys (claimHome s n).1 (claimHome s n).2

/-- A status word that names entry k with a code (R261). -/
def namesEntry (w : Word) (code : Nat) : Prop := bits w 31 30 = 0 ∧ bits w 3 0 = code

/-- Only entry k of the claim table may differ. -/
def OnlyClaim (s t : State) (k : Nat) : Prop := ∀ j, j ≠ k → t.claim j = s.claim j

/-- The form of a claim word other than CLAIM. -/
def claimForm (i : Instr) (d : Reg) (rs : List Reg) : Form := { instr := i, onX := false, rs := rs, ws := [d], hpri := true }

/-! ### Messages between strands (R197 to R210) -/

/-- The peer that a member word names (R197), and its scope (R210). -/
def peerOf (s : State) (w : Word) : Nat := peerNo s s.focus.1 (memberOf w.toNat)
def peerScope (w : Word) : Nat := if w.getLsbD 23 then 3 else 1

/-- The channel that a WAITCH takes (R203): eligible, of highest priority, the lowest number among those. -/
def TakesChannel (T : Tile) (c : Nat) : Prop :=
  c < 16 ∧ (T.chan c).eligible = true ∧ ∀ k, k < 16 → (T.chan k).eligible = true →
    (T.chan k).cpri < (T.chan c).cpri ∨ ((T.chan k).cpri = (T.chan c).cpri ∧ c ≤ k)

/-- A message that leaves its strand in turn: pending, its strand awake, and every earlier access performed (R198, R202). -/
structure InTurn (s : State) (id : Nat) (x : Txn) : Prop where
  found : s.txn? id = some x
  here  : x.resp = .pending
  awake : (s.tile x.tile).frozen = false
  ready : canReleaseAt s x.tile id = true

/-- The message has been answered. -/
structure Replied (s t : State) (id : Nat) (r : Resp) : Prop where
  txns : t.txns = s.txns.map (fun y => if y.id = id then { y with resp := r } else y)
  agenda : t.agenda = s.agenda ++ [.globalResponse id]

/-- The pipe's end of a strand in a direction (R167, R206). -/
def pipeEndOf (s : State) (n dir : Nat) : Option OpDesc := (strandRec s s.focus.1).bind (fun r => r.pipeEnd n dir)

/-! ### The matrix unit (R124 to R149) -/

/-- A matrix word joins the tile's command queue with a serial number; its byte ranges enter the scoreboard (R124, R149). -/
def queued (s : State) (ranges : List (Nat × Nat)) (writes : Bool) (c : MCmd) : Effect :=
  { ids := 1, body := fun T => { (if ranges.isEmpty then T else T.sbEnter s.nextId ranges writes) with mq := T.mq ++ [c] } }

/-- The form of a matrix word of the X-front. -/
def matrixForm (i : Instr) (unit : Bool) (rs : List Reg) : Form := { instr := i, onA := false, unit := unit, rs := rs }

/-- The operation of an MMA word with what it samples at issue (R134): in SR a draw, always for MMA.ARM, for MMA only outside
integer mode. -/
def mmaDraws (a b : BitVec 4) (arm : Bool) : Bool := arm || !(decide (8 ≤ a.toNat) && decide (8 ≤ b.toNat))
def mmaSampled (s : State) (op : MmaOp) (draws : Bool) : MmaOp :=
  { op with mode := BitVec.ofNat 3 (sampledIf s draws).mode, seed := (sampledIf s draws).seed }

/-- The units of a tile move: its strand runs, awake. -/
def Moves (s : State) (t : Nat) : Prop := (s.tile t).phase = .running ∧ (s.tile t).frozen = false

/-- Only tile t may differ, and of it the given view and the fronts' waits. -/
def OnlyTile (s s' : State) (t : Nat) : Prop := s' = { s with tiles := s'.tiles } ∧ ∀ u, u ≠ t → s'.tile u = s.tile u

/-- Element i of a packed run of w-bit elements that starts at a scratchpad address (R39). -/
def packedAt (T : Tile) (w addr i : Nat) : Nat := memNat T.spad addr (w * (i + 1) / 8 + 1) / 2 ^ (w * i) % 2 ^ w

/-- The dot product of row m of A and column n of B over K (R132, R133), integers, dense operands. -/
def dotInt (T : Tile) (op : MmaOp) (k m n : Nat) : Int :=
  ((List.range k).map (fun i =>
    (ckind op.fa).intVal (packedAt T (ckind op.fa).width ((T.ring op.ringA).base + (T.ring op.ringA).head * (T.ring op.ringA).slot) (m * k + i)) *
    (ckind op.fb).intVal (packedAt T (ckind op.fb).width ((T.ring op.ringB).base + (T.ring op.ringB).head * (T.ring op.ringB).slot)
      (if op.tb then n * k + i else i * (shapeOf op.shape).2 + n)))).sum

/-! ### Engine commands, barrier objects, marver slots (R268 to R277, R286 to R298) -/

/-- Fields of a barrier object (R270). -/
def barExpect (o : BitVec 128) : Nat := (o.extractLsb' 16 16).toNat
def barArrived (o : BitVec 128) : Nat := (o.extractLsb' 0 16).toNat
def barPend (o : BitVec 128) : Int := (o.extractLsb' 90 30).toInt
def barErr (o : BitVec 128) : BitVec 8 := o.extractLsb' 120 8
def barPhase (o : BitVec 128) : Bool := o.getLsbD 32

/-- R271: a barrier object after an update that adds `dp` to its pending count, `da` arrivals and error bits, where nothing
overflows: it flips when the arrivals reach the expected count with nothing pending. -/
structure BarUpdated (o o' : BitVec 128) (dp : Int) (da : Nat) (err : BitVec 8) : Prop where
  expect : barExpect o' = barExpect o
  pend   : barPend o' = barPend o + dp
  errs   : barErr o' = barErr o ||| err
  flips  : barArrived o + da = barExpect o → barPend o + dp = 0 → barArrived o' = 0 ∧ barPhase o' = !barPhase o
  stays  : ¬ (barArrived o + da = barExpect o ∧ barPend o + dp = 0) → barArrived o' = barArrived o + da ∧ barPhase o' = barPhase o

/-- The update does not overflow the object. -/
def BarFits (o : BitVec 128) (dp : Int) (da : Nat) : Prop :=
  barArrived o + da ≤ barExpect o ∧ -(2 ^ 29) ≤ barPend o + dp ∧ barPend o + dp < 2 ^ 29

/-- The instruction of a copy kind. -/
def copyInstr (kind : Nat) (a b : Reg) : Instr := if kind = 0 then .copy a b else if kind = 1 then .copyc a b else .mcast a b

/-- The operation that a copy word starts (R268): class, scope, and the rounding it samples. -/
def copyTxn (s : State) (D : BitVec 512) (k : TxnKind) : Txn :=
  { sentTxn s k 0 (bits D 435 433) (if bits D 432 430 = 2 then 3 else bits D 432 430) 0 .none with
    mode := BitVec.ofNat 3 (sampledIf s true).mode, seed := (sampledIf s true).seed }

/-- The form of an engine word of the A-front. -/
def engineForm (i : Instr) (rs ws : List Reg) (hpri : Bool) : Form := { instr := i, onX := false, rs := rs, ws := ws, hpri := hpri }

/-- A plain copy of n elements of m bytes between two runs of the scratchpad that do not overlap (R287, R289). -/
def LocalRun (D : BitVec 512) (src dst n m : Nat) : Prop :=
  cdLocal D false = true ∧ cdLocal D true = true ∧ bits D 429 428 = 0 ∧ bits D 143 128 = n ∧ m = 2 ^ bits D 427 426 ∧
    cdStride D false 0 = m ∧ cdStride D true 0 = m ∧ bits D 55 0 = src ∧ bits D 119 64 = dst ∧ (src + n * m ≤ dst ∨ dst + n * m ≤ src)

/-! ### Fibre units (R278 to R285, R299 to R304) -/

/-- The image that FCFG reads: 34 entries of 16 bytes. -/
def fibreImage (T : Tile) (x : Nat) : List (BitVec 128) := (List.range 34).map (fun u => BitVec.ofNat 128 (memNat T.spad (x + 16 * u) 16))

/-- The form of a fibre word. -/
def fibreForm (s : State) (i : Instr) (rs ws : List Reg) (hpri : Bool) : Form :=
  { instr := i, onX := false, unit := fibreHere s, rs := rs, ws := ws, hpri := hpri }

/-- The fibre units of a tile after a run starts (R301). -/
def runStarted (s : State) (F : Fibre) (bar : Nat) : Fibre :=
  { F with
    st := .running, units := (List.range 34).map (fun u => unitStart (fEntry F.cfg u)), bar := bar,
    mode := BitVec.ofNat 3 (sampledIf s true).mode, seed := (sampledIf s true).seed, opId := s.nextId, sb := s.nextId, ipc := s.pc,
    trunc := false, fault := 0, funit := 0, ftok := 0 }

/-- Unit u of a kind is in use and has not finished, and the ports it feeds have room for these items. -/
structure UnitReady (T : Tile) (u : Nat) (k : FKind) (o0 o1 : List Item) : Prop where
  kind  : fKind u = k
  inUse : FEntry.en (fEntry T.fibre.cfg u) = true
  going : (T.fibre.unit u).fin = false
  room0 : T.fibre.room (2 * u) o0 = true
  room1 : T.fibre.room (2 * u + 1) o1 = true

/-- The head of an input of a unit. -/
def headOf (T : Tile) (u i : Nat) : Head :=
  (if i = 0 then (T.fibre.unit u).in0 else (T.fibre.unit u).in1).head (inLevel T.fibre.cfg u i)

/-! ### Tasks and graphs (R155 to R201) -/

/-- The part after a release at die scope or wider: the strand's pinned lines are unpinned (R245). -/
def State.promoted (s : State) : State := { s with pins := s.pins.filter (fun p => p.owner != s.focus.1) }

/-- The form of a graph word. -/
def graphForm (i : Instr) (rs : List Reg) (d : Reg) : Form := { instr := i, onX := false, rs := rs, ws := [d], hpri := true }

/-- The result word of INST (R198). -/
def instWord (err : Nat) (spl : Bool) (inst : Nat) : Word := BitVec.ofNat 64 (err * 2 ^ 24 + (if spl then 2 ^ 16 else 0) + inst)

/-- The state in which an INST hands its packet to its die's dispatcher: it has released, and its result is on the way. -/
def instSent (s : State) (fm : Form) (d : Reg) : State :=
  { (s.begun fm).promoted.setTile s.focus.1 ((s.begun fm).cur.reserveS s.focus.2 d s.nextId).2 with
    nextId := s.nextId + 1, txns := s.txns ++ [sentTxn s .reply 0 0 5 0 (destOf d)] }

/-- A record is at an end: free, done or cancelled. -/
def RecSt.over (r : RecSt) : Bool := r == .free || r == .done || r == .cancelled

/-- Every record that an instance still has on a die is at an end. -/
def InstOver (t : State) (d inst : Nat) : Prop := ∀ k r, t.rec? d inst k = some r → r.st.over = true

/-- Every record of the graphs that a condition names is at an end. -/
def AllOver (s t : State) (p : Graph → Bool) : Prop := ∀ d, ∀ g ∈ (s.die d).graphs, p g = true → InstOver t d g.inst

/-- A cancel that has taken effect wrote 0, when the issuing strand was not in the unit. -/
def CancelDone (t : State) (f : Front) (d : Reg) : Prop :=
  t.cur.phase = .running → 0 < d.toNat → d.toNat < 24 → (t.cur.front f).reg d.toNat = 0

/-- A DECR that waits for a status has it (R200). -/
def StatusGiven (s t : State) (m : Decr) (st : Nat) : Prop :=
  match m.reply with
  | none => t.txns = s.txns
  | some id => t.txns = s.txns.map (fun y => if y.id = id then { y with resp := .data (BitVec.ofNat 2048 st) } else y) ∧
      .globalResponse id ∈ t.agenda

/-- A decrement of a record's successor entry e (R160). -/
def succDecr (r : Rec) (e : Nat) : Decr := { ctx := r.ctx, inst := r.inst, tidx := e % 2 ^ 11, reply := none }

/-- Both fronts of the strand on a tile have ended and all that it issued has completed (R31, R155). -/
def AllDone (s : State) (u : Nat) : Prop := finished s u = true

/-- A front at a task's start (R26, R165). -/
structure FrontStarted (F : FrontState) (ent : Nat) (r : Rec) (seed : Word) : Prop where
  pc   : F.pc = BitVec.ofNat 16 (ent * 64)
  arg0 : F.reg 1 = r.arg0
  arg1 : F.reg 2 = r.arg1
  zero : ∀ k, 2 < k → k < 24 → F.reg k = 0
  sgen : F.sgen = seed
  mode : F.rmode = 0
  going : F.ended = false ∧ F.inEret = false ∧ F.hints = {} ∧ F.pend = []

/-- A transfer has brought its bytes to its tile and left the queue; its token counted, the last one making the record
runnable (R190, R192). -/
structure TransferLanded (s t : State) (d : Nat) (r : Rec) (x : Xfer) (bs : List Byte) : Prop where
  code : x.what = .code → t.tile (r.place.getD x.rank 0) =
    { s.tile (r.place.getD x.rank 0) with code := memPut (s.tile (r.place.getD x.rank 0)).code (xferRange r x).2.2 bs }
  data : x.what ≠ .code → t.tile (r.place.getD x.rank 0) =
    { s.tile (r.place.getD x.rank 0) with spad := memPut (s.tile (r.place.getD x.rank 0)).spad (xferRange r x).2.2 bs }
  left : (t.die d).xfers.map (·.id) = ((s.die d).xfers.map (·.id)).filter (· != x.id)
  record : t.rec? d x.inst x.tidx = some (if r.opend ≤ 1 then { r with opend := 0, st := .runnable } else { r with opend := r.opend - 1 })
  last : r.opend ≤ 1 → t.agenda = s.agenda ++ [.strandStart d x.inst x.tidx]

/-- Rectangle q of a die is a candidate (R186): inside the die's 16 by 10 tiles, exactly n members of the kind, all free, its
edges each with a member, its pages allowed. -/
def Candidate (d kind n : Nat) (free page : Nat → Bool) (q : Rect) : Prop :=
  0 < q.w ∧ 0 < q.h ∧ q.x0 + q.w ≤ 16 ∧ q.y0 + q.h ≤ 10 ∧ q.fits d kind n free page = true

/-! ### Two dies, tenants, faults (R317 to R334, R350 to R360) -/

/-- The fields of a message between the dispatchers (R350). -/
structure IsMsg (m : BitVec 128) (kind err ctx die inst : Nat) : Prop where
  kind : (m.extractLsb' 124 4).toNat = kind
  err  : (m.extractLsb' 116 8).toNat = err
  ctx  : (m.extractLsb' 54 10).toNat = ctx
  die  : (m.extractLsb' 42 1).toNat = die
  inst : (m.extractLsb' 26 16).toNat = inst

/-- The message m has been posted by a kind of step, and nothing else. -/
def Posted (s t : State) (f : BitVec 128 → Instr) (kind err ctx die inst : Nat) : Prop :=
  ∃ m, IsMsg m kind err ctx die inst ∧ t.agenda = s.agenda ++ [f m]

/-- The INST whose result waited for a gate has it (R351). -/
def GateReplied (s t : State) (g : Graph) (w : Word) : Prop :=
  match g.reply with
  | none => t.txns = s.txns
  | some id => t.txns = s.txns.map (fun y => if y.id = id then { y with resp := .data (w.setWidth 2048) } else y)

/-- A task abort that counts (R313, R315): below three aborts the record is queued again, then it is parked; its strands are
gone. -/
def AbortCounted (t : State) (d : Nat) (r : Rec) : Prop :=
  (∃ q, t.rec? d r.inst r.tidx = some q ∧ q.aborts = r.aborts + 1 ∧ q.place = [] ∧ q.left = 0 ∧ q.opend = 0 ∧
    q.st = (if r.aborts + 1 < 3 then .fetching else .parked)) ∧ ∀ u ∈ r.place, (t.tile u).phase = .idle

/-- The reads of a proxy pair's indices (R359), in their order, and what they leave. -/
structure RingsRead (s u : State) (P : Proxy) (wi fwd ri : Nat) : Prop where
  reads : ∃ s1 s2, ringWord s P.ctx P.sva = (s1, some wi) ∧ ringWord s1 P.ctx (P.sva + 16) = (s2, some fwd) ∧
    ringWord s2 P.ctx (P.tva + 8) = (u, some ri)

/-! ### The pod, starting, the lehr (R361 to R367, R373 to R380) -/

/-- Everything of the part is as after a wipe (R375, R376): no strand, no line, no graph, only memory outside the part, and the
start stands on the agenda. -/
structure Restarted (s t : State) : Prop where
  tiles  : t.tiles = []
  pmem   : t.pmem = s.pmem.filter (fun c => decide (0x4000000000000 ≤ c.1))
  caches : t.llc = [] ∧ t.tlb = [] ∧ t.pins = [] ∧ t.txns = [] ∧ t.claims = [] ∧ t.ctxs = [] ∧ t.vfs = [] ∧ t.mslots = [] ∧ t.jacks = []
  dies   : t.die0 = Die.reset ∧ t.die1 = Die.reset
  lehr   : t.lehr = Lehr.reset
  cyc    : t.cyc = 0
  agenda : t.agenda = [.powerGood (.ready none)]
  down   : t.mg.ready = false ∧ t.mg.min = false ∧ t.mg.d1up = false ∧ t.mg.stage = 1

/-- The flash (R373, R379): attempts, cause and unit. -/
def Flash (t : State) (att cause unit : Nat) : Prop := t.mg.att = att ∧ t.mg.cause = cause ∧ t.mg.unit = unit

/-- The two operands of an adder stand at the head of two inbound channels, both of the graph's epoch (R361). -/
structure AdderFed (J : Jack) (c : Nat) (m : JackImage) (k x y o : Nat) (a b : JTok) : Prop where
  graph : J.graph = some (c, m)
  solo  : adderReady J (!J.epoch) k = false
  op    : JackImage.op m k ≠ 0
  count : JackImage.count m k ≠ 0
  in0   : JackImage.in0 m k = x
  in1   : JackImage.in1 m k = y
  out   : JackImage.out m k = o
  chans : x < 4 ∧ y < 4 ∧ o < 4 ∧ x ≠ y
  left  : (Jack.queue J.inq x).head? = some a ∧ a.epoch = J.epoch
  right : (Jack.queue J.inq y).head? = some b ∧ b.epoch = J.epoch

/-- The state in which a window write of the host is carried out (R179). -/
def writeSeen (s : State) (r : HostReq) (d off : Nat) : State :=
  let w := winAt d off
  let top := w.2 + w.1.bytes ≤ off + 8
  { s with
    bus := { die := d, idx := w.1.number, off := off, n := 8,
             val := BitVec.ofNat 512 (if top then assembled (s.die d) w.2 w.1.bytes (r.data % 2 ^ 64) else r.data % 2 ^ 64) },
    hostRead := 0, hostErr := false }

/-! ### The host's registers (R174 to R182, R323, R331, R359, R379) -/

/-- How a record-control operation ended (R180): 2 done, 3 refused. -/
def RccEnded (t : State) (d st : Nat) : Prop := bits (t.die d).rcc 127 126 = st

/-- How a context command ended (R182). -/
def CxcEnded (t : State) (st : Nat) : Prop := bits t.cxc 63 62 = st

/-- The record that the record-control register names (R180). -/
def rccRec (s : State) : Option Rec :=
  (s.rec? (s.bus.die % 2) (bits s.bus.val 29 14) (bits s.bus.val 40 30)).filter (fun r => r.ctx == bits s.bus.val 13 4)

/-- A parked record is queued again (R315). -/
def Requeued (s t : State) (r : Rec) (aborts : Nat) : Prop :=
  ∃ q, t.rec? (s.bus.die % 2) r.inst r.tidx = some q ∧ q.st = .fetching ∧ q.place = [] ∧ q.opend = 0 ∧ q.left = 0 ∧ q.aborts = aborts

/-- The context that a command names (R182), and its phase. -/
def cmdCtx (s : State) : Nat := bits s.bus.val 19 10
def cmdPhase (s : State) : Nat := bits s.bus.val 27 20

/-! ### The machine as a whole (R22, R52, R54, R60, R64, R216, R375) -/

/-- A word written out by its major opcode and its fields, each with its lowest bit (R54). -/
def wordBits (major : Nat) (fs : List (Nat × Nat)) : Nat := major * 2 ^ 26 + (fs.map (fun f => f.1 * 2 ^ f.2)).sum

end Sys2Proof.Machine

open Sys2Proof Sys2Proof.Machine

/-- R81, R80, R17, R26: each of ADD, SUB, AND, OR, XOR, ANDN, SLL, SRL, SRA, SLT, SLTU, MIN, MAX, MINU, MAXU, where it may
issue, completes: the result of its row goes to d, and nothing changes but what `Executed` names. -/
def Obligations.AluWordsComplete : Prop :=
  ∀ p ∈ aluTable, ∀ d a b w, Completes (p.1 d a b w) { instr := p.1 d a b w, rs := [a, b], ws := [d] }
    (fun s => { dst := [(d, p.2 w.nbits (lowA s [a, b] w) (lowB s [a, b] w))] })

/-- R82, R49: MUL, MULH, MULHU, DIV, DIVU, REM and REMU complete, by zero and at the most negative dividend too. -/
def Obligations.MultiplyDivideWordsComplete : Prop :=
  ∀ p ∈ mulTable, ∀ d a b w, Completes (p.1 d a b w) { instr := p.1 d a b w, rs := [a, b], ws := [d] }
    (fun s => { dst := [(d, p.2 w.nbits (lowA s [a, b] w) (lowB s [a, b] w))] })

/-- R83: CLZ, FFS, POPC, BREV, BEXT, BINS and SEXT complete. BINS reads d as its third source. -/
def Obligations.BitWordsComplete : Prop :=
  (∀ p ∈ bitTable, ∀ d a w, Completes (p.1 d a w) { instr := p.1 d a w, rs := [a], ws := [d] }
    (fun s => { dst := [(d, p.2 w.nbits (lowA s [a] w))] })) ∧
  (∀ d a b w, Completes (.bext d a b w) { instr := .bext d a b w, rs := [a, b], ws := [d] }
    (fun s => { dst := [(d,
      ((lowA s [a, b] w &&& fieldMask w.nbits (fieldPos (s.src [a, b] 1)) (fieldLength (s.src [a, b] 1))) >>>
        fieldPos (s.src [a, b] 1)).setWidth 64)] })) ∧
  (∀ d a b w, Completes (.bins d a b w) { instr := .bins d a b w, rs := [a, b, d], ws := [d] }
    (fun s =>
      let m := fieldMask w.nbits (fieldPos (s.src [a, b, d] 1)) (fieldLength (s.src [a, b, d] 1))
      { dst := [(d, (((s.src [a, b, d] 2).setWidth w.nbits &&& ~~~m) |||
          ((lowA s [a, b, d] w <<< fieldPos (s.src [a, b, d] 1)) &&& m)).signExtend 64)] })) ∧
  (∀ d a b w, Completes (.sext d a b w) { instr := .sext d a b w, rs := [a, b], ws := [d] }
    (fun s => { dst := [(d, (((lowA s [a, b] w).setWidth (fieldPos (s.src [a, b] 1) % w.nbits + 1)).signExtend w.nbits).signExtend 64)] }))

/-- R84, R58: ADDI, ANDI, ORI, XORI, SLTI and SETHI complete, with a bound HIMM and without. -/
def Obligations.ImmediateWordsComplete : Prop :=
  ∀ p ∈ immTable, ∀ d a i, Completes (p.1 d a i) { instr := p.1 d a i, rs := [a], ws := [d], himm := true }
    (fun s => { dst := [(d, p.2 s (s.src [a] 0) i)] })

/-- R85, R86: SLLI, SRLI, SRAI and SEL complete; SEL reads all three of its sources. -/
def Obligations.ShiftAndSelectWordsComplete : Prop :=
  (∀ p ∈ shiftTable, ∀ d a n, Completes (p.1 d a n) { instr := p.1 d a n, rs := [a], ws := [d] }
    (fun s => { dst := [(d, p.2 (s.src [a] 0) n.toNat)] })) ∧
  (∀ d a b c, Completes (.sel d a b c) { instr := .sel d a b c, rs := [a, b, c], ws := [d] }
    (fun s => { dst := [(d, if s.src [a, b, c] 2 ≠ 0 then s.src [a, b, c] 0 else s.src [a, b, c] 1)] }))

/-- R87 to R89: FADD, FSUB, FMUL and FFMA complete with one rounding of the exact result, and one draw in SR; FMIN, FMAX and
FCMP complete and take no draw; the result stands in the low bits with zeros above. -/
def Obligations.FloatWordsComplete : Prop :=
  (∀ p ∈ roundTable, ∀ d a b f, Completes (p.1 d a b f) { instr := p.1 d a b f, rs := [a, b], ws := [d] }
    (fun s => { dst := [(d, BitVec.ofNat 64 (p.2 (fmtOf f) (sampled s) (codeOf s [a, b] f 0) (codeOf s [a, b] f 1)))], draws := true })) ∧
  (∀ d a b c f, Completes (.ffma d a b c f) { instr := .ffma d a b c f, rs := [a, b, c], ws := [d] }
    (fun s => { dst := [(d, BitVec.ofNat 64 (fFma (fmtOf f) (sampled s) (codeOf s [a, b, c] f 0) (codeOf s [a, b, c] f 1)
        (codeOf s [a, b, c] f 2)))], draws := true })) ∧
  (∀ p ∈ chooseTable, ∀ d a b f, Completes (p.1 d a b f) { instr := p.1 d a b f, rs := [a, b], ws := [d] }
    (fun s => { dst := [(d, BitVec.ofNat 64 (p.2 (fmtOf f) (codeOf s [a, b] f 0) (codeOf s [a, b] f 1)))] })) ∧
  (∀ p ∈ compareTable, ∀ d a b f, Completes (p.1 d a b f) { instr := p.1 d a b f, rs := [a, b], ws := [d] }
    (fun s => { dst := [(d, if fCmp (fmtOf f) p.2 (codeOf s [a, b] f 0) (codeOf s [a, b] f 1) then 1 else 0)] }))

/-- R88: FCMP compares the numbers that the codes stand for, +0 equal to −0; with a NaN only NE and UN hold; FMIN and FMAX
give an operand that is a bound of both, and the other operand when exactly one is a NaN. -/
def Obligations.FloatComparisonsAreByValue : Prop :=
  ∀ f ∈ floatFormats, ∀ a b, a < 2 ^ f.width → b < 2 ^ f.width →
    (∀ x y, f.num a = some x → f.num b = some y →
      (fCmp f .eq a b = decide (x = y)) ∧ (fCmp f .ne a b = decide (x ≠ y)) ∧ (fCmp f .lt a b = decide (x < y)) ∧
      (fCmp f .le a b = decide (x ≤ y)) ∧ fCmp f .un a b = false ∧
      (f.num (fMin f a b) = some (min x y)) ∧ (f.num (fMax f a b) = some (max x y))) ∧
    ((f.decode a).isNan = true ∨ (f.decode b).isNan = true →
      fCmp f .eq a b = false ∧ fCmp f .ne a b = true ∧ fCmp f .lt a b = false ∧ fCmp f .le a b = false ∧ fCmp f .un a b = true) ∧
    ((f.decode a).isNan = true → (f.decode b).isNan = false → fMin f a b = b ∧ fMax f a b = b) ∧
    ((f.decode a).isNan = false → (f.decode b).isNan = true → fMin f a b = a ∧ fMax f a b = a)

/-- R42: a finite exact value no larger than the format's largest number is rounded once to a number of the format with no
other number of the format between them: towards zero in RTZ, upwards in RUP, downwards in RDN; in RNE and RNA no number of
the format is nearer, a tie going to the even code in RNE and away from zero in RNA. -/
def Obligations.RoundingIsCorrect : Prop :=
  ∀ f ∈ floatFormats, ∀ (r : Rnd) (sat : Bool) (s : Bool) (n d : Nat) (e : Int) (x m : ℚ), 0 < d →
    (FVal.fin s n d e).toRat = some x → f.num (f.largest false) = some m → |x| ≤ m →
    ∃ y, f.num (f.round r sat (.fin s n d e)) = some y ∧ f.round r sat (.fin s n d e) < 2 ^ f.width ∧
      (∀ c z, f.num c = some z → ¬ (x < z ∧ z < y) ∧ ¬ (y < z ∧ z < x)) ∧
      (r.mode = 1 → |y| ≤ |x|) ∧ (r.mode = 2 → x ≤ y) ∧ (r.mode = 3 → y ≤ x) ∧
      (r.mode = 0 ∨ r.mode = 4 → ∀ c z, f.num c = some z → |x - y| ≤ |x - z|) ∧
      (r.mode = 0 → ∀ c z, f.num c = some z → z ≠ y → |x - z| = |x - y| → f.round r sat (.fin s n d e) % 2 = 0) ∧
      (r.mode = 4 → ∀ c z, f.num c = some z → z ≠ y → |x - z| = |x - y| → |z| < |y|)

/-- R90, R43: FCVT completes: the source's element is converted under the named rule and placed by the target's kind; it
draws in SR just where the conversion can round, and it raises the conversion's sticky bits. -/
def Obligations.ConvertWordCompletes : Prop :=
  ∀ d a t u sat, Completes (.fcvt d a t u sat) { instr := .fcvt d a t u sat, rs := [a], ws := [d] }
    (fun s =>
      let r := if convRounds (ckind t.toNat) (ckind u.toNat) then sampled s else { mode := s.rmode.toNat, seed := 0, i := 0 }
      let v := convert (ckind t.toNat) (ckind u.toNat) r sat (s.src [a] 0).toNat
      { dst := [(d, placeConv (ckind t.toNat) v.1)], draws := convRounds (ckind t.toNat) (ckind u.toNat), warns := v.2 })

/-- R91 to R93, R31: BR continues at its address plus four times its offset when its condition holds, and at the next word when it does
not; with AL its register fields are not read; NOP changes nothing; END stops its front. JAL links into s23 and continues at its
offset. JALR links into d and continues at its exact target when that is a word of the code store; else it takes the jump-target
trap with the target as tval. -/
def Obligations.ControlWordsComplete : Prop :=
  ((∀ a b c o, Completes (.br a b c o) { instr := .br a b c o, rs := if c = .al then [] else [a, b], himm := true }
     (fun s => { front := fun F =>
       if branchHolds c (s.src [a, b] 0) (s.src [a, b] 1) then { F with pc := s.pc + 4 * branchOffset s o } else F })) ∧
   Completes .nop { instr := .nop } (fun _ => {}) ∧
   Completes .endStrand { instr := .endStrand } (fun s => { front := fun F => { F with ended := true, endPc := s.pc } })) ∧
  ((∀ o, Completes (.jal o) { instr := .jal o, ws := [23], himm := true }
     (fun s => { dst := [(23, (s.pc + 4).setWidth 64)], front := fun F => { F with pc := s.pc + 4 * o.setWidth 16 } })) ∧
   (∀ d a i s, Ready s { instr := .jalr d a i, rs := [a], ws := [d], himm := true } →
     (0 ≤ jalrTarget s a i → jalrTarget s a i < 65536 → jalrTarget s a i % 4 = 0 →
       ∃ t, exec (.jalr d a i) s = .next t ∧ Executed s t { instr := .jalr d a i, rs := [a], ws := [d], himm := true }
         { dst := [(d, (s.pc + 4).setWidth 64)], front := fun F => { F with pc := BitVec.ofInt 16 (jalrTarget s a i) } }) ∧
     (jalrTarget s a i < 0 ∨ 65536 ≤ jalrTarget s a i ∨ jalrTarget s a i % 4 ≠ 0 →
       exec (.jalr d a i) s = .next (preciseTrap s 0x06 (BitVec.ofInt 64 (jalrTarget s a i))))))

/-- R57 to R59: HIMM, HMOD and HPRI join the hints pending for the next word of their front; a kind already pending is
replaced and sets warn.hint; the group's first address is kept. -/
def Obligations.HintWordsComplete : Prop :=
  ∀ s,
    (∀ p, Ready s { instr := .himm p } → ∃ t, exec (.himm p) s = .next t ∧
      HintTaken s t { s.hints with himm := some p } s.hints.himm.isSome) ∧
    (∀ p, Ready s { instr := .hmod p } → ∃ t, exec (.hmod p) s = .next t ∧
      HintTaken s t { s.hints with hmod := some p } s.hints.hmod.isSome) ∧
    (∀ p, Ready s { instr := .hpri p } → ∃ t, exec (.hpri p) s = .next t ∧
      HintTaken s t { s.hints with hpri := some p } s.hints.hpri.isSome)

/-- R94, R23, R28: an LDS within the local space and aligned reads its bytes, little-endian, from scratchpad or code store;
the extended value sets out for d; no byte of memory changes. Out of range or misaligned it traps with the address. -/
def Obligations.LocalLoadCompletes : Prop :=
  ∀ d b z o s,
    let fm : Form := { instr := .lds d b z o, rs := [b], ws := [d], himm := true, hpri := true }
    let n := loadBytes z
    let x := localAddr s [b] o n
    Ready s fm →
    (0 ≤ x → x + n ≤ 0x110000 → x % n = 0 → s.localHeld s.focus.2 x.toNat n false = false →
      ∃ t, exec (.lds d b z o) s = .next t ∧ Executed s t fm (loadEffect s d (loadedWord z (s.cur.localNat x.toNat n))) ∧
        t.cur.spad = s.cur.spad ∧ t.cur.code = s.cur.code) ∧
    (x < 0 ∨ 0x110000 < x + n → exec (.lds d b z o) s = .next (preciseTrap s 0x07 (BitVec.ofInt 64 x))) ∧
    (0 ≤ x → x + n ≤ 0x110000 → x % n ≠ 0 → exec (.lds d b z o) s = .next (preciseTrap s 0x08 (BitVec.ofInt 64 x)))

/-- R94: an STS within the scratchpad and aligned writes the low bytes of its data at its address; every other byte of
memory keeps its value. Out of range or misaligned it traps with the address. -/
def Obligations.LocalStoreCompletes : Prop :=
  ∀ d b w o s,
    let fm : Form := { instr := .sts d b w o, rs := [b, d], himm := true, hpri := true }
    let n := w.nbytes
    let x := localAddr s [b, d] o n
    Ready s fm →
    (0 ≤ x → x + n ≤ 0x100000 → x % n = 0 → s.localHeld s.focus.2 x.toNat n true = false →
      ∃ t, exec (.sts d b w o) s = .next t ∧
        Executed s t fm { body := fun T => { T with spad := memPutNat T.spad x.toNat n (s.src [b, d] 1).toNat } } ∧
        (Memory.wf s.cur.spad = true → memNat t.cur.spad x.toNat n = (s.src [b, d] 1).toNat % 2 ^ w.nbits) ∧
        ∀ a, a < x.toNat ∨ x.toNat + n ≤ a → memGet t.cur.spad a = memGet s.cur.spad a) ∧
    (x < 0 ∨ 0x100000 < x + n → exec (.sts d b w o) s = .next (preciseTrap s 0x07 (BitVec.ofInt 64 x))) ∧
    (0 ≤ x → x + n ≤ 0x100000 → x % n ≠ 0 → exec (.sts d b w o) s = .next (preciseTrap s 0x08 (BitVec.ofInt 64 x)))

/-- R23, R28: the arrival of a loaded value writes its register and ends the interlock, or fills the slot reserved for it;
no memory, and no other tile, changes. -/
def Obligations.LoadedValueArrives : Prop :=
  ∀ t id x s, (s.tile t).fills.find? (fun y => y.id == id) = some x → (s.tile t).phase ≠ .idle →
    ∃ s', exec (.localLoadFill t id) s = .next s' ∧
      (∀ r, x.dest = .sreg r → 0 < r → r < 24 → ((s'.tile t).front x.front).reg r = x.val.setWidth 64 ∧
        ((s'.tile t).front x.front).pend = ((s.tile t).front x.front).pend.filter (fun p => p.2 != id)) ∧
      (∀ q, x.dest = .sport q → q < 8 →
        (s'.tile t).sport q = ((s.tile t).sport q).map (fun e => if e = .pending id then .filled (x.val.setWidth 64) else e)) ∧
      (∀ q, x.dest = .vport q → q < 4 →
        (s'.tile t).vport q = ((s.tile t).vport q).map (fun e => if e = .pending id then .filled x.val else e)) ∧
      (s'.tile t).fills = (s.tile t).fills.filter (fun y => y.id != id) ∧
      (s'.tile t).spad = (s.tile t).spad ∧ (s'.tile t).code = (s.tile t).code ∧ s' = { s with tiles := s'.tiles } ∧
      ∀ u, u ≠ t → s'.tile u = s.tile u

/-- R96, R97: QSTAT, from either front, writes the counts of the named port as they stand and whether the front that pushes it has ended; it
pops nothing. QDRAIN from the front that pops the port, with no slot of it pending, discards what the port holds and writes how
many entries that was; from the other front it takes the queue-direction trap. -/
def Obligations.QueuePortsComplete : Prop :=
  ((∀ d a, Completes (.qstat d a 3) { instr := .qstat d a 3, ws := [d] } (fun s =>
     let l := s.cur.sport (a.toNat - 24)
     { dst := [(d, statWord (s.cur.front (if a.toNat < 28 then .a else .x)).ended (16 - l.length) (pendingIn l) (filledIn l))] })) ∧
   (∀ d a, Completes (.qstat d a 2) { instr := .qstat d a 2, ws := [d] } (fun s =>
     let l := s.cur.vport (a.toNat - 28)
     { dst := [(d, statWord (s.cur.front (if a.toNat < 30 then .a else .x)).ended (8 - l.length) (pendingIn l) (filledIn l))] }))) ∧
  (∀ d a s, 24 ≤ a.toNat →
     let pops : Front := if a.toNat < 28 then .x else .a
     let fm : Form := { instr := .qdrain d a 3, ws := [d] }
     (s.focus.2 = pops → Ready s fm → pendingIn (s.cur.sport (a.toNat - 24)) = 0 →
       ∃ t, exec (.qdrain d a 3) s = .next t ∧ t.cur.sport (a.toNat - 24) = [] ∧ Quiet s t {} ∧
         (0 < d.toNat → d.toNat < 24 → (t.cur.front s.focus.2).reg d.toNat = BitVec.ofNat 64 (filledIn (s.cur.sport (a.toNat - 24)))) ∧
         (∀ r, r ≠ d.toNat → (t.cur.front s.focus.2).reg r = (s.cur.front s.focus.2).reg r) ∧
         (∀ q, q ≠ a.toNat - 24 → q + 24 ≠ d.toNat → t.cur.sport q = s.cur.sport q) ∧
         t.cur = { s.cur with fa := t.cur.fa, fx := t.cur.fx, sq := t.cur.sq, warn := t.cur.warn }) ∧
     (s.focus.2 ≠ pops → s.cur.runs s.focus.2 = true → fm.gate s.cur s.focus.1 s.focus.2 = none →
       exec (.qdrain d a 3) s = .next (preciseTrap s 0x04 (wordVal (.qdrain d a 3))))) ∧
  (∀ d a s, 28 ≤ a.toNat →
     let pops : Front := if a.toNat < 30 then .x else .a
     let fm : Form := { instr := .qdrain d a 2, ws := [d] }
     (s.focus.2 = pops → Ready s fm → pendingIn (s.cur.vport (a.toNat - 28)) = 0 →
       ∃ t, exec (.qdrain d a 2) s = .next t ∧ t.cur.vport (a.toNat - 28) = [] ∧ Quiet s t {} ∧
         (0 < d.toNat → d.toNat < 24 → (t.cur.front s.focus.2).reg d.toNat = BitVec.ofNat 64 (filledIn (s.cur.vport (a.toNat - 28)))) ∧
         (∀ r, r ≠ d.toNat → (t.cur.front s.focus.2).reg r = (s.cur.front s.focus.2).reg r) ∧
         (∀ q, q ≠ a.toNat - 28 → t.cur.vport q = s.cur.vport q) ∧ (∀ q, q + 24 ≠ d.toNat → t.cur.sport q = s.cur.sport q) ∧
         t.cur = { s.cur with fa := t.cur.fa, fx := t.cur.fx, sq := t.cur.sq, vq := t.cur.vq, warn := t.cur.warn }) ∧
     (s.focus.2 ≠ pops → s.cur.runs s.focus.2 = true → fm.gate s.cur s.focus.1 s.focus.2 = none →
       exec (.qdrain d a 2) s = .next (preciseTrap s 0x04 (wordVal (.qdrain d a 2)))))

/-- R308 to R310: a precise trap at user level with a handler enabled saves where both fronts resume, the cause and the value, raises slv
and sends both fronts to the handler entries; at service level it aborts the task with kind 0x43, without a handler with kind 0x44.
The error response of an access issued at user level is held while the strand is at service level, else taken as an identified
trap, class 1; one of an access issued at service level is a nested trap. -/
def Obligations.TrapsAreTaken : Prop :=
  (∀ (s : State) (code : BitVec 8) (val : Word),
     (s.cur.phase ≠ .idle → s.cur.slv = false → s.cur.tvec.getLsbD 32 = true →
       HandlerEntered s (preciseTrap s code.toNat val) s.focus.1 code 0 s.focus.2 s.pc val) ∧
     (s.cur.slv = true → preciseTrap s code.toNat val =
       taskAbort s s.focus.1 0x43 0 (causeWord s.pc 0 s.focus.2 code).toNat) ∧
     (s.cur.slv = false → s.cur.tvec.getLsbD 32 = false → preciseTrap s code.toNat val = taskAbort s s.focus.1 0x44 0 code.toNat)) ∧
  (∀ (s : State) (u : Nat) (code : BitVec 8) (f : Front) (ipc : Pc) (val : Word), (s.tile u).phase ≠ .idle →
     ((s.tile u).slv = false → (s.tile u).tvec.getLsbD 32 = true → ∀ user,
       HandlerEntered s (identifiedTrap s u code.toNat f ipc user val) u code 1 f ipc val) ∧
     ((s.tile u).slv = true → (identifiedTrap s u code.toNat f ipc true val).tile u =
       { s.tile u with held := (s.tile u).held ++ [{ cause := code.toNat, front := f, ipc := ipc, val := val }] }) ∧
     ((s.tile u).slv = true → identifiedTrap s u code.toNat f ipc false val = taskAbort s u 0x43 0 (causeWord ipc 1 f code).toNat))

/-- R64, R337: a word that is no instruction takes the unassigned-encoding trap with the word as tval; TRAP n takes the
software trap with n as tval. -/
def Obligations.TrapWordsTrap : Prop :=
  (∀ w s, s.cur.runs s.focus.2 = true → exec (.unassignedEncoding w) s = .next (preciseTrap s 0x01 (w.setWidth 64))) ∧
  (∀ n s, Ready s { instr := .trap n } → exec (.trap n) s = .next (preciseTrap s 0x10 (n.setWidth 64)))

/-- R25, R64, R335, R338: a word issued on a front that R25 does not allow takes the wrong-front trap with the word as tval, where the tile has
the unit that the word names (R20); a word that needs service level, issued at user level, takes the privilege trap and has no
effect. -/
def Obligations.FrontAndPrivilegeTraps : Prop :=
  (∀ i s, i.isWord = true → i.wf = true → s.cur.runs s.focus.2 = true → isJack s.focus.1 = false →
     (encodeWord i / 2 ^ 26 = 0x39 → isF s.focus.1 = true) →
     ([0x30, 0x31, 0x32].contains (encodeWord i / 2 ^ 26) = true → isF s.focus.1 = false) →
     frontAllows (encodeWord i) s.focus.2 = false →
     exec i s = .next (preciseTrap s 0x02 (BitVec.ofNat 64 (encodeWord i)))) ∧
  (∀ i s, i.wf = true → serviceWord i = true → s.cur.runs s.focus.2 = true → isJack s.focus.1 = false → s.cur.slv = false →
     frontAllows (encodeWord i) s.focus.2 = true → exec i s = .next (preciseTrap s 0x03 (BitVec.ofNat 64 (encodeWord i))))

/-- R28, R32: a word whose scalar source is an empty port of its front does not issue: nothing but the note of what its front
waits on changes. -/
def Obligations.EmptyPortBlocks : Prop :=
  ∀ p ∈ aluTable, ∀ d a b w s, s.cur.runs s.focus.2 = true → isJack s.focus.1 = false →
    srcSOk s.focus.2 a = true → srcSOk s.focus.2 b = true → dstSOk s.focus.2 d = true → (s.cur.front s.focus.2).pend = [] →
    24 ≤ a.toNat → s.cur.sport (a.toNat - 24) = [] → (∀ q, (s.cur.sport q).all (fun e => !e.isPending) = true) →
    ∃ l, (a.toNat - 16) ∈ l ∧ exec (p.1 d a b w) s = .next (holdFront s (.ports l))

/-- R337, R310: the first front's ERET waits; with the second's, slv falls, both fronts resume at the saved addresses and the
oldest held response is taken. -/
def Obligations.EretReturns : Prop :=
  ∀ s, Ready s { instr := .eret, svc := true } →
    ((s.cur.front s.focus.2.other).inEret = false → ∃ t, exec .eret s = .next t ∧
      (t.cur.front s.focus.2).inEret = true ∧ t.cur.front s.focus.2.other = { s.cur.front s.focus.2.other with wait := .none } ∧
      t.cur = { s.cur with fa := t.cur.fa, fx := t.cur.fx, warn := t.cur.warn } ∧ Quiet s t {}) ∧
    ((s.cur.front s.focus.2.other).inEret = true → s.cur.held = [] → ∃ t, exec .eret s = .next t ∧
      t.cur = { s.cur with slv := false, fa := t.cur.fa, fx := t.cur.fx, warn := t.cur.warn } ∧
      t.cur.fa = frontAt s.cur.fa s.cur.epca ∧ t.cur.fx = frontAt s.cur.fx s.cur.epcx ∧ Quiet s t {}) ∧
    (∀ h r, (s.cur.front s.focus.2.other).inEret = true → s.cur.held = h :: r → h.cause < 256 → s.cur.tvec.getLsbD 32 = true →
      ∃ t, exec .eret s = .next t ∧ t.cur.slv = true ∧ t.cur.held = r ∧ t.cur.epca = s.cur.epca ∧ t.cur.epcx = s.cur.epcx ∧
        t.cur.tcause = causeWord h.ipc 1 h.front (BitVec.ofNat 8 h.cause) ∧ t.cur.tval = h.val)

/-- R338: CSRR writes the register, as it stood when the word issued, into d; nothing else changes. -/
def Obligations.CsrReadCompletes : Prop :=
  ∀ p ∈ csrTable, ∀ d, Completes (.csrr d (BitVec.ofNat 12 p.1)) { instr := .csrr d (BitVec.ofNat 12 p.1), ws := [d] }
    (fun s => { dst := [(d, p.2 s)] })

/-- R338, R339, R44, R308, R169: CSRW sets the register, CSRX in addition gives d the old value; no other register, and no
memory, changes. -/
def Obligations.CsrWritesComplete : Prop :=
  ∀ (c : BitVec 12) (s : State), csrListed c = true → csrReadOnly c = false → Sparse.wfFrom Vf.reset 0 s.vfs = true →
    (∀ a, let fm : Form := { instr := .csrw a c, svc := csrSWrite c, rs := [a] };
      Ready s fm → ∃ t, exec (.csrw a c) s = .next t ∧
        CsrWritten s t c.toNat (s.src [a] 0) (warnOf warnHint (fm.hintIgnored s.hints))) ∧
    (∀ d a, let fm : Form := { instr := .csrx d a c, svc := csrSWrite c, rs := [a], ws := [d] };
      Ready s fm → ∃ t, exec (.csrx d a c) s = .next t ∧
        CsrWritten s t c.toNat (s.src [a] 0) (warnOf warnHint (fm.hintIgnored s.hints)) ∧
        (0 < d.toNat → d.toNat < 24 → (t.cur.front s.focus.2).reg d.toNat = csrGet s s.focus.1 s.focus.2 c.toNat))

/-- R340, R330: FREEZE answers 1 where the VF has no slice length or no other VF of its group has work, else 0, when one end
of the slice is under way. -/
def Obligations.FreezeCompletes : Prop :=
  ∀ d, Completes (.freeze d) { instr := .freeze d, onX := false, ws := [d] } (fun s =>
    let none' := (s.vf s.cur.vf).slen == 0 || (nextVf s s.cur.vf).isNone
    { dst := [(d, if none' then 1 else 0)],
      posts := if none' || s.agenda.contains (.sliceEnd s.cur.vf) then [] else [.sliceEnd s.cur.vf] })

/-- R341, R346: SCRUB of an aligned range sets out as a write of class 0 at scope 4, with d reserved for its status; out of
range or misaligned it traps. PERFSEL selects the event of one counter of the VF and keeps the counts. -/
def Obligations.ScrubAndPerfselComplete : Prop :=
  (∀ d a u n s,
    let fm : Form := { instr := .scrub d a u n, onX := false, rs := [a], ws := [d] };
    let x := s.src [a] 0;
    Ready s fm →
    (x.toNat < 2 ^ 56 → x.toNat % unitBytes u = 0 → fenced s s.focus.1 0 = false →
      ∃ t, exec (.scrub d a u n) s = .next t ∧ Executed s t fm
        { resv := [(d, s.nextId)], ids := 1, posts := [.globalRequest s.nextId],
          txns := [sentTxn s (.scrub x.toNat (unitBytes u * (n.toNat + 1))) 0 0 4 x (destOf d)] }) ∧
    (2 ^ 56 ≤ x.toNat → exec (.scrub d a u n) s = .next (preciseTrap s 0x09 x)) ∧
    (x.toNat < 2 ^ 56 → x.toNat % unitBytes u ≠ 0 → exec (.scrub d a u n) s = .next (preciseTrap s 0x0A x))) ∧
  (∀ a n s, Ready s { instr := .perfsel a n, onX := false, rs := [a] } → Sparse.wfFrom Vf.reset 0 s.vfs = true →
    ∃ t, exec (.perfsel a n) s = .next t ∧ (t.vf s.cur.vf).event n.toNat = (s.src [a] 0).toNat % 64 ∧
      (∀ k, k < 4 → k ≠ n.toNat → (t.vf s.cur.vf).event k = (s.vf s.cur.vf).event k) ∧
      t = { s with tiles := t.tiles, vfs := t.vfs, agenda := t.agenda } ∧ t.pmem = s.pmem ∧ t.cur.spad = s.cur.spad)

/-- R335: INVPG, WAYSET, LEHR and JCFG in a context without the sys bit issue, change nothing and return status 1. -/
def Obligations.CapabilityIsNeeded : Prop :=
  ∀ d a s, hasSys s = false →
    (∀ u n, let fm : Form := { instr := .invpg d a u n, onX := false, svc := true, rs := [a], ws := [d] };
      Ready s fm → ∃ t, exec (.invpg d a u n) s = .next t ∧ Executed s t fm { dst := [(d, 1)] }) ∧
    (let fm : Form := { instr := .waysetCw d a, onX := false, svc := true, rs := [a], ws := [d] };
      Ready s fm → ∃ t, exec (.waysetCw d a) s = .next t ∧ Executed s t fm { dst := [(d, 1)] }) ∧
    (let fm : Form := { instr := .waysetShare d a, onX := false, svc := true, rs := [a], ws := [d] };
      Ready s fm → ∃ t, exec (.waysetShare d a) s = .next t ∧ Executed s t fm { dst := [(d, 1)] }) ∧
    (let fm : Form := { instr := .lehrArm d a, onX := false, svc := true, rs := [a], ws := [d] };
      Ready s fm → ∃ t, exec (.lehrArm d a) s = .next t ∧ Executed s t fm { dst := [(d, 1)] }) ∧
    (let fm : Form := { instr := .lehrStat d, onX := false, svc := true, ws := [d] };
      Ready s fm → ∃ t, exec (.lehrStat d) s = .next t ∧ Executed s t fm { dst := [(d, 1)] }) ∧
    (let fm : Form := { instr := .lehrDisarm d, onX := false, svc := true, ws := [d] };
      Ready s fm → ∃ t, exec (.lehrDisarm d) s = .next t ∧ Executed s t fm { dst := [(d, 1)] }) ∧
    (∀ p : BitVec 5, p.toNat ≤ 16 → let fm : Form := { instr := .jcfg d a p, onX := false, svc := true, rs := [a], ws := [d] };
      Ready s fm → ∃ t, exec (.jcfg d a p) s = .next t ∧ Executed s t fm { dst := [(d, 1)] })

/-- R342, R343, R344, R345 with the sys bit and operands that their entries accept: INVPG drops the range's translations and
lines and answers 0; WAYSET.cw and WAYSET.share set the carve-out count and the way share and answer 0; LEHR.arm arms the
engine with every block dirty, LEHR.stat answers its epoch and state, LEHR.disarm makes an armed engine idle; JCFG holds the
image until its cycle. -/
def Obligations.CapableWordsComplete : Prop :=
  ∀ d a s, hasSys s = true →
    (∀ u n, let fm : Form := { instr := .invpg d a u n, onX := false, svc := true, rs := [a], ws := [d] };
      let w := s.src [a] 0;
      Ready s fm → bits w 63 56 = 0 → bits w 15 10 = 0 → bits w 55 16 * 2 ^ 16 % unitBytes u = 0 →
      (s.ctx (bits w 9 0)).live = true → (s.ctx (bits w 9 0)).vf = s.cur.vf →
      exec (.invpg d a u n) s = .next (s.counted (withStatus s
        (invalidate (s.begun fm) (bits w 9 0) (bits w 55 16 * 2 ^ 16) (unitBytes u * (n.toNat + 1))) d 0))) ∧
    (let fm : Form := { instr := .waysetCw d a, onX := false, svc := true, rs := [a], ws := [d] };
      let w := s.src [a] 0;
      Ready s fm → bits w 63 9 = 0 → bits w 7 4 = 0 → bits w 3 0 ≤ 8 →
      (∀ v, v < 32 → areaFits (s.vf v).part (bits w 8 8) (bits w 3 0) = true) →
      otherOwns s s.cur.vf (carveMask (bits w 3 0) - carveMask (s.die (bits w 8 8)).cw) = false →
      ∃ t, exec (.waysetCw d a) s = .next t ∧ (t.die (bits w 8 8)).cw = bits w 3 0 ∧
        t = s.counted (withStatus s (setCarve (s.begun fm) (bits w 8 8) (bits w 3 0)) d 0)) ∧
    (let fm : Form := { instr := .waysetShare d a, onX := false, svc := true, rs := [a], ws := [d] };
      let w := s.src [a] 0;
      Ready s fm → bits w 63 21 = 0 → otherOwns s (bits w 20 16) (bits w 15 0) = false →
      bits w 15 0 &&& carveMask (max s.die0.cw s.die1.cw) = 0 →
      exec (.waysetShare d a) s = .next (s.counted (withStatus s (setShare (s.begun fm) (bits w 20 16) (bits w 15 0)) d 0))) ∧
    (let fm : Form := { instr := .lehrArm d a, onX := false, svc := true, rs := [a], ws := [d] };
      let x := (s.src [a] 0).toNat;
      let D := BitVec.ofNat 512 (memNat s.cur.spad x 64);
      Ready s fm → spadCause x 64 64 = none → s.cur.sbClash [(x, 64)] false = false → s.lehr.st ≠ .armed → s.lehr.st ≠ .opened →
      lehrBad D s.cur.ctx.toNat = false →
      exec (.lehrArm d a) s = .next (s.counted (withStatus s { s.begun fm with lehr :=
        { s.lehr with desc := D, st := .armed, dirty := List.range (bits D 343 320), todo := [], count := 0, due := false } } d 0))) ∧
    (Completes (.lehrStat d) { instr := .lehrStat d, onX := false, svc := true, ws := [d] } (fun s => { dst := [(d,
      if hasSys s then (s.lehr.epoch ++ BitVec.ofNat 32 s.lehr.st.code : BitVec 64) else 1)] })) ∧
    (let fm : Form := { instr := .lehrDisarm d, onX := false, svc := true, ws := [d] };
      Ready s fm → (s.lehr.st = .armed → exec (.lehrDisarm d) s = .next (s.counted (withStatus s { s.begun fm with lehr :=
        { s.lehr with st := .idle, due := false } } d 0))) ∧
      (s.lehr.st = .idle ∨ s.lehr.st = .stopped → ∃ t, exec (.lehrDisarm d) s = .next t ∧ Executed s t fm { dst := [(d, 2)] })) ∧
    (∀ p : BitVec 5, p.toNat ≤ 16 → let fm : Form := { instr := .jcfg d a p, onX := false, svc := true, rs := [a], ws := [d] };
      let x := (s.src [a] 0).toNat;
      let m := BitVec.ofNat 8192 (memNat s.cur.spad x 1024);
      Ready s fm → spadCause x 1024 64 = none → s.cur.sbClash [(x, 1024)] false = false →
      (s.jack p.toNat).pend = none → JackImage.bad m s.cyc.toNat = false →
      exec (.jcfg d a p) s = .next (s.counted (withStatus s ((s.begun fm).setJack p.toNat
        { s.jack p.toNat with pend := some (s.cur.ctx.toNat, m) }) d 0)))

/-- R103, R101, R99: VADD, VSUB, VMUL, VMULH, VMIN, VMAX, VAND, VOR, VXOR, VSLL, VSRL, VSRA, VABS, VNEG, VCLZ, VFFS and
VPOPC, where they may issue, complete: each enabled element of the destination holds its row's result, a disabled one its
value before, or zero in a port. -/
def Obligations.VectorIntegerWordsComplete : Prop :=
  (∀ p ∈ vec2Table, ∀ d a b k w, CompletesV (p.1 d a b k w)
    { instr := p.1 d a b k w, onA := false, rv := [a, b], wv := [d], hmod := if p.2.1 then 1 else 0 }
    (fun _ => w.nbits) (fun _ => 2048 / w.nbits) d k
    (fun s e => p.2.2 (s.hints.modBit 0) w.nbits (s.velem [a, b] 0 w.nbits e) (s.velem [a, b] 1 w.nbits e)) false (fun _ => 0)) ∧
  (∀ p ∈ vec1Table, ∀ d a k w, CompletesV (p.1 d a k w) { instr := p.1 d a k w, onA := false, rv := [a], wv := [d] }
    (fun _ => w.nbits) (fun _ => 2048 / w.nbits) d k (fun s e => p.2 w.nbits (s.velem [a] 0 w.nbits e)) false (fun _ => 0))

/-- R104, R101, R65: VADD, VSUB, VMUL, VMIN, VMAX, VABS, VNEG, VFMA and VFMS on floats complete: each enabled element is
rounded once with its own number of the word's one draw; at a width or bf that has no format the word is performed on FP32
and sets warn.vfb. R111: VSCL scales by powers of two. R117: the special functions round their reference value. -/
def Obligations.VectorFloatWordsComplete : Prop :=
  (∀ p ∈ vecF2Table, ∀ d a b k w f, let h := floatShape w f; CompletesV (p.1 d a b k w f)
    { instr := p.1 d a b k w f, onA := false, rv := [a, b], wv := [d] } (fun _ => h.1) (fun _ => 2048 / h.1) d k
    (fun s e => BitVec.ofNat h.1 (p.2.2 h.2.1 (sampledAt s e) (s.velem [a, b] 0 h.1 e).toNat (s.velem [a, b] 1 h.1 e).toNat))
    p.2.1 (fun _ => warnOf 7 h.2.2)) ∧
  (∀ p ∈ vecF1Table, ∀ d a k w f, let h := floatShape w f; CompletesV (p.1 d a k w f)
    { instr := p.1 d a k w f, onA := false, rv := [a], wv := [d] } (fun _ => h.1) (fun _ => 2048 / h.1) d k
    (fun s e => BitVec.ofNat h.1 (p.2 h.2.1 (s.velem [a] 0 h.1 e).toNat)) false (fun _ => warnOf 7 h.2.2)) ∧
  (∀ p ∈ vecF3Table, ∀ d a b k w f, let h := floatShape w f; CompletesV (p.1 d a b k w f)
    { instr := p.1 d a b k w f, onA := false, rv := [a, b, d], wv := [d] } (fun _ => h.1) (fun _ => 2048 / h.1) d k
    (fun s e => BitVec.ofNat h.1 (p.2 h.2.1 (sampledAt s e) (s.velem [a, b, d] 0 h.1 e).toNat (s.velem [a, b, d] 1 h.1 e).toNat
      (elemAt h.1 e (s.prior d)).toNat)) true (fun _ => warnOf 7 h.2.2)) ∧
  (∀ d a b k w, CompletesV (.vscl d a b k w) { instr := .vscl d a b k w, onA := false, rv := [a, b], wv := [d], hmod := 1 }
    (fun s => (floatShape w (s.hints.modBit 0)).1) (fun s => 2048 / (floatShape w (s.hints.modBit 0)).1) d k
    (fun s e => let h := floatShape w (s.hints.modBit 0);
      BitVec.ofNat h.1 (fScale h.2.1 (sampledAt s e) (s.velem [a, b] 0 h.1 e).toNat (s.velem [a, b] 1 h.1 e).toInt))
    true (fun s => warnOf 7 (floatShape w (s.hints.modBit 0)).2.2)) ∧
  (∀ p ∈ specialTable, ∀ d a k w, CompletesV (p.1 d a k w) { instr := p.1 d a k w, onA := false, rv := [a], wv := [d] }
    (fun _ => 32) (fun _ => 64) d k
    (fun s e => BitVec.ofNat 32 (fmtFP32.round (sampledAt s e) false (p.2 (fmtFP32.decode (s.velem [a] 0 32 e).toNat))))
    true (fun _ => warnOf 7 (w != .w32)))

/-- R105, R106 to R110, R112, R113, R119: VCMP, VSEL, VBCAST, VIOTA, VPERM, VEXTR, VCVT, KAND, KOR, KNOT and KPOPC complete. -/
def Obligations.VectorMoveAndMaskWordsComplete : Prop :=
  (∀ kd a b m w bf fl c s,
    let fm : Form := { instr := .vcmp kd a b m w bf fl c, onA := false, rv := [a, b], hmod := 1 };
    let h := floatShape w bf;
    let n := if fl then h.1 else w.nbits;
    let holds := fun e => if fl then condFloat h.2.1 c (s.velem [a, b] 0 n e).toNat (s.velem [a, b] 1 n e).toNat
      else condHolds c n (s.velem [a, b] 0 n e) (s.velem [a, b] 1 n e);
    Ready s fm → ∃ K t, (∀ i, i < 64 → K.getLsbD i = ((s.mask m).getLsbD i && laneHolds n (s.hints.modBit 0) holds i)) ∧
      exec (.vcmp kd a b m w bf fl c) s = .next t ∧
      Executed s t fm {
        body := fun T => T.setKreg kd.toNat K,
        warns := warnOf 7 (if fl then h.2.2 || c == .ltu || c == .leu else bf || c == .un) }) ∧
  (∀ d a b k w s, let fm : Form := { instr := .vsel d a b k w, onA := false, rv := [a, b], wv := [d] };
    Ready s fm → ∃ V t, (∀ e, e < 2048 / w.nbits → elemAt w.nbits e V =
        if governs (s.mask k) (2048 / w.nbits) e then s.velem [a, b] 0 w.nbits e else s.velem [a, b] 1 w.nbits e) ∧
      exec (.vsel d a b k w) s = .next t ∧ Executed s t fm { vdst := [(d, V)] }) ∧
  (∀ d a k w, CompletesV (.vbcast d a k w) { instr := .vbcast d a k w, onA := false, rs := [a], wv := [d] }
    (fun _ => w.nbits) (fun _ => 2048 / w.nbits) d k (fun s _ => (s.src [a] 0).setWidth w.nbits) false (fun _ => 0)) ∧
  (∀ d k w, CompletesV (.viota d k w) { instr := .viota d k w, onA := false, wv := [d] }
    (fun _ => w.nbits) (fun _ => 2048 / w.nbits) d k (fun _ e => BitVec.ofNat w.nbits e) false (fun _ => 0)) ∧
  (∀ d a b k w, CompletesV (.vperm d a b k w) { instr := .vperm d a b k w, onA := false, rv := [a, b], wv := [d] }
    (fun _ => w.nbits) (fun _ => 2048 / w.nbits) d k
    (fun s e => s.velem [a, b] 0 w.nbits ((s.velem [a, b] 1 w.nbits e).toNat % (2048 / w.nbits))) false (fun _ => 0)) ∧
  (∀ d a b w, Completes (.vextr d a b w) { instr := .vextr d a b w, onA := false, rv := [a], rs := [b], ws := [d], hmod := 1 }
    (fun s => let x := s.velem [a] 0 w.nbits ((s.src [b] 0).toNat % (2048 / w.nbits));
      { dst := [(d, if s.hints.modBit 0 then x.signExtend 64 else x.setWidth 64)] })) ∧
  (∀ (d a : Reg) (t u : BitVec 5) (sat : Bool) (k : KReg) (s : State), Instr.wf (.vcvt d a t u sat k) = true →
    let fm : Form := { instr := .vcvt d a t u sat k, onA := false, rv := [a], wv := [d] };
    let code := fun (c : BitVec 5) => if c = 18 then 16 else if c = 19 then 17 else c.toNat;
    let tk := ckind (code t);
    let sk := ckind (code u);
    let n := 2048 / max (max sk.width tk.width) 8;
    let draws := convRounds tk sk;
    let res := fun e => convert tk sk (if draws then sampledAt s e else { mode := s.rmode.toNat, seed := 0, i := e }) sat
      (s.velem [a] 0 sk.width e).toNat;
    Ready s fm → ∃ V t', Masked V (s.mask k) tk.width n d (s.prior d) (fun e => BitVec.ofNat tk.width (res e).1) ∧
      exec (.vcvt d a t u sat k) s = .next t' ∧
      Executed s t' fm {
        vdst := [(d, V)], draws := draws,
        warns := ((List.range n).foldl (fun w e => w ||| (if governs (s.mask k) n e then (res e).2 else (res e).2 &&& 1)) 0) |||
          warnOf 7 (t == 18 || t == 19 || u == 18 || u == 19) }) ∧
  (∀ d a b, Completes (.kand d a b) { instr := .kand d a b, onA := false }
    (fun s => { body := fun T => T.setKreg d.toNat (s.mask a &&& s.mask b) })) ∧
  (∀ d a b, Completes (.kor d a b) { instr := .kor d a b, onA := false }
    (fun s => { body := fun T => T.setKreg d.toNat (s.mask a ||| s.mask b) })) ∧
  (∀ d a, Completes (.knot d a) { instr := .knot d a, onA := false }
    (fun s => { body := fun T => T.setKreg d.toNat (~~~ s.mask a) })) ∧
  (∀ d a, Completes (.kpopc d a) { instr := .kpopc d a, onA := false, ws := [d] }
    (fun s => { dst := [(d, BitVec.ofNat 64 ((List.range 64).filter (fun i => (s.mask a).getLsbD i)).length)] }))

/-- R114 to R116: VRED and VSCAN complete, by the tree and by the doubling steps over the inputs that the mask enables, with one
draw where float ADD steps round. On integers VRED leaves in element 0 the combination of all enabled elements, or the identity of
its operation when none is enabled, and zero above; each enabled element of a VSCAN combines the enabled elements up to it. -/
def Obligations.ReductionsAndScansComplete : Prop :=
  (∀ d a k w bf fl o s, let fm : Form := { instr := .vred d a k w bf fl o, onA := false, rv := [a], wv := [d] };
    let h := ropShape w bf fl o;
    Ready s fm → ∃ t, exec (.vred d a k w bf fl o) s = .next t ∧
      Executed s t fm { draws := fl && o == .add, warns := warnOf 7 h.2.2, vdst := [(d, BitVec.ofNat 2048
        ((treeReduce (ropElem h.2.1 o h.1) (if fl && o == .add then sampled s else { mode := s.rmode.toNat, seed := 0, i := 0 })
          (treeDepth h.1) 0 (inputsOf (s.mask k) h.1 (s.vsrc [a] 0))).getD
            (match h.2.1, o with
              | some f, .min => f.overflowCode false
              | some f, .max => f.overflowCode true
              | _, _ => (intIdentity o h.1).toNat)))] }) ∧
  (∀ d a k w bf fl o s, let fm : Form := { instr := .vscan d a k w bf fl o, onA := false, rv := [a], wv := [d] };
    let h := ropShape w bf fl o;
    Ready s fm → ∃ V t, Masked V (s.mask k) h.1 (2048 / h.1) d (s.prior d) (fun e => BitVec.ofNat h.1
        (((scanAll (ropElem h.2.1 o h.1) (if fl && o == .add then sampled s else { mode := s.rmode.toNat, seed := 0, i := 0 })
          (treeDepth h.1) 0 1 (inputsOf (s.mask k) h.1 (s.vsrc [a] 0))).getD e none).getD 0)) ∧
      exec (.vscan d a k w bf fl o) s = .next t ∧
      Executed s t fm { draws := fl && o == .add, warns := warnOf 7 h.2.2, vdst := [(d, V)] }) ∧
  (∀ d a k w bf o s,
    (let fm : Form := { instr := .vred d a k w bf false o, onA := false, rv := [a], wv := [d] };
     Ready s fm → ∃ t, exec (.vred d a k w bf false o) s = .next t ∧ Executed s t fm { warns := warnOf 7 bf, vdst := [(d,
       ((enabledBelow (s.mask k) w.nbits (2048 / w.nbits) (s.vsrc [a] 0)).foldl (intRop o w.nbits) (intIdentity o w.nbits)).setWidth 2048)] }) ∧
    (let fm : Form := { instr := .vscan d a k w bf false o, onA := false, rv := [a], wv := [d] };
     Ready s fm → ∃ V t, Masked V (s.mask k) w.nbits (2048 / w.nbits) d (s.prior d) (fun e =>
         (enabledBelow (s.mask k) w.nbits (e + 1) (s.vsrc [a] 0)).foldl (intRop o w.nbits) (intIdentity o w.nbits)) ∧
       exec (.vscan d a k w bf false o) s = .next t ∧ Executed s t fm { warns := warnOf 7 bf, vdst := [(d, V)] }))

/-- R120 to R122: VLDS, VLDT and VSTS in range and aligned complete, and trap with the address when they are not; VLDT takes its
elements at the pitch that HMOD gives, 256 without one, and refuses a pitch of zero. -/
def Obligations.ScratchpadVectorWordsComplete : Prop :=
  (∀ d b o s, let fm : Form := { instr := .vlds d b o, onX := false, rs := [b], wv := [d], himm := true, hpri := true };
    let x := vlocalAddr s [b] o;
    Ready s fm →
    (0 ≤ x → x + 256 ≤ 0x110000 → x % 4 = 0 → s.localHeld s.focus.2 x.toNat 256 false = false →
      ∃ t, exec (.vlds d b o) s = .next t ∧ Executed s t fm (vloadEffect s d (BitVec.ofNat 2048 (s.cur.localNat x.toNat 256)))) ∧
    (x < 0 ∨ 0x110000 < x + 256 → exec (.vlds d b o) s = .next (preciseTrap s 0x07 (BitVec.ofInt 64 x))) ∧
    (0 ≤ x → x + 256 ≤ 0x110000 → x % 4 ≠ 0 → exec (.vlds d b o) s = .next (preciseTrap s 0x08 (BitVec.ofInt 64 x)))) ∧
  (∀ d b w o s,
    let fm : Form := { instr := .vldt d b w o, onX := false, rs := [b], wv := [d], himm := true, hmod := 0xFFFF, hpri := true };
    let x := vlocalAddr s [b] o;
    let p := match s.hints.hmod with | none => 256 | some m => m.toNat % 2 ^ 16;
    let n := 2048 / w.nbits;
    let span := p * (n - 1) + w.nbytes;
    Ready s fm →
    (0 ≤ x → x + span ≤ 0x110000 → x % w.nbytes = 0 → p ≠ 0 → p % w.nbytes = 0 → s.localHeld s.focus.2 x.toNat span false = false →
      ∃ V t, (∀ e, e < n → elemAt w.nbits e V = BitVec.ofNat w.nbits (s.cur.localNat (x.toNat + p * e) w.nbytes)) ∧
        exec (.vldt d b w o) s = .next t ∧ Executed s t fm (vloadEffect s d V)) ∧
    (x < 0 ∨ 0x110000 < x + span → exec (.vldt d b w o) s = .next (preciseTrap s 0x07 (BitVec.ofInt 64 x))) ∧
    (0 ≤ x → x + span ≤ 0x110000 → (x % w.nbytes ≠ 0 ∨ p = 0 ∨ p % w.nbytes ≠ 0) →
      exec (.vldt d b w o) s = .next (preciseTrap s 0x08 (BitVec.ofInt 64 x)))) ∧
  (∀ d b o s, let fm : Form := { instr := .vsts d b o, onX := false, rs := [b], rv := [d], himm := true, hpri := true };
    let x := vlocalAddr s [b] o;
    Ready s fm →
    (0 ≤ x → x + 256 ≤ 0x100000 → x % 4 = 0 → s.localHeld s.focus.2 x.toNat 256 true = false →
      ∃ t, exec (.vsts d b o) s = .next t ∧
        Executed s t fm { body := fun T => { T with spad := memPutNat T.spad x.toNat 256 (s.vsrc [d] 0).toNat } } ∧
        (Memory.wf s.cur.spad = true → memNat t.cur.spad x.toNat 256 = (s.vsrc [d] 0).toNat) ∧
        ∀ a, a < x.toNat ∨ x.toNat + 256 ≤ a → memGet t.cur.spad a = memGet s.cur.spad a) ∧
    (x < 0 ∨ 0x100000 < x + 256 → exec (.vsts d b o) s = .next (preciseTrap s 0x07 (BitVec.ofInt 64 x))) ∧
    (0 ≤ x → x + 256 ≤ 0x100000 → x % 4 ≠ 0 → exec (.vsts d b o) s = .next (preciseTrap s 0x08 (BitVec.ofInt 64 x))))

/-- R249, R250, R247, R248: LD, ST, VLD and VST of an aligned address in range, not held by a FENCE and with its places free, set
out as one transaction with their class, scope and options; LD and VLD reserve their destination; ST and VST carry their
data; nothing else changes until the answer comes. -/
def Obligations.GlobalAccessesSetOut : Prop :=
  (∀ d b c p z x q o s, let fm : Form := { instr := .ld d b c p z x q o, onX := false, rs := [b], ws := [d], himm := true, hpri := true };
    let va := globalAddr s [b] o z.nbytes;
    Ready s fm → MaySend s va.toNat z.nbytes z.nbytes c.toNat 1 → ∃ t, exec (.ld d b c p z x q o) s = .next t ∧ Executed s t fm {
      sentEffect (sentTo s va.toNat (.ld va.toNat z.nbytes x) (fun pe a => .ldx pe a z.nbytes x) 1 c.toNat (performedAt p) va (destOf d))
        (fun y => { y with acq := q }) with resv := [(d, s.nextId)], warns := warnOf 8 (p == .rect) }) ∧
  (∀ d b c p z q o s, let fm : Form := { instr := .st d b c p z q o, onX := false, rs := [b, d], himm := true, hpri := true };
    let va := globalAddr s [b, d] o z.nbytes;
    let v := (s.src [b, d] 1).toNat % 2 ^ z.nbits;
    Ready s fm → MaySend s va.toNat z.nbytes z.nbytes c.toNat 1 → ∃ t, exec (.st d b c p z q o) s = .next t ∧ Executed s t fm {
      sentEffect (sentTo s va.toNat (.st va.toNat z.nbytes v) (fun pe a => .stx pe a z.nbytes v) 1 c.toNat (performedAt p) va .none)
        (fun y => { y with rel := q }) with warns := warnOf 8 (p == .rect) }) ∧
  (∀ d b c p q o s, let fm : Form := { instr := .vld d b c p q o, onX := false, rs := [b], wv := [d], himm := true, hpri := true };
    let va := globalAddr s [b] o 256;
    let n := vectorPlaces va.toNat;
    Ready s fm → MaySend s va.toNat 256 4 c.toNat n → ∃ t, exec (.vld d b c p q o) s = .next t ∧ Executed s t fm {
      sentEffect (sentTo s va.toNat (.vld va.toNat) (fun pe a => .twVld pe a) n c.toNat (performedAt p) va (.vport (d.toNat - 28)))
        (fun y => { y with acq := q }) with vresv := [(d, s.nextId)], warns := warnOf 8 (p == .rect) }) ∧
  (∀ d b c p q o s, let fm : Form := { instr := .vst d b c p q o, onX := false, rs := [b], rv := [d], himm := true, hpri := true };
    let va := globalAddr s [b] o 256;
    let n := vectorPlaces va.toNat;
    let v := s.vsrc [d] 0;
    Ready s fm → MaySend s va.toNat 256 4 c.toNat n → ∃ t, exec (.vst d b c p q o) s = .next t ∧ Executed s t fm {
      sentEffect (sentTo s va.toNat (.vst va.toNat v) (fun pe a => .twVst pe a v) n c.toNat (performedAt p) va .none)
        (fun y => { y with rel := q }) with warns := warnOf 8 (p == .rect) })

/-- R247, R248, R215, R234: a LD whose address raises a cause takes that trap, with the address as tval; one that a FENCE or a lack of
places holds does not issue. A FENCE of a bad rectangle traps with the rectangle. -/
def Obligations.GlobalAccessesTrapOrWait : Prop :=
  ∀ b c p s,
    (∀ d z x q o, let fm : Form := { instr := .ld d b c p z x q o, onX := false, rs := [b], ws := [d], himm := true, hpri := true };
      let va := globalAddr s [b] o z.nbytes;
      Ready s fm →
      (∀ k, globalCause s va.toNat z.nbytes z.nbytes = some k → exec (.ld d b c p z x q o) s = .next (preciseTrap s k va)) ∧
      (2 ^ 56 ≤ va.toNat → globalCause s va.toNat z.nbytes z.nbytes = some 0x09) ∧
      (va.toNat < 2 ^ 56 → va.toNat % z.nbytes ≠ 0 → globalCause s va.toNat z.nbytes z.nbytes = some 0x0A) ∧
      (globalCause s va.toNat z.nbytes z.nbytes = none → (fenced s s.focus.1 c.toNat = true ∨ placesFree s s.focus.1 1 = false) →
        exec (.ld d b c p z x q o) s = .next (holdFront s .other))) ∧
    (∀ m, let fm : Form := { instr := .fence b m .rect, onX := false, rs := [b] };
      Ready s fm → rectBad s.focus.1 (s.src [b] 0) = true → exec (.fence b m .rect) s = .next (preciseTrap s 0x0D (s.src [b] 0)))

/-- R251 to R254, R227: AMO and CAS set out as one transaction with the operands, the rounding they sampled and the options of
HMOD, and reserve d. A RED sets out likewise without a destination, or joins the gather cache of its tile (which REDs gather
is the model's choice, log 19). -/
def Obligations.AtomicsSetOut : Prop :=
  (∀ d a b o z c p s, let fm : Form := { instr := .amo d a b o z c p, onX := false, rs := [a, b], ws := [d], hmod := 3, hpri := true };
    let va := s.src [a, b] 0;
    let n := amoWidth o z;
    let v := (s.src [a, b] 1).toNat % 2 ^ (8 * n);
    let r := sampledIf s (o == .fadd);
    Ready s fm → MaySend s va.toNat (if z then 8 else 4) (if z then 8 else 4) c.toNat 1 → ∃ t, exec (.amo d a b o z c p) s = .next t ∧
      Executed s t fm { sentEffect (sentTo s va.toNat (.amo va.toNat n o v true) (fun pe x => .twAmo pe x n o v true) 1 c.toNat (performedAt p) va (destOf d))
        (fun y => { y with acq := s.hints.modBit 0, rel := s.hints.modBit 1, mode := BitVec.ofNat 3 r.mode, seed := r.seed }) with
          resv := [(d, s.nextId)], draws := o == .fadd, warns := warnOf 8 (p == .rect) ||| warnOf 9 (z && o == .fadd) }) ∧
  (∀ d a b z c p s, let fm : Form := { instr := .cas d a b z c p, onX := false, rs := [a, b, d], ws := [d], hmod := 3, hpri := true };
    let va := s.src [a, b, d] 0;
    let n := if z then 8 else 4;
    let new := (s.src [a, b, d] 1).toNat % 2 ^ (8 * n);
    let cmp := (s.src [a, b, d] 2).toNat % 2 ^ (8 * n);
    Ready s fm → MaySend s va.toNat n n c.toNat 1 → ∃ t, exec (.cas d a b z c p) s = .next t ∧
      Executed s t fm { sentEffect (sentTo s va.toNat (.cas va.toNat n cmp new) (fun pe x => .twCas pe x n cmp new) 1 c.toNat (performedAt p) va (destOf d))
        (fun y => { y with acq := s.hints.modBit 0, rel := s.hints.modBit 1 }) with
          resv := [(d, s.nextId)], warns := warnOf 8 (p == .rect) }) ∧
  (∀ a b o z c p s, let fm : Form := { instr := .red a b o z c p, onX := false, rs := [a, b], hmod := 2, hpri := true };
    let va := s.src [a, b] 0;
    let n := amoWidth o z;
    let v := (s.src [a, b] 1).toNat % 2 ^ (8 * n);
    let r := sampledIf s (o == .fadd);
    let w := warnOf 8 (p == .rect) ||| warnOf 9 (z && o == .fadd);
    Ready s fm → MaySend s va.toNat (if z then 8 else 4) (if z then 8 else 4) c.toNat 1 →
    (va.toNat / 2 ^ 48 = 0xFF ∨ s.hints.modBit 1 = true ∨ performedAt p < 2 → ∃ t, exec (.red a b o z c p) s = .next t ∧
      Executed s t fm { sentEffect (sentTo s va.toNat (.amo va.toNat n o v false) (fun pe x => .twAmo pe x n o v false) 1 c.toNat (performedAt p) va .none)
        (fun y => { y with rel := s.hints.modBit 1, mode := BitVec.ofNat 3 r.mode, seed := r.seed }) with draws := o == .fadd, warns := w }) ∧
    (MayGather s va.toNat c.toNat p (s.hints.modBit 1) n v o → ∃ t, exec (.red a b o z c p) s = .next t ∧ Executed s t fm {
      draws := o == .fadd, warns := w,
      body := fun T => { T with gather := T.gather ++ [{
        ctx := s.cur.ctx.toNat, line := va.toNat / 128 * 128, op := o, size := n, mode := BitVec.ofNat 3 r.mode,
        ops := [(va.toNat % 128, v)], seed := r.seed, scope := performedAt p, cls := c.toNat, ipc := s.pc, user := !s.cur.slv }] } }))

/-- R255 to R257: with nothing gathered, a FENCE enters the list of fences that later accesses heed, where an access before it is
still to be performed, and at scope 3 or wider sends a promotion of the tile's own lines to follow those accesses; PROMOTE of a
global address sets out, of a tile-window address only retires; HASH mixes its three sources into d and d + 1. -/
def Obligations.FencePromoteHashComplete : Prop :=
  (∀ a m p s, let fm : Form := { instr := .fence a m p, onX := false, rs := if p = .rect then [a] else [] };
    Ready s fm → (p = .rect → rectBad s.focus.1 (s.src [a] 0) = false) → s.cur.gather = [] → s.fences = [] →
    ∃ t, exec (.fence a m p) s = .next t ∧ t.cur.gather = [] ∧
      (t.fences = if (s.strandTxns s.focus.1).any (fun x => decide (x.id < s.nextId) && x.unperformed && x.access.isSome && m.getLsbD x.cls)
        then [{ tile := s.focus.1, mask := m, before := s.nextId }] else []) ∧
      Executed s { t with fences := s.fences } fm (if p = .die ∨ p = .module ∨ p = .pod
        then { ids := 1, posts := [.globalRequest s.nextId], txns := [sentTxn s .promoteSelf 0 0 (performedAt p) 0 .none] } else {})) ∧
  (∀ a p s, let fm : Form := { instr := .promote a p, onX := false, rs := [a], hpri := true };
    let va := s.src [a] 0;
    Ready s fm → globalCause s va.toNat 1 1 = none → placesFree s s.focus.1 1 = true →
    (va.toNat / 2 ^ 48 ≠ 0xFF → ∃ t, exec (.promote a p) s = .next t ∧ Executed s t fm
      { ids := 1, posts := [.globalRequest s.nextId], txns := [sentTxn s (.promote va.toNat none) 1 0 (scopeCode p) va .none] }) ∧
    (va.toNat / 2 ^ 48 = 0xFF → va.toNat / 2 ^ 20 % 2 ^ 8 = 0 → ∃ t, exec (.promote a p) s = .next t ∧ Executed s t fm {})) ∧
  (∀ d a b c, Completes (.hash d a b c) { instr := .hash d a b c, onX := false, rs := [a, b, c], ws := [d, d + 1] } (fun s =>
    let t := mix (s.src [a, b, c] 0 ^^^ s.src [a, b, c] 2);
    let u := mix (s.src [a, b, c] 1 + t + goldenRatio);
    { dst := [(d, t ^^^ u), (d + 1, u)] }))

/-- R217, R218, R249, R251 to R253: an access that its home serves from a line of the cache. A LD is answered with its bytes and
changes no line; a ST at scope 3 or wider writes its bytes into the line, which is dirty then; an AMO answers the old value and
writes the new one; a CAS writes only when the old value is the one compared; no byte of memory changes. -/
def Obligations.HomeServesALine : Prop :=
  ∀ (s : State) (id : Nat) (x : Txn) (l : Line), AtHome s id x →
    (∀ va n sx, x.kind = .ld va n sx → Serves s x.ctx va n l → ∃ t, exec (.globalRequest id) s = .next t ∧
      Answered s t id (.data (BitVec.ofNat 2048 (lineNat l va n))) ∧ t.llc = s.llc) ∧
    (∀ va n v, x.kind = .st va n v → Serves s x.ctx va n l → 2 ≤ x.scope → ∃ t l', exec (.globalRequest id) s = .next t ∧
      Answered s t id (.data 0) ∧ t.line? x.ctx (va / 128 * 128) = some l' ∧ l'.dirty = true ∧ l'.pa = l.pa ∧
      lineNat l' va n = v % 2 ^ (8 * n) ∧ (∀ k, k < 128 → (k < va % 128 ∨ va % 128 + n ≤ k) → l'.data.getD k 0 = l.data.getD k 0) ∧
      ∀ c a, ¬ (c = x.ctx ∧ a = va / 128 * 128) → t.line? c a = s.line? c a) ∧
    (∀ va n o b ret, x.kind = .amo va n o b ret → o ≠ .fadd → Serves s x.ctx va n l → 2 ≤ x.scope →
      ∃ t l', exec (.globalRequest id) s = .next t ∧ Answered s t id (.data (BitVec.ofNat 2048 (lineNat l va n))) ∧
        t.line? x.ctx (va / 128 * 128) = some l' ∧ lineNat l' va n = amoNew o (8 * n) (lineNat l va n) (b % 2 ^ (8 * n)) % 2 ^ (8 * n)) ∧
    (∀ va n cmp new, x.kind = .cas va n cmp new → Serves s x.ctx va n l → 2 ≤ x.scope →
      ∃ t l', exec (.globalRequest id) s = .next t ∧ Answered s t id (.data (BitVec.ofNat 2048 (lineNat l va n))) ∧
        t.line? x.ctx (va / 128 * 128) = some l' ∧
        lineNat l' va n = if lineNat l va n = cmp then new % 2 ^ (8 * n) else lineNat l va n)

/-- R248, R244, R246, R227, R310, R312: an answer that arrives at a strand that is not frozen. Data go to the destination and end
its interlock; a pinned line's access is reissued; a discarded store sets warn.pgone; a page fault aborts the task; an error
or poison is an identified trap of the access, whose register stays unwritten. A promotion request frees every line of its
owner. A gathered line sets out as one atomic per operand. -/
def Obligations.AnswersArrive : Prop :=
  ∀ (s : State) (id : Nat) (x : Txn), s.txn? id = some x → (s.tile x.tile).frozen = false → (s.tile x.tile).phase ≠ .idle →
    (∀ v, x.resp = .data v → ∃ t, exec (.globalResponse id) s = .next t ∧ Retired s t id ∧
      (∀ r, x.dest = .sreg r → 0 < r → r < 24 →
        ((t.tile x.tile).front x.front).reg r = (loadedValue x.kind v).setWidth 64 ∧
        ((t.tile x.tile).front x.front).pend = ((s.tile x.tile).front x.front).pend.filter (fun p => p.2 != id) ∧
        ∀ r', r' ≠ r → ((t.tile x.tile).front x.front).reg r' = ((s.tile x.tile).front x.front).reg r') ∧
      (∀ q, x.dest = .sport q → q < 8 → (t.tile x.tile).sport q =
        ((s.tile x.tile).sport q).map (fun e => if e = .pending id then .filled ((loadedValue x.kind v).setWidth 64) else e)) ∧
      (∀ q, x.dest = .vport q → q < 4 → (t.tile x.tile).vport q =
        ((s.tile x.tile).vport q).map (fun e => if e = .pending id then .filled (loadedValue x.kind v) else e)) ∧
      t = { s with tiles := t.tiles, txns := t.txns, fences := t.fences } ∧ (∀ u, u ≠ x.tile → t.tile u = s.tile u) ∧
      (t.tile x.tile).spad = (s.tile x.tile).spad) ∧
    (x.resp = .retry → ∃ t, exec (.globalResponse id) s = .next t ∧ .retryReissue id ∈ t.agenda ∧ t.txns = s.txns ∧ t.tiles = s.tiles) ∧
    (x.resp = .retry → exec (.retryReissue id) s = .next ((s.modTxn id (fun y => { y with resp := .pending })).post (.globalRequest id))) ∧
    (x.resp = .gone → ∃ t, exec (.globalResponse id) s = .next t ∧ Retired s t id ∧
      (t.tile x.tile).warn = (s.tile x.tile).warn ||| warnOf 13 true) ∧
    (∀ va, x.resp = .pageFault va → exec (.globalResponse id) s = .next (taskAbort (pruneFences (s.dropTxn id)) x.tile 0x40 va 0)) ∧
    (∀ c, x.resp = .error c ∨ (x.resp = .poisoned ∧ c = 0x23) → (s.tile x.tile).phase ≠ .retired →
      exec (.globalResponse id) s = .next (identifiedTrap (pruneFences ((s.dropTxn id).modTile x.tile (fun T => T.deliverFail x.front id x.dest)))
        x.tile c x.front x.ipc x.user x.tval)) ∧
    (∀ va o m, x.kind = .promote va (some (o, m)) → (s.tile o).frozen = false → canReleaseAt s o m = true →
      ∃ t, exec (.promoteRequest id) s = .next t ∧ t.pins = s.pins.filter (fun p => p.owner != o) ∧
        t.txns = s.txns.map (fun y => if y.id = id then { y with resp := .data 0 } else y) ∧ t.agenda = s.agenda ++ [.globalResponse id]) ∧
    (∀ k g off b, (s.tile x.tile).gather[k]? = some g → g.ops = [(off, b)] →
      ∃ t, exec (.gatherSendHome x.tile k) s = .next t ∧ t.nextId = s.nextId + 1 ∧ t.agenda = s.agenda ++ [.globalRequest s.nextId] ∧
        t.txns = s.txns ++ [{ id := s.nextId, tile := x.tile, inst := (s.tile x.tile).inst, tidx := (s.tile x.tile).tidx, front := .a, ipc := g.ipc, user := g.user, ctx := g.ctx, kind := .amo (g.line + off) g.size g.op b false, dest := .none, places := 0, cls := g.cls, scope := g.scope, acq := false, rel := false, mode := g.mode, seed := g.seed, resp := .pending, tval := BitVec.ofNat 64 (g.line + off) }] ∧
        (t.tile x.tile).gather = (s.tile x.tile).gather.filter (fun h => !(h.ctx == g.ctx && h.line == g.line)))

/-- R258 to R262: a CLAIM of a Ready name answers READY and the handle, and pins the entry when asked; of a name that no way of
its set holds, with a Free way and a free slot, it answers MAKER with a new ticket and the entry is Making; of a Making name
it answers WAIT and joins the waiters. Reserved bits of the request take the claim-operand trap. -/
def Obligations.ClaimCompletes : Prop :=
  ∀ d a b s, let fm : Form := { instr := .claim d a b, onX := false, rs := [a, a + 1, b], ws := [d, d + 1], hpri := true };
    let w := s.src [a, a + 1, b] 2;
    let n := claimNameOf s [a, a + 1, b];
    Ready s fm → (bits w 63 60 ≠ 0 ∨ bits w 43 41 ≠ 0 → exec (.claim d a b) s = .next (preciseTrap s 0x0E w)) ∧
    (bits w 63 60 = 0 → bits w 43 41 = 0 → placesFree s s.focus.1 1 = true → s.dieDown (claimHome s n).1 = false →
      (∀ k, claimFind s n (claimSet s n) = some k → (s.claim k).st = .ready →
        ∃ t, exec (.claim d a b) s = .next t ∧ OnlyClaim s t k ∧
          t.claim k = { s.claim k with
            last := s.cyc.setWidth 46, pins := if w.getLsbD 40 ∧ (s.claim k).pins < 65535 then (s.claim k).pins + 1 else (s.claim k).pins } ∧
          Executed s { t with claims := s.claims } fm { dst := [(d, claimStatus 2 k 0 0), (d + 1, (s.claim k).handle)] }) ∧
      (∀ k j, claimFind s n (claimSet s n) = some k → (s.claim k).st = .making → s.cur.freeCslot = some j → (s.claim k).wl.length < 15 →
        ∃ t, exec (.claim d a b) s = .next t ∧ OnlyClaim s t k ∧
          t.claim k = { s.claim k with
            wl := (s.claim k).wl ++ [{ pin := w.getLsbD 40, tile := s.focus.1, slot := j, lease := bits w 39 36 }] } ∧
          Executed s { t with claims := s.claims } fm {
            dst := [(d, claimStatus 1 k (s.claim k).wl.length 0), (d + 1, 0)],
            body := fun T => T.setCslot j (some { make := false, die := (claimHome s n).1, key := k, tkt := (s.claim k).tkt, chan := bits w 35 32, recd := bits w 59 44, lease := bits w 39 36 }) }) ∧
      (∀ k j, claimFind s n (claimSet s n) = none → (claimSet s n).find? (fun k => (s.claim k).st == .free) = some k →
        s.cur.freeCslot = some j →
        ∃ t, exec (.claim d a b) s = .next t ∧ OnlyClaim s t k ∧
          (t.claim k).st = .making ∧ (t.claim k).dg = BitVec.ofNat 128 n.dg ∧ (t.claim k).fid = BitVec.ofNat 16 n.fid ∧
          (t.claim k).ver = BitVec.ofNat 16 n.ver ∧ (t.claim k).ctx = n.ctx ∧ (t.claim k).mtile = s.focus.1 ∧ (t.claim k).mslot = j ∧
          (t.claim k).tkt = (s.claim k).tkt + 1 ∧ (t.claim k).lease = bits w 39 36 ∧ (t.claim k).wl = [] ∧
          Executed s { t with claims := s.claims } fm {
            dst := [(d, claimStatus 0 k 0 ((s.claim k).tkt + 1).toNat), (d + 1, 0)],
            body := fun T => T.setCslot j (some { make := true, die := (claimHome s n).1, key := k, tkt := (s.claim k).tkt + 1, chan := bits w 35 32, recd := bits w 59 44, lease := bits w 39 36 }) }))

/-- R261, R263, R264, R266: CFULFIL makes the entry Ready with its handle, promotes, frees the make's slot and sends READY to each
waiter; CABANDON hands the entry to its oldest waiter, or frees it; CPIN and CUNPIN count a Ready entry's pins. A status word
that no longer matches changes no entry and answers so; a malformed one takes the claim-operand trap. The delivery of a result
writes its record and signals its channel; a passed lease hands the entry over. -/
def Obligations.ClaimEntriesChangeHands : Prop :=
  ∀ s,
    (∀ d a b, let fm := claimForm (.cfulfil d a b) d [a, b];
      let w := s.src [a, b] 0;
      let h := s.src [a, b] 1;
      let k := statusKey w;
      Ready s fm → (¬ namesEntry w 0 → exec (.cfulfil d a b) s = .next (preciseTrap s 0x0E w)) ∧
      (namesEntry w 0 → placesFree s s.focus.1 1 = true → canRelease s s.focus.1 = true →
        (makeMatches s s.focus.1 w = true → ∃ t, exec (.cfulfil d a b) s = .next t ∧ OnlyClaim s t k ∧
          t.claim k = { s.claim k with
            st := .ready, handle := h, pins := ((s.claim k).wl.filter (fun x => x.pin)).length, wl := [], last := s.cyc.setWidth 46 } ∧
          t.pins = s.pins.filter (fun p => p.owner != s.focus.1) ∧
          t.txns.length = s.txns.length + (s.claim k).wl.length ∧
          (∀ x ∈ (s.claim k).wl, ∃ y ∈ t.txns, y.tile = x.tile ∧ y.kind = .claimResult x.slot (claimStatus 2 k 0 0) h) ∧
          ((s.claim k).wl = [] → Executed s { t with claims := s.claims, pins := s.pins } fm { dst := [(d, 0)], body := fun T => T.dropMake k })) ∧
        (makeMatches s s.focus.1 w = false → ∃ t, exec (.cfulfil d a b) s = .next t ∧ t.claims = s.claims ∧
          Executed s { t with pins := s.pins } fm { dst := [(d, 1)], body := fun T => T.dropMake k }))) ∧
    (∀ d a, let fm := claimForm (.cabandon d a) d [a];
      let w := s.src [a] 0;
      let k := statusKey w;
      Ready s fm → (¬ namesEntry w 0 → exec (.cabandon d a) s = .next (preciseTrap s 0x0E w)) ∧ (namesEntry w 0 → placesFree s s.focus.1 1 = true →
        (makeMatches s s.focus.1 w = false → ∃ t, exec (.cabandon d a) s = .next t ∧
          Executed s t fm { dst := [(d, 2)], body := fun T => T.dropMake k }) ∧
        (makeMatches s s.focus.1 w = true → (s.claim k).wl = [] → (s.claim k).tkt ≠ 0 → ∃ t, exec (.cabandon d a) s = .next t ∧
          (t.claim k).st = .free ∧ (t.claim k).tkt = (s.claim k).tkt ∧ OnlyClaim s t k ∧
          Executed s { t with claims := s.claims } fm { dst := [(d, 1)], body := fun T => T.dropMake k }) ∧
        (∀ x r, makeMatches s s.focus.1 w = true → (s.claim k).wl = x :: r → ∃ t y, exec (.cabandon d a) s = .next t ∧ OnlyClaim s t k ∧
          (t.claim k).st = .making ∧ (t.claim k).mtile = x.tile ∧ (t.claim k).mslot = x.slot ∧ (t.claim k).tkt = (s.claim k).tkt + 1 ∧
          (t.claim k).wl = r ∧ (0 < d.toNat → d.toNat < 24 → (t.cur.front s.focus.2).reg d.toNat = 0) ∧ t.txns = s.txns ++ [y] ∧ y.tile = x.tile ∧
          y.kind = .claimResult x.slot (claimStatus 0 k 0 ((s.claim k).tkt + 1).toNat) 0))) ∧
    (∀ d a b, let fm := claimForm (.cpin d a b) d [a, b];
      let w := s.src [a, b] 0;
      let k := statusKey w;
      Ready s fm → (¬ namesEntry w 2 → exec (.cpin d a b) s = .next (preciseTrap s 0x0E w)) ∧ (namesEntry w 2 → placesFree s s.focus.1 1 = true →
        (readyMatches s s.focus.1 w (s.src [a, b] 1) = false → ∃ t, exec (.cpin d a b) s = .next t ∧ Executed s t fm { dst := [(d, 1)] }) ∧
        (readyMatches s s.focus.1 w (s.src [a, b] 1) = true → (s.claim k).pins < 65535 → ∃ t, exec (.cpin d a b) s = .next t ∧
          OnlyClaim s t k ∧ t.claim k = { s.claim k with pins := (s.claim k).pins + 1 } ∧
          Executed s { t with claims := s.claims } fm { dst := [(d, 0)] }) ∧
        (readyMatches s s.focus.1 w (s.src [a, b] 1) = true → 65535 ≤ (s.claim k).pins → ∃ t, exec (.cpin d a b) s = .next t ∧
          Executed s t fm { dst := [(d, 2)] }))) ∧
    (∀ d a b, let fm := claimForm (.cunpin d a b) d [a, b];
      let w := s.src [a, b] 0;
      let k := statusKey w;
      Ready s fm → (¬ namesEntry w 2 → exec (.cunpin d a b) s = .next (preciseTrap s 0x0E w)) ∧ (namesEntry w 2 → placesFree s s.focus.1 1 = true →
        (readyMatches s s.focus.1 w (s.src [a, b] 1) = false → ∃ t, exec (.cunpin d a b) s = .next t ∧ Executed s t fm { dst := [(d, 1)] }) ∧
        (readyMatches s s.focus.1 w (s.src [a, b] 1) = true → 0 < (s.claim k).pins → ∃ t, exec (.cunpin d a b) s = .next t ∧
          OnlyClaim s t k ∧ t.claim k = { s.claim k with pins := (s.claim k).pins - 1 } ∧
          Executed s { t with claims := s.claims } fm { dst := [(d, 0)] }) ∧
        (readyMatches s s.focus.1 w (s.src [a, b] 1) = true → (s.claim k).pins = 0 → ∃ t, exec (.cunpin d a b) s = .next t ∧
          Executed s t fm { dst := [(d, 2)] }))) ∧
    (∀ id x j st h c, s.txn? id = some x → x.kind = .claimResult j st h → (s.tile x.tile).phase ≠ .idle →
      (s.tile x.tile).inst = x.inst → (s.tile x.tile).tidx = x.tidx → (s.tile x.tile).cslot j = some c → j < 16 →
      (s.tile x.tile).frozen = false → (s.tile x.tile).sbClash [(c.recd * 16, 16)] true = false →
      ((s.tile x.tile).chan c.chan).val = true → ((s.tile x.tile).chan c.chan).payloads.length < 4 → c.chan < 16 →
      ∃ t, exec (.claimResultDelivery id) s = .next t ∧ t = { s with tiles := t.tiles, txns := s.txns.filter (fun y => y.id != id) } ∧
        (t.tile x.tile).spad = memPutNat (s.tile x.tile).spad (c.recd * 16) 16 (h.toNat * 2 ^ 64 + st.toNat) ∧
        ((t.tile x.tile).chan c.chan).payloads = ((s.tile x.tile).chan c.chan).payloads ++ [{ data := st.setWidth 32 }] ∧
        (t.tile x.tile).cslot j = (if st.toNat % 16 = 0 then some { c with make := true, tkt := st.extractLsb' 32 32 } else none)) ∧
    (∀ die k x r, leasePassed s (s.claim k) = true → (s.claim k).wl = x :: r → ∃ t, exec (.leaseExpiry die k) s = .next t ∧ OnlyClaim s t k ∧
      (t.claim k).st = .making ∧ (t.claim k).mtile = x.tile ∧ (t.claim k).mslot = x.slot ∧ (t.claim k).tkt = (s.claim k).tkt + 1 ∧ (t.claim k).wl = r)

/-- R202 to R205, R207 to R210, R197: SIGNAL, BLOCK and UNBLOCK of a member set out as a message, or act at once on the own channel
table; WAITCH takes the oldest payload of the eligible channel of highest priority, or with HMOD bit 0 answers −1 when there is
none; FWPUSH and FWPOP move blocks through a pipe; CARRIVE and CWAIT enter and leave a generation of the cluster barrier; LDX and
STX set out to a peer. A word that names no member takes the member trap. -/
def Obligations.ParallelWordsComplete : Prop :=
  ∀ s,
    (∀ a b, let fm : Form := { instr := .signal a b, onX := false, rs := [a, b] };
      let w := s.src [a, b] 0;
      Ready s fm → (memberBad s w = true → exec (.signal a b) s = .next (preciseTrap s 0x0C w)) ∧
      (memberBad s w = false → signalsOut s s.focus.1 < 4 → ∃ t, exec (.signal a b) s = .next t ∧ Executed s t fm {
        ids := 1, posts := [.payloadArrival s.nextId],
        txns := [{ sentTxn s (.signal (peerOf s w) (w.toNat % 16) ((s.src [a, b] 1).setWidth 32)) 0 0 (peerScope w) w .none with rel := true }] })) ∧
    (∀ d c p r, let fm : Form := { instr := .waitch d, onX := false, ws := [d], hmod := 1 };
      Ready s fm → TakesChannel s.cur c → (s.cur.chan c).payloads = p :: r → ∃ t, exec (.waitch d) s = .next t ∧ Executed s t fm {
        dst := [(d, BitVec.ofNat 64 (c * 2 ^ 32 + p.data.toNat))], body := fun T => T.setChan c { T.chan c with payloads := r } }) ∧
    (∀ d, let fm : Form := { instr := .waitch d, onX := false, ws := [d], hmod := 1 };
      Ready s fm → (∀ c, c < 16 → (s.cur.chan c).eligible = false) →
      (s.hints.modBit 0 = true → ∃ t, exec (.waitch d) s = .next t ∧ Executed s t fm { dst := [(d, BitVec.allOnes 64)] }) ∧
      (s.hints.modBit 0 = false → exec (.waitch d) s = .next (holdFront s .other))) ∧
    (∀ a on, let i : Instr := if on then .block a else .unblock a;
      let fm : Form := { instr := i, onX := false, rs := [a] };
      let w := s.src [a] 0;
      Ready s fm → (memberBad s w = true → exec i s = .next (preciseTrap s 0x0C w)) ∧
      (memberBad s w = false → peerOf s w = ownPeer → ∃ t, exec i s = .next t ∧ Executed s t fm {
        body := fun T => T.setChan (w.toNat % 16) { T.chan (w.toNat % 16) with blk := on } }) ∧
      (memberBad s w = false → peerOf s w ≠ ownPeer → ∃ t, exec i s = .next t ∧ Executed s t fm {
        ids := 1, posts := [.blockArrival s.nextId],
        txns := [sentTxn s (.block (peerOf s w) (w.toNat % 16) on) 0 0 (peerScope w) w .none] })) ∧
    (∀ d a b o u, let fm : Form := { instr := .fwpush d a b, onX := false, rs := [b, d] };
      let n := (s.src [b, d] 0).toNat;
      let x := (s.src [b, d] 1).toNat;
      let size := match consumerEnd s s.focus.1 o a.toNat with | some c => c.len * 256 | none => 0;
      let dst := match consumerEnd s s.focus.1 o a.toNat with | some c => c.dst | none => 0;
      let pe := o.va % 2 ^ 11 * 256 + s.cur.rank.toNat;
      Ready s fm → pipeEndOf s a.toNat 1 = some o → x % 256 = 0 → n % 256 = 0 → n ≤ size → (n = 0 ∨ x + n ≤ 0x100000) →
      (n = 0 → ∃ t, exec (.fwpush d a b) s = .next t ∧ Executed s t fm {}) ∧
      (0 < n → peerAt s s.focus.1 s.cur.inst pe = .at u → s.cur.sbClash [(x, n)] false = false →
        ((s.tile u).pipe a.toNat).filled + ((s.tile u).pipe a.toNat).held + pushing s s.focus.1 a.toNat + n ≤ size →
        ∃ t, exec (.fwpush d a b) s = .next t ∧ Executed s t fm {
          ids := 1, posts := [.peerAccessArrival s.nextId],
          txns := [sentTxn s (.fwpush pe a.toNat dst size (s.cur.localBytes x n) 0) 0 0 3 0 .none] })) ∧
    (∀ d a b o, let fm : Form := { instr := .fwpop d a b, onX := false, rs := [b], ws := [d] };
      let n := (s.src [b] 0).toNat;
      let P := s.cur.pipe a.toNat;
      Ready s fm → pipeEndOf s a.toNat 0 = some o → n % 256 = 0 → n ≤ o.len * 256 → 0 < n → n ≤ P.filled →
        ∃ t, exec (.fwpop d a b) s = .next t ∧ Executed s t fm {
          dst := [(d, BitVec.ofNat 64 (o.dst + P.head))],
          body := fun T => T.setPipe a.toNat { head := (P.head + n) % (o.len * 256), filled := P.filled - n, held := n } }) ∧
    (∀ d, let fm : Form := { instr := .carrive d, onX := false, ws := [d] };
      Ready s fm → ∃ t, exec (.carrive d) s = .next t ∧ Executed s t fm {
        dst := [(d, BitVec.ofNat 64 s.cur.arrivals)], body := fun T => { T with arrivals := T.arrivals + 1 }, ids := 1,
        posts := [.clusterArrival s.focus.1 s.nextId],
        txns := [{ sentTxn s (.arrive s.cur.rank.toNat) 0 0 1 0 .none with rel := true }] }) ∧
    (∀ a, let fm : Form := { instr := .cwait a, onX := false, rs := [a] };
      let g := (s.src [a] 0).toNat;
      Ready s fm → (s.cur.arrivals ≤ g → exec (.cwait a) s = .next (preciseTrap s 0x0C (s.src [a] 0))) ∧
      (g < s.cur.arrivals → (∀ r, r < s.cur.tiles → r ≠ s.cur.rank.toNat → g < Sparse.get 0 s.cur.seen r) →
        ∃ t, exec (.cwait a) s = .next t ∧ Executed s t fm {})) ∧
    (∀ d a b c z, let fm : Form := { instr := .ldx d a b c z, onX := false, rs := [a, b], ws := [d] };
      let w := s.src [a, b] 1;
      let x := (s.src [a, b] 0).toNat;
      Ready s fm → memberBad s w = false → w.toNat % 16 = 0 → x + z.nbytes ≤ 0x100000 → x % z.nbytes = 0 →
      fenced s s.focus.1 c.toNat = false → placesFree s s.focus.1 1 = true → ∃ t, exec (.ldx d a b c z) s = .next t ∧ Executed s t fm {
        resv := [(d, s.nextId)], ids := 1, posts := [.peerAccessArrival s.nextId],
        txns := [sentTxn s (.ldx (peerOf s w) x z.nbytes false) 1 c.toNat (peerScope w) w (destOf d)] }) ∧
    (∀ d a b c z, let fm : Form := { instr := .stx d a b c z, onX := false, rs := [a, b, d] };
      let w := s.src [a, b, d] 1;
      let x := (s.src [a, b, d] 0).toNat;
      Ready s fm → memberBad s w = false → w.toNat % 16 = 0 → x + z.nbytes ≤ 0x100000 → x % z.nbytes = 0 →
      fenced s s.focus.1 c.toNat = false → placesFree s s.focus.1 1 = true → ∃ t, exec (.stx d a b c z) s = .next t ∧ Executed s t fm {
        ids := 1, posts := [.peerAccessArrival s.nextId],
        txns := [sentTxn s (.stx (peerOf s w) x z.nbytes ((s.src [a, b, d] 2).toNat % 2 ^ z.nbits)) 1 c.toNat (peerScope w) w .none] })

/-- R202, R204, R205, R209, R210, R381: a message that reaches a running strand acts there and is answered: a payload joins its
channel, a BLOCK or UNBLOCK sets the channel's bit, an arrival is counted at the other members, a store writes the peer's
scratchpad and a load is answered with its bytes; one to a channel that is closed is answered that the peer is gone; one to a
strand that has not started waits. -/
def Obligations.MessagesArrive : Prop :=
  ∀ (s : State) (id : Nat) (x : Txn), InTurn s id x → (s.tile x.tile).gather = [] →
    (∀ pe c p u, x.kind = .signal pe c p → (∀ y ∈ s.txns, y.tile = x.tile → y.id < id → ∀ q, y.kind ≠ .signal pe c q) →
      peerAt s x.tile x.inst pe = .at u → (s.tile u).frozen = false → (s.tile u).phase ≠ .idle → c < 16 →
      (((s.tile u).chan c).val = true → ((s.tile u).chan c).payloads.length < 4 → ∃ t, exec (.payloadArrival id) s = .next t ∧
        ((t.tile u).chan c) = { (s.tile u).chan c with payloads := ((s.tile u).chan c).payloads ++ [{ data := p }] } ∧
        (∀ k, k ≠ c → (t.tile u).chan k = (s.tile u).chan k) ∧ Replied s t id (.data 0)) ∧
      (((s.tile u).chan c).val = false → ∃ t, exec (.payloadArrival id) s = .next t ∧ t.tiles = s.tiles ∧ Replied s t id .gone)) ∧
    (∀ pe c on u, x.kind = .block pe c on → (∀ y ∈ s.txns, y.tile = x.tile → y.id < id → ∀ q, y.kind ≠ .block pe c q) →
      peerAt s x.tile x.inst pe = .at u → (s.tile u).frozen = false → (s.tile u).phase ≠ .idle → c < 16 →
      ∃ t, exec (.blockArrival id) s = .next t ∧ (t.tile u).chan c = { (s.tile u).chan c with blk := on } ∧ Replied s t id (.data 0)) ∧
    (∀ rank r, x.kind = .arrive rank → (∀ y ∈ s.txns, y.tile = x.tile → y.id < id → ∀ q, y.kind ≠ .arrive q) →
      s.rec? (dieOf x.tile) x.inst x.tidx = some r → r.place.Nodup →
      ∃ t, exec (.clusterArrival x.tile id) s = .next t ∧ t.txns = s.txns.filter (fun y => y.id != id) ∧
        (∀ u ∈ r.place, u ≠ x.tile → (s.tile u).phase ≠ .idle →
          Sparse.get 0 (t.tile u).seen rank = Sparse.get 0 (s.tile u).seen rank + 1) ∧
        ∀ u, u ∉ r.place → t.tile u = s.tile u) ∧
    (∀ pe a n v u, x.kind = .stx pe a n v → x.mustWait s = false → x.rel = false → a < 0x100000 →
      peerAt s x.tile x.inst pe = .at u → (s.tile u).frozen = false → (s.tile u).phase ≠ .idle →
      ∃ t, exec (.peerAccessArrival id) s = .next t ∧ (t.tile u).spad = memPutNat (s.tile u).spad a n v ∧
        (∀ w, w ≠ u → t.tile w = s.tile w) ∧ t.pmem = s.pmem ∧ Replied s t id (.data 0)) ∧
    (∀ pe a n sx u, x.kind = .ldx pe a n sx → x.mustWait s = false → x.rel = false → a < 0x100000 →
      peerAt s x.tile x.inst pe = .at u → (s.tile u).frozen = false → (s.tile u).phase ≠ .idle →
      ∃ t, exec (.peerAccessArrival id) s = .next t ∧ (t.tile u).spad = (s.tile u).spad ∧
        Replied s t id (.data (BitVec.ofNat 2048 (memNat (s.tile u).spad a n)))) ∧
    (∀ pe a, x.kind.peer = some (pe, a) → x.rel = false → a < 0x100000 → peerAt s x.tile x.inst pe = .notYet →
      exec (.peerAccessArrival id) s = .next (s.post (.peerAccessArrival id)))

/-- R126, R128, R129, R131, R134, R135, R137, R141 to R148: the words of the matrix unit. A well-formed MMA or MMA.ARM, MDIS, MZERO, MFLUSH,
MLOAD and MSCA joins the command queue while it has a place, with the rounding it sampled; RSET sets a ring that no command
names; RPUSH publishes slots; RSTAT and CSTAT report; CSET configures and CGO starts a chain; TSWAP waits for its mirror, or on
the mirror axis answers 2. -/
def Obligations.MatrixWordsComplete : Prop :=
  ∀ s,
    (∀ (x y : BitVec 3) (c : BitVec 2) (a b : BitVec 4) h p f arm,
      let i : Instr := if arm then .mmaArm x y c a b h p f else .mma x y c a b h p f;
      let fm := matrixForm i (accOk s.focus.1 c.toNat) [];
      let op := mmaOpOf s.focus.1 x y c a b h p f arm;
      Ready s fm →
      (mmaSetupOk (s.cur.ring x.toNat) (s.cur.ring y.toNat) a.toNat b.toNat h p = false →
        exec i s = .next (preciseTrap s 0x0B (BitVec.ofNat 64 (encodeWord i)))) ∧
      (mmaSetupOk (s.cur.ring x.toNat) (s.cur.ring y.toNat) a.toNat b.toNat h p = true → s.cur.mq.length < 8 →
        ∃ t, exec i s = .next t ∧ Executed s t fm {
          draws := mmaDraws a b arm, body := fun T => { T with mq := T.mq ++ [.mma (mmaSampled s op (mmaDraws a b arm))] } })) ∧
    (∀ c, let fm := matrixForm (.mdis c) (accOk s.focus.1 c.toNat) [];
      Ready s fm → s.cur.mq.length < 8 → ∃ t, exec (.mdis c) s = .next t ∧ Executed s t fm (queued s [] false (.mdis c.toNat))) ∧
    (∀ c, let fm := matrixForm (.mzero c) (accOk s.focus.1 c.toNat) [];
      Ready s fm → s.cur.mq.length < 8 → ∃ t, exec (.mzero c) s = .next t ∧ Executed s t fm (queued s [] false (.mzero c.toNat))) ∧
    (∀ a b u c sat h, let fm := matrixForm (.mflush a b u c sat h) (regionOk s.focus.1 c.toNat h) [a, b];
      let x := (s.src [a, b] 0).toNat;
      let p := (s.src [a, b] 1).toNat;
      let rb := ((shapeOf h).2 * (ckind u.toNat).width + 7) / 8;
      let r := sampledIf s true;
      Ready s fm →
      (0x100000 < x + ((shapeOf h).1 - 1) * p + rb → exec (.mflush a b u c sat h) s = .next (preciseTrap s 0x07 (s.src [a, b] 0))) ∧
      (x + ((shapeOf h).1 - 1) * p + rb ≤ 0x100000 → (x % 4 ≠ 0 ∨ p % 4 ≠ 0 ∨ p < rb) →
        exec (.mflush a b u c sat h) s = .next (preciseTrap s 0x08 (s.src [a, b] 0))) ∧
      (x + ((shapeOf h).1 - 1) * p + rb ≤ 0x100000 → x % 4 = 0 → p % 4 = 0 → rb ≤ p → s.cur.mq.length < 8 →
        ∃ t, exec (.mflush a b u c sat h) s = .next t ∧ Executed s t fm { queued s ((List.range (shapeOf h).1).map (fun k => (x + k * p, rb))) true
          (.mflush c.toNat h x p u.toNat sat (BitVec.ofNat 3 r.mode) r.seed s.nextId) with draws := true })) ∧
    (∀ a b u c h, let fm := matrixForm (.mload a b u c h) (regionOk s.focus.1 c.toNat h) [a, b];
      let x := (s.src [a, b] 0).toNat;
      let p := (s.src [a, b] 1).toNat;
      let rb := ((shapeOf h).2 * (ckind u.toNat).width + 7) / 8;
      Ready s fm → x + ((shapeOf h).1 - 1) * p + rb ≤ 0x100000 → x % 4 = 0 → p % 4 = 0 → rb ≤ p → s.cur.mq.length < 8 →
        ∃ t, exec (.mload a b u c h) s = .next t ∧ Executed s t fm (queued s ((List.range (shapeOf h).1).map (fun k => (x + k * p, rb))) false
          (.mload c.toNat h x p u.toNat s.nextId))) ∧
    (∀ a b (u : BitVec 2) f r l (c : BitVec 2) h,
      let fm := matrixForm (.msca a b u f r l c h) (regionOk s.focus.1 c.toNat h && accOk s.focus.1 u.toNat) [a, b];
      let x := (s.src [a, b] 0).toNat;
      let y := (s.src [a, b] 1).toNat;
      let rd := sampledIf s true;
      Ready s fm → scaleCause f (scaleVecs h f r l x y) = none → s.cur.mq.length < 8 →
        ∃ t, exec (.msca a b u f r l c h) s = .next t ∧ Executed s t fm { queued s (scaleVecs h f r l x y) false
          (.msca c.toNat u.toNat h f r l x y (BitVec.ofNat 3 rd.mode) rd.seed s.nextId) with draws := true }) ∧
    (∀ g a, let fm : Form := { instr := .rset g a, onX := false, rs := [a] };
      let v := s.src [a] 0;
      Ready s fm →
      (bits v 19 0 + (bits v 45 40 + 1) * (bits v 31 20 * 256) ≤ 0x100000 → bits v 19 0 % 256 = 0 → bits v 31 20 ≠ 0 →
        s.cur.ringInUse g.toNat = false → ∃ t, exec (.rset g a) s = .next t ∧ Executed s t fm {
          body := fun T => T.setRing g.toNat { Ring.reset with base := bits v 19 0, slot := bits v 31 20 * 256, count := bits v 45 40 + 1 } }) ∧
      (0x100000 < bits v 19 0 + (bits v 45 40 + 1) * (bits v 31 20 * 256) → exec (.rset g a) s = .next (preciseTrap s 0x07 v))) ∧
    (∀ g a, let fm : Form := { instr := .rpush g a, onX := false, rs := [a] };
      let r := s.cur.ring g.toNat;
      let n := (s.src [a] 0).toNat;
      Ready s fm →
      (r.slot = 0 ∨ r.count < n → exec (.rpush g a) s = .next (preciseTrap s 0x0B (s.src [a] 0))) ∧
      (r.slot ≠ 0 → n ≤ r.count → r.filled + n ≤ r.count → s.cur.sbClash (r.published n) false = false →
        ∃ t, exec (.rpush g a) s = .next t ∧ Executed s t fm {
          body := fun T => T.setRing g.toNat { r with tail := (r.tail + n) % r.count, filled := r.filled + n } })) ∧
    (∀ d g b, let fm : Form := { instr := .rstat d g b, rs := [b], ws := [d] };
      let r := s.cur.ring g.toNat;
      let n := (s.src [b] 0).toNat;
      Ready s fm → (r.count < n → exec (.rstat d g b) s = .next (preciseTrap s 0x0B (s.src [b] 0))) ∧
      (n ≤ r.count → n ≤ r.count - r.filled → ∃ t, exec (.rstat d g b) s = .next t ∧ Executed s t fm {
        dst := [(d, BitVec.ofNat 64 (r.tail * 2 ^ 32 + r.claimed * 2 ^ 24 + r.count * 2 ^ 16 + r.filled * 2 ^ 8 + (r.count - r.filled)))] })) ∧
    (∀ c a, let fm := matrixForm (.cset c a) true [a];
      let x := (s.src [a] 0).toNat;
      let ch : Chain := { Chain.reset with desc := BitVec.ofNat 512 (s.cur.localNat x 64), st := .ready };
      Ready s fm → x + 64 ≤ 0x100000 → x % 64 = 0 → (s.cur.chain c.toNat).st ≠ .running → s.cur.sbClash [(x, 64)] false = false →
      (chainFaulty ch c.toNat (isF s.focus.1) = true → exec (.cset c a) s = .next (preciseTrap s 0x0B (s.src [a] 0))) ∧
      (chainFaulty ch c.toNat (isF s.focus.1) = false → ∃ t, exec (.cset c a) s = .next t ∧ Executed s t fm { body := fun T => T.setChain c.toNat ch })) ∧
    (∀ c, let fm := matrixForm (.cgo c) true [];
      Ready s fm → (s.cur.chain c.toNat).st = .ready ∨ (s.cur.chain c.toNat).st = .done → ∃ t, exec (.cgo c) s = .next t ∧ Executed s t fm {
        body := fun T => T.setChain c.toNat { Chain.reset with desc := (T.chain c.toNat).desc, st := .running } }) ∧
    (∀ d c b, let fm : Form := { instr := .cstat d c b, onA := false, rs := [b], ws := [d] };
      let ch := s.cur.chain c.toNat;
      Ready s fm → (s.src [b] 0 = 0 ∨ ch.st ≠ .running ∨ bits (s.src [b] 0) 31 0 ≤ ch.done) → ∃ t, exec (.cstat d c b) s = .next t ∧
        Executed s t fm { dst := [(d, BitVec.ofNat 64 (ch.done * 2 ^ 32 + (if ch.err then 4 else 0) +
          (match ch.st with | .unconfigured => 0 | .ready => 1 | .running => 2 | .done => 3)))] }) ∧
    (∀ d a b, let fm : Form := { instr := .tswap d a b, onA := false, rs := [a, b], ws := [d] };
      let x := (s.src [a, b] 0).toNat;
      let n := (s.src [a, b] 1).toNat;
      Ready s fm → x % 256 = 0 → n % 256 = 0 → x + n ≤ 0x100000 →
      (mirrorOf s.focus.1 s.cur.crect = s.focus.1 → ∃ t, exec (.tswap d a b) s = .next t ∧ Executed s t fm { dst := [(d, 2)] }) ∧
      (mirrorOf s.focus.1 s.cur.crect ≠ s.focus.1 → ∃ t, exec (.tswap d a b) s = .next t ∧ Executed s t fm {
        resv := [(d, s.nextId)], ids := 1,
        body := fun T => { T.sbEnter s.nextId [(x, n)] true with tswaps := T.tswaps ++ [{ id := s.nextId, addr := x, len := n }] } }))

/-- R46, R131 to R133, R135, R138 to R140, R143 to R145, R148: the steps of the matrix unit of a tile whose strand runs. The command at the
head arms, disarms, clears, or flushes its accumulator; a dense integer fire adds the dot products of its two slots and pops
them; a token carries its chain's markers and advances its counters; a fire that retires is counted; mirror tiles exchange
their blocks. -/
def Obligations.MatrixStepsComplete : Prop :=
  ∀ (s : State) (t : Nat), Moves s t →
    (∀ c r, (s.tile t).mq = .mzero c :: r → c < 4 → (s.tile t).fslot c = none → ∃ s', exec (.accumulatorCommand t) s = .next s' ∧
      (∀ m n, ((s'.tile t).acc c).get m n = 0) ∧ ((s'.tile t).acc c).int = ((s.tile t).acc c).int ∧ (s'.tile t).mq = r ∧
      (∀ k, k ≠ c → (s'.tile t).acc k = (s.tile t).acc k) ∧ (s'.tile t).spad = (s.tile t).spad ∧ OnlyTile s s' t) ∧
    (∀ c r, (s.tile t).mq = .mdis c :: r → (s.tile t).fslot c = none → ∃ s', exec (.accumulatorCommand t) s = .next s' ∧
      (s'.tile t).mq = r ∧ (s'.tile t).slots = (s.tile t).slots ∧ OnlyTile s s' t) ∧
    (∀ op r, (s.tile t).mq = .mma op :: r → op.arm = true → op.acc < 4 → (s.tile t).fslot op.acc = none →
      ∃ s', exec (.accumulatorCommand t) s = .next s' ∧ (s'.tile t).fslot op.acc = some { op := op, t := 0, stop := false } ∧
        (s'.tile t).mq = r ∧ OnlyTile s s' t) ∧
    (∀ c h addr pitch code sat mode seed sb r, (s.tile t).mq = .mflush c h addr pitch code sat mode seed sb :: r →
      (s.tile t).fslot c = none → (s.tile t).sbMust sb = false → Memory.wf (s.tile t).spad = true →
      let w := (ckind code).width;
      let rb := ((shapeOf h).2 * w + 7) / 8;
      rb ≤ pitch → ∃ s', exec (.accumulatorCommand t) s = .next s' ∧ (s'.tile t).mq = r ∧ (s'.tile t).accs = (s.tile t).accs ∧
        OnlyTile s s' t ∧ ∀ m, m < (shapeOf h).1 → memNat (s'.tile t).spad (addr + m * pitch) rb = packElems w
          ((List.range (shapeOf h).2).map (fun n => ((ckind code).encode { mode := mode.toNat, seed := seed, i := m * 128 + n } sat
            (accVal ((s.tile t).acc c).int (((s.tile t).acc c).get m n))).1))) ∧
    (∀ op r k j, (s.tile t).mq = .mma op :: r → op.arm = false → op.null = false → op.sp = .dense → 8 ≤ op.fa → op.fa ≤ 12 → 8 ≤ op.fb →
      op.fb ≤ 12 → op.acc < 4 → op.ringA < 8 → op.ringB < 8 → op.ringA ≠ op.ringB → (s.tile t).fslot op.acc = none →
      (∀ g, g = op.ringA ∨ g = op.ringB → ((s.tile t).ring g).claimed = 0 ∧ 0 < ((s.tile t).ring g).filled ∧
        ((s.tile t).ring g).head < ((s.tile t).ring g).count) →
      mmaDepth (shapeOf op.shape).1 (ckind op.fa).width .dense ((s.tile t).ring op.ringA).slot = some (k, j) →
      k * (shapeOf op.shape).2 * (ckind op.fb).width ≤ 8 * ((s.tile t).ring op.ringB).slot →
      (s.tile t).sbClash [((s.tile t).ring op.ringA).range ((s.tile t).ring op.ringA).head,
        ((s.tile t).ring op.ringB).range ((s.tile t).ring op.ringB).head] false = false →
      (op.ovw = true ∨ ((s.tile t).acc op.acc).int = true) → Sparse.wfFrom 0 0 ((s.tile t).acc op.acc).elems = true →
      ∃ s', exec (.fire t 0) s = .next s' ∧ (s'.tile t).mq = r ∧ ((s'.tile t).acc op.acc).int = true ∧
        (∀ m n, m < (shapeOf op.shape).1 → n < (shapeOf op.shape).2 → ((s'.tile t).acc op.acc).get m n = BitVec.ofInt 96
          ((if op.ovw then 0 else (((s.tile t).acc op.acc).get m n).toInt) + (if op.neg then -1 else 1) * dotInt (s.tile t) op k m n)) ∧
        (∀ g, g = op.ringA ∨ g = op.ringB → (s'.tile t).ring g = { (s.tile t).ring g with
          head := (((s.tile t).ring g).head + 1) % ((s.tile t).ring g).count, filled := ((s.tile t).ring g).filled - 1 }) ∧
        (s'.tile t).spad = (s.tile t).spad ∧ s'.pmem = s.pmem) ∧
    (∀ cc a, let c := (s.tile t).chain cc;
      cc < 4 → c.st = .running → c.stopped = false → c.mode = 0 → c.done = c.t → c.pen = false → c.fen = false →
      (s.tile t).fslot c.fslotNo = some a → a.stop = false → ∃ s' f, exec (.tokenEmit t cc) s = .next s' ∧
        (s'.tile t).fires = (s.tile t).fires ++ [f] ∧ f.op = a.op ∧ f.chain = some cc ∧ f.first = c.firstTok ∧ f.isEnd = c.endTok ∧ f.last = false ∧
        f.slots = none ∧ f.performed = false ∧ ((s'.tile t).chain cc).t = c.t + 1 ∧ ((s'.tile t).chain cc).stopped = c.endTok ∧
        ((s'.tile t).chain cc).cnt = advanceCounters c.bound (c.lm1 + 1) 0 c.cnt ∧ (s'.tile t).fslot c.fslotNo = some { a with t := a.t + 1 }) ∧
    (∀ id f cc, (s.tile t).fires.find? (fun g => g.id == id) = some f → f.performed = true → f.last = false → f.chain = some cc → cc < 4 →
      (f.isEnd = true ∨ ((s.tile t).chain cc).err = false) →
      ∃ s', exec (.fireRetire t id) s = .next s' ∧ (s'.tile t).fires = (s.tile t).fires.filter (fun g => g.id != id) ∧
        ((s'.tile t).chain cc).done = ((s.tile t).chain cc).done + 1 ∧
        (f.isEnd = true → ((s'.tile t).chain cc).st = .done ∧ (f.op.acc < 4 → (s'.tile t).fslot f.op.acc = none)) ∧
        (f.isEnd = false → ((s'.tile t).chain cc).st = ((s.tile t).chain cc).st) ∧ (s'.tile t).spad = (s.tile t).spad ∧ OnlyTile s s' t) ∧
    (∀ u p q pr qr, u = mirrorOf t (s.tile t).crect → u ≠ t → mirrorOf u (s.tile u).crect = t → (s.tile u).inst = (s.tile t).inst →
      (s.tile u).tidx = (s.tile t).tidx → Moves s u → (s.tile t).tswaps = p :: pr → (s.tile u).tswaps = q :: qr → p.len = q.len →
      (s.tile t).sbMust p.id = false → (s.tile u).sbMust q.id = false →
      ∃ s', exec (.tswapExchange t) s = .next s' ∧
        (s'.tile t).spad = memPutNat (s.tile t).spad p.addr p.len (memNat (s.tile u).spad q.addr q.len) ∧
        (s'.tile u).spad = memPutNat (s.tile u).spad q.addr q.len (memNat (s.tile t).spad p.addr p.len) ∧
        (s'.tile t).tswaps = pr ∧ (s'.tile u).tswaps = qr ∧ s' = { s with tiles := s'.tiles } ∧
        ∀ v, v ≠ t → v ≠ u → s'.tile v = s.tile v)

/-- R268, R270, R271, R286 to R292, R296 to R298: COPY, COPYC and MCAST with a descriptor that passes its checks set out as one operation
with what they sampled, and trap with the cause that a bad descriptor raises; BINIT, BEXPECT, BARRIVE, BWAIT and BTEST act on their
barrier object; SOPEN, SCLOSE and SCFG on handles and slots. A completion counts at its barrier object; a plain copy of one run
within the scratchpad moves its bytes. -/
def Obligations.EngineWordsComplete : Prop :=
  ∀ s,
    (∀ kind a b slot bytes, kind < 3 → let fm := engineForm (copyInstr kind a b) [a, b] [] true;
      let x := (s.src [a, b] 0).toNat;
      let bar := (s.src [a, b] 1).toNat;
      let D := BitVec.ofNat 512 (memNat s.cur.spad x 64);
      Ready s fm → x + 64 ≤ 0x100000 → x % 64 = 0 → bar + 16 ≤ 0x100000 → bar % 16 = 0 → s.localHeld s.focus.2 x 64 false = false →
      (∀ c, descCheck s s.cur D kind = .cause c → exec (copyInstr kind a b) s = .next (preciseTrap s c (s.src [a, b] 0))) ∧
      (descCheck s s.cur D kind = .ok slot bytes → kind < 2 → ∃ t, exec (copyInstr kind a b) s = .next t ∧ Executed s t fm {
        draws := true, warns := warnOf 8 (bits D 432 430 == 2), ids := 1, posts := [.operationCompletion s.nextId],
        txns := [copyTxn s D (.copy D (kind == 1) bar s.nextId slot)],
        body := fun T => T.sbRanges s.nextId (copyRanges s D (kind == 1) slot) }) ∧
      (descCheck s s.cur D kind = .ok slot bytes → kind = 2 → ∃ t, exec (copyInstr kind a b) s = .next t ∧ Executed s t fm {
        draws := true, warns := warnOf 8 (bits D 432 430 == 2), ids := 1 + (Desc.members D).length,
        posts := .operationCompletion s.nextId :: (List.range (Desc.members D).length).map (fun k => .peerAccessArrival (s.nextId + 1 + k)),
        txns := copyTxn s D (.mcast D bar s.nextId) :: (Desc.members D).zipIdx.map (fun r =>
          { sentTxn s (.mcastWrite (peerNo s s.focus.1 { g := false, tidx := 0, rank := r.1 }) (sideSpan D false true).1.toNat
              (if cdCount D = 0 then 0 else ((sideSpan D false true).2 - (sideSpan D false true).1).toNat) bar [] bytes s.nextId 0) 0
              (bits D 435 433) (max 1 (if bits D 432 430 = 2 then 3 else bits D 432 430)) 0 .none with
            id := s.nextId + 1 + r.2, mode := BitVec.ofNat 3 (sampledIf s true).mode }),
        body := fun T => T.sbRanges s.nextId (sideRanges D false false, []) })) ∧
    (∀ a b, let fm := engineForm (.binit a b) [a, b] [] false;
      let x := (s.src [a, b] 0).toNat;
      let v := s.src [a, b] 1;
      Ready s fm → x + 16 ≤ 0x100000 → x % 16 = 0 →
      (v.toNat = 0 ∨ 2 ^ 16 ≤ v.toNat → exec (.binit a b) s = .next (preciseTrap s 0x0F v)) ∧
      (0 < v.toNat → v.toNat < 2 ^ 16 → s.localHeld s.focus.2 x 16 true = false → ∃ t, exec (.binit a b) s = .next t ∧ Executed s t fm {
        body := fun T => { T with spad := memPutNat T.spad x 16 (v.toNat * 2 ^ 16) } })) ∧
    (∀ a b, let fm := engineForm (.bexpect a b) [a, b] [] false;
      let x := (s.src [a, b] 0).toNat;
      let v := (s.src [a, b] 1).toNat;
      Ready s fm → x + 16 ≤ 0x100000 → x % 16 = 0 → v < 2 ^ 29 → ∃ t o, exec (.bexpect a b) s = .next t ∧
        (BarFits (s.cur.bar x) v 0 → BarUpdated (s.cur.bar x) o v 0 0) ∧
        Executed s t fm { body := fun T => { T with spad := memPutNat T.spad x 16 o.toNat } }) ∧
    (∀ a, let fm := engineForm (.barrive a) [a] [] false;
      let x := (s.src [a] 0).toNat;
      Ready s fm → x + 16 ≤ 0x100000 → x % 16 = 0 → ∃ t o, exec (.barrive a) s = .next t ∧
        (BarFits (s.cur.bar x) 0 1 → BarUpdated (s.cur.bar x) o 0 1 0) ∧
        Executed s t fm { body := fun T => { T with spad := memPutNat T.spad x 16 o.toNat } }) ∧
    (∀ d a b, let fm := engineForm (.bwait d a b) [a, b] [d] false;
      let x := (s.src [a, b] 0).toNat;
      let o := s.cur.bar x;
      Ready s fm → x + 16 ≤ 0x100000 → x % 16 = 0 →
      (barPhase o = (s.src [a, b] 1).getLsbD 0 → exec (.bwait d a b) s = .next (holdFront s .other)) ∧
      (barPhase o ≠ (s.src [a, b] 1).getLsbD 0 → ∃ t, exec (.bwait d a b) s = .next t ∧ Executed s t fm {
        dst := [(d, (BitVec.ofBool (barPhase o) ++ barErr o : BitVec 9).setWidth 64)] })) ∧
    (∀ d a, let fm := engineForm (.btest d a) [a] [d] false;
      let x := (s.src [a] 0).toNat;
      let o := s.cur.bar x;
      Ready s fm → x + 16 ≤ 0x100000 → x % 16 = 0 → ∃ t, exec (.btest d a) s = .next t ∧ Executed s t fm {
        dst := [(d, (BitVec.ofBool (barPhase o) ++ barErr o : BitVec 9).setWidth 64)] }) ∧
    (∀ d a, let fm := engineForm (.sopen d a) [a] [d] false;
      let w := s.src [a] 0;
      let m := s.mslot (bits w 7 4);
      Ready s fm → bits w 63 8 = 0 →
      (s.cur.handle (bits w 2 0) = none → m.loaded = true → (m.owner = .ctx s.cur.ctx.toNat ∨ m.owner = .everyone) →
        SlotImage.write m.image = w.getLsbD 3 → ∃ t, exec (.sopen d a) s = .next t ∧ Executed s t fm {
          dst := [(d, BitVec.ofNat 64 (SlotImage.gBytes m.image * 2 ^ 32))],
          body := fun T => T.setHandle (bits w 2 0) (some { slot := bits w 7 4, write := w.getLsbD 3 }) }) ∧
      (∀ h, s.cur.handle (bits w 2 0) = some h → ∃ t, exec (.sopen d a) s = .next t ∧ Executed s t fm { dst := [(d, 1)] })) ∧
    (∀ a, let fm := engineForm (.sclose a) [a] [] false;
      let w := s.src [a] 0;
      Ready s fm → bits w 63 3 = 0 → ∃ t, exec (.sclose a) s = .next t ∧ Executed s t fm { body := fun T => T.setHandle (bits w 2 0) none }) ∧
    (∀ d a b, let fm := engineForm (.scfg d a b) [a, b] [d] false;
      let x := (s.src [a, b] 0).toNat;
      let w := s.src [a, b] 1;
      let k := bits w 3 0;
      let m : SlotImage := BitVec.ofNat 3584 (memNat s.cur.spad x 448);
      Ready s fm → scfgReleases s b = false → bits w 63 5 = 0 → w.getLsbD 4 = false → x + 448 ≤ 0x100000 → x % 64 = 0 →
      s.cur.sbClash [(x, 448)] false = false → ((s.mslot k).owner = .free ∨ (s.mslot k).owner = .ctx s.cur.ctx.toNat) →
      slotOpen s k = false → slotFault m = none → ∃ t, exec (.scfg d a b) s = .next t ∧
        t.mslot k = { owner := .ctx s.cur.ctx.toNat, image := m, loaded := true } ∧ (∀ j, j ≠ k → t.mslot j = s.mslot j) ∧
        Executed s { t with mslots := s.mslots } fm { dst := [(d, BitVec.ofNat 64 (SlotImage.gBytes m * 2 ^ 32))] }) ∧
    (∀ id x bar bytes err, s.txn? id = some x → (s.tile x.tile).frozen = false → (s.tile x.tile).phase ≠ .idle → Memory.wf (s.tile x.tile).spad = true →
      x.kind = .complete bar bytes err false → err < 256 → ∃ t, exec (.operationCompletion id) s = .next t ∧
        t.txns = s.txns.filter (fun y => y.id != id) ∧
        (BarFits ((s.tile x.tile).bar bar) (-(bytes : Int)) 1 →
          BarUpdated ((s.tile x.tile).bar bar) ((t.tile x.tile).bar bar) (-(bytes : Int)) 1 (BitVec.ofNat 8 err)) ∧
        ∀ a, a < bar ∨ bar + 16 ≤ a → memGet (t.tile x.tile).spad a = memGet (s.tile x.tile).spad a) ∧
    (∀ id x D bar sb src dst n m, s.txn? id = some x → (s.tile x.tile).frozen = false → (s.tile x.tile).phase ≠ .idle →
      Memory.wf (s.tile x.tile).spad = true → x.kind = .copy D false bar sb none → x.mustWait s = false → (s.tile x.tile).sbMust sb = false →
      fencedAt s x = false → LocalRun D src dst n m → ∃ t, exec (.operationCompletion id) s = .next t ∧
        memBytes (t.tile x.tile).spad dst (n * m) = memBytes (s.tile x.tile).spad src (n * m) ∧
        (∀ a, a < dst ∨ dst + n * m ≤ a → memGet (t.tile x.tile).spad a = memGet (s.tile x.tile).spad a) ∧
        t.txns = s.txns.map (fun y => if y.id = id then { y with kind := .complete bar (n * m) 0 false, resp := .data 0 } else y) ∧
        t.agenda = s.agenda ++ [.operationCompletion id] ∧ t.pmem = s.pmem ∧ ∀ u, u ≠ x.tile → t.tile u = s.tile u)

/-- R280 to R285, R299 to R302, R304: FCFG of an image without fault configures the units, and of a faulty one answers its code and unit
and changes nothing; FRUN starts the run; FSTAT reports. A unit fires when its inputs and its outputs' room allow: a reader
looks its reference up, an intersecter passes equal coordinates, a value ALU computes on equal coordinates, a writer stores
coordinate and value. A break of a stream's form faults the run: the strand takes the identified trap. -/
def Obligations.FibreUnitsRun : Prop :=
  ∀ s,
    (∀ d a, let fm := fibreForm s (.fcfg d a) [a] [d] false;
      let x := (s.src [a] 0).toNat;
      let r := fCheck (fibreImage s.cur x);
      Ready s fm → x + 544 ≤ 0x100000 → x % 64 = 0 → s.localHeld s.focus.2 x 544 false = false → s.cur.fibre.st ≠ .running →
      ∃ t, exec (.fcfg d a) s = .next t ∧ Executed s t fm {
        dst := [(d, BitVec.ofNat 64 (r.2 * 2 ^ 8 + r.1))],
        body := fun T => if r.1 = 0 then { T with fibre := { T.fibre with cfg := fibreImage s.cur x, st := .idle, units := [], trunc := false, fault := 0, funit := 0, ftok := 0 } } else T }) ∧
    (∀ a, let fm := fibreForm s (.frun a) [a] [] true;
      let bar := (s.src [a] 0).toNat;
      let cfg := s.cur.fibre.cfg;
      Ready s fm → bar + 16 ≤ 0x100000 → bar % 16 = 0 →
      (cfg = [] → exec (.frun a) s = .next (preciseTrap s 0x0F (s.src [a] 0))) ∧
      (cfg ≠ [] → s.cur.fibre.st ≠ .running → (∀ u ∈ fUnits cfg, fKind u ≠ .decoupler) → ∃ t, exec (.frun a) s = .next t ∧ Executed s t fm {
        draws := true, ids := 1,
        body := fun T => { T.sbRanges s.nextId ((fUnits cfg).flatMap (fun u => (fRanges s.cur u (fEntry cfg u)).1), (fUnits cfg).flatMap (fun u => (fRanges s.cur u (fEntry cfg u)).2)) with fibre := runStarted s T.fibre bar },
        txns := [{ sentTxn s .fibreRun 0 0 0 0 .none with mode := BitVec.ofNat 3 (sampledIf s true).mode, seed := (sampledIf s true).seed }] })) ∧
    (∀ d, let fm := fibreForm s (.fstat d) [] [d] false;
      let F := s.cur.fibre;
      Ready s fm → ∃ t, exec (.fstat d) s = .next t ∧ Executed s t fm { dst := [(d, BitVec.ofNat 64 (F.ftok % 2 ^ 32 * 2 ^ 32 + F.funit * 2 ^ 5 + (if F.trunc then 2 ^ 4 else 0) + F.fault * 2 ^ 2 +
        (match F.st with | .unconfigured => 0 | .idle => 1 | .running => 2 | .faulted => 3)))] }) ∧
    (∀ t u U o0 o1 mem, fibreMoves s t = true → (s.tile t).phase ≠ .idle → (s.tile t).fibreTry u = .yes U o0 o1 mem → fKind u ≠ .writer →
      (s.tile t).fibre.written = false → ∃ s' F, exec (.fibreFire t u) s = .next s' ∧ OnlyTile s s' t ∧
        F = { (s.tile t).fibre with units := (s.tile t).fibre.units.set u U, trunc := (s.tile t).fibre.trunc || U.short } ∧
        s'.tile t = { s.tile t with fibre := (F.emit (2 * u) o0).emit (2 * u + 1) o1, spad := mem.foldl (fun m w => memPutNat m w.1 4 w.2) (s.tile t).spad }) ∧
    (∀ T u c r ix, UnitReady T u .reader [.elem c (memNat T.spad (FEntry.p0 (fEntry T.fibre.cfg u) + 4 * r) 4) true] [] →
      headOf T u 0 = .item (.elem c r false) ix → r < FEntry.n (fEntry T.fibre.cfg u) → r ≠ absentRef →
      ∃ U, T.fibreTry u = .yes U [.elem c (memNat T.spad (FEntry.p0 (fEntry T.fibre.cfg u) + 4 * r) 4) true] [] [] ∧
        U.in0.q = (T.fibre.unit u).in0.q.drop 2) ∧
    (∀ T u c x v d y w ix jx, UnitReady T u .intersecter (if c = d then [.elem c x v] else []) (if c = d then [.elem d y w] else []) →
      headOf T u 0 = .item (.elem c x v) ix → headOf T u 1 = .item (.elem d y w) jx →
      ∃ U, T.fibreTry u = .yes U (if c = d then [.elem c x v] else []) (if c = d then [.elem d y w] else []) [] ∧
        U.in0.q = (if c ≤ d then (T.fibre.unit u).in0.q.drop 2 else (T.fibre.unit u).in0.q) ∧
        U.in1.q = (if d ≤ c then (T.fibre.unit u).in1.q.drop 2 else (T.fibre.unit u).in1.q)) ∧
    (∀ T u c x y ix jx, let e := fEntry T.fibre.cfg u;
      let z := fibreCalc T.fibre u (T.fibre.unit u).nr (FEntry.si32 e) (FEntry.op e) x y;
      UnitReady T u .alu [.elem c z true] [] → FEntry.in1 e ≠ fNone → headOf T u 0 = .item (.elem c x true) ix →
      headOf T u 1 = .item (.elem c y true) jx → ∃ U, T.fibreTry u = .yes U [.elem c z true] [] [] ∧ U.nr = (T.fibre.unit u).nr + 1) ∧
    (∀ T u c v ix, let e := fEntry T.fibre.cfg u;
      let U0 := T.fibre.unit u;
      UnitReady T u .writer [] [] → U0.go = true → U0.elems < FEntry.n e → headOf T u 0 = .item (.elem c v true) ix →
      ∃ U, T.fibreTry u = .yes U [] [] [(FEntry.p0 e + 4 * U0.elems, c), (FEntry.p1 e + 4 * U0.elems, v)] ∧ U.elems = U0.elems + 1) ∧
    (∀ t k u ix, fibreMoves s t = true → (s.tile t).phase ≠ .idle → (s.tile t).fibreFaultAt = some (k, u, ix) → (s.tile t).slv = false →
      (s.tile t).tvec.getLsbD 32 = true → ∃ s', exec (.fibreFault t) s = .next s' ∧ (s'.tile t).fibre.st = .faulted ∧
        (s'.tile t).fibre.fault = k ∧ (s'.tile t).fibre.funit = u ∧ (s'.tile t).fibre.ftok = ix ∧ (s'.tile t).slv = true ∧
        (s'.tile t).tcause = causeWord (s.tile t).fibre.ipc 1 .a (if k = 1 then 0x24 else 0x25) ∧ (s'.tile t).tval = BitVec.ofNat 64 ix ∧
        s'.txns = s.txns.filter (fun y => y.id != (s.tile t).fibre.opId))

/-- R198 to R201: INST hands its packet to its die's dispatcher and answers the word of R198; DECR sends one decrement with a
release; the four cancels act at once and answer 0 when the unit was cancelled, 1 when there was nothing to cancel, 2 when it
belongs to another context. An operand with a reserved bit traps with cause 0x0C. -/
def Obligations.TaskWordsComplete : Prop :=
  ∀ s,
    (∀ d a, let fm := graphForm (.instantiate d a) [a] d;
      let x := (s.src [a] 0).toNat;
      let bs := memBytes s.cur.spad x 256;
      let ask := intake (instSent s fm d) (dieOf s.focus.1) s.cur.ctx.toNat bs (some s.nextId) none;
      Ready s fm → (0x100000 < x + 256 → exec (.instantiate d a) s = .next (preciseTrap s 0x07 (s.src [a] 0))) ∧
      (x + 256 ≤ 0x100000 → x % 16 ≠ 0 → exec (.instantiate d a) s = .next (preciseTrap s 0x08 (s.src [a] 0))) ∧
      (x + 256 ≤ 0x100000 → x % 16 = 0 → s.cur.sbClash [(x, 256)] false = false → canRelease s s.focus.1 = true →
        (∀ u inst spl, ask = (u, .done inst spl) → exec (.instantiate d a) s =
          .next (s.counted (answer u s.nextId (.data ((instWord 0 spl inst).setWidth 2048))))) ∧
        (∀ u, ask = (u, .later) → exec (.instantiate d a) s = .next (s.counted u)) ∧
        (∀ u, ask = (u, .again) → exec (.instantiate d a) s = .next (holdFront s .other)) ∧
        (∀ u va, ask = (u, .fault true va) → exec (.instantiate d a) s = .next (s.counted (answer u s.nextId (.pageFault va)))) ∧
        (∀ err, (packetOf bs).span = false →
          err = (if 16 < (packetOf bs).nren then 1 else if (packetOf bs).tva % 128 ≠ 0 then 2 else if (packetOf bs).rsv then 3 else 0) →
          err ≠ 0 → (∀ y ∈ s.txns, y.id ≠ s.nextId) → ∃ t, exec (.instantiate d a) s = .next t ∧ Executed s.promoted t fm {
            resv := [(d, s.nextId)], ids := 1, posts := [.globalResponse s.nextId],
            txns := [{ sentTxn s .reply 0 0 5 0 (destOf d) with resp := .data ((instWord err false 0).setWidth 2048) }] }))) ∧
    (∀ d a, let fm := graphForm (.decr d a) [a] d;
      let w := s.src [a] 0;
      let m : Decr := { ctx := s.cur.ctx.toNat, inst := bits w 15 0, tidx := bits w 26 16, reply := some s.nextId };
      Ready s fm → (bits w 63 28 ≠ 0 → exec (.decr d a) s = .next (preciseTrap s 0x0C w)) ∧
      (bits w 63 28 = 0 → canRelease s s.focus.1 = true → ∃ t, exec (.decr d a) s = .next t ∧ Executed s.promoted t fm {
        resv := [(d, s.nextId)], ids := 1, txns := [sentTxn s .reply 0 0 5 w (destOf d)],
        posts := [if dieOf s.focus.1 = bits w 27 27 then .decrementApply (bits w 27 27) m else .recordDecrement (bits w 27 27) m] })) ∧
    (∀ d, let fm := graphForm (.gcancelJob d) [] d;
      let c := s.cur.ctx.toNat;
      Ready s fm → ((s.ctx c).jobDone = true → ∃ t, exec (.gcancelJob d) s = .next t ∧ Executed s t fm { dst := [(d, 1)] }) ∧
      ((s.ctx c).jobDone = false → ∃ t, exec (.gcancelJob d) s = .next t ∧ (t.ctx c).jobDone = true ∧ (t.ctx c).cancelled = true ∧
        AllOver s t (fun g => g.ctx == c) ∧ CancelDone t s.focus.2 d)) ∧
    (∀ d a, let fm := graphForm (.gcancelPhase d a) [a] d;
      let w := s.src [a] 0;
      let c := s.cur.ctx.toNat;
      let isOpen := ((s.ctx c).phase (bits w 7 0)).1 = 1 ∨ ((s.ctx c).phase (bits w 7 0)).1 = 2;
      Ready s fm → (bits w 63 8 ≠ 0 → exec (.gcancelPhase d a) s = .next (preciseTrap s 0x0C w)) ∧
      (bits w 63 8 = 0 → ¬ isOpen → ∃ t, exec (.gcancelPhase d a) s = .next t ∧ Executed s t fm { dst := [(d, 1)] }) ∧
      (bits w 63 8 = 0 → isOpen → ∃ t, exec (.gcancelPhase d a) s = .next t ∧ ((t.ctx c).phase (bits w 7 0)).1 = 3 ∧
        AllOver s t (fun g => g.ctx == c && g.phase == bits w 7 0) ∧ CancelDone t s.focus.2 d)) ∧
    (∀ d a, let fm := graphForm (.gcancelGraph d a) [a] d;
      let w := s.src [a] 0;
      let k := bits w 15 0;
      let here := s.graph? (bits w 27 27) k;
      let there := if 0x8000 ≤ k then s.graph? (1 - bits w 27 27) k else none;
      Ready s fm → (bits w 63 28 ≠ 0 ∨ bits w 26 16 ≠ 0 → exec (.gcancelGraph d a) s = .next (preciseTrap s 0x0C w)) ∧
      (bits w 63 28 = 0 → bits w 26 16 = 0 →
        (here = none → there = none → ∃ t, exec (.gcancelGraph d a) s = .next t ∧ Executed s t fm { dst := [(d, 1)] }) ∧
        (∀ g, here.or there = some g → g.ctx ≠ s.cur.ctx.toNat → ∃ t, exec (.gcancelGraph d a) s = .next t ∧ Executed s t fm { dst := [(d, 2)] }) ∧
        (∀ g, here.or there = some g → g.ctx = s.cur.ctx.toNat → ∃ t, exec (.gcancelGraph d a) s = .next t ∧
          (here ≠ none → InstOver t (bits w 27 27) k) ∧ (there ≠ none → InstOver t (1 - bits w 27 27) k) ∧ CancelDone t s.focus.2 d))) ∧
    (∀ d a, let fm := graphForm (.gcancelTask d a) [a] d;
      let w := s.src [a] 0;
      let q := s.rec? (bits w 27 27) (bits w 15 0) (bits w 26 16);
      Ready s fm → (bits w 63 28 ≠ 0 → exec (.gcancelTask d a) s = .next (preciseTrap s 0x0C w)) ∧
      (bits w 63 28 = 0 →
        (q = none → ∃ t, exec (.gcancelTask d a) s = .next t ∧ Executed s t fm { dst := [(d, 1)] }) ∧
        (∀ r, q = some r → r.ctx ≠ s.cur.ctx.toNat → ∃ t, exec (.gcancelTask d a) s = .next t ∧ Executed s t fm { dst := [(d, 2)] }) ∧
        (∀ r, q = some r → r.ctx = s.cur.ctx.toNat → r.st.over = true → ∃ t, exec (.gcancelTask d a) s = .next t ∧
          Executed s t fm { dst := [(d, 1)] }) ∧
        (∀ r, q = some r → r.ctx = s.cur.ctx.toNat → r.st.over = false → ∃ t, exec (.gcancelTask d a) s = .next t ∧
          (∀ p, t.rec? (bits w 27 27) (bits w 15 0) (bits w 26 16) = some p → p.st = .cancelled) ∧ CancelDone t s.focus.2 d)))

/-- R155, R156, R162, R176, R183, R184, R186, R354: a packet of die 0 that is accepted enters its phase and its graph with one record
for each template record; an intake takes the packet at the head of its queue; a decrement lowers dep, makes a record ready when
it reaches zero, is an excess one with an error record, waits in the pre-decrement buffer, or is discarded; a placement is the
first candidate. -/
def Obligations.GraphsAreTakenIn : Prop :=
  ∀ s,
    (∀ c bs reply src u img w inst spl, let p := packetOf bs;
      p.span = false → readVirt s c p.tva (128 * (p.nm1 + 1)) = (u, .data img) → intake s 0 c bs reply src = (w, .done inst spl) →
      (u.ctx c).joinOk p.phase = true ∧ (w.ctx c).phase p.phase = (1, ((u.ctx c).phase p.phase).2 + 1) ∧ inst < 0x8000 ∧
        (∃ g ∈ w.die0.graphs, g.ctx = c ∧ g.inst = inst ∧ g.phase = p.phase ∧ g.wdog = p.wdog ∧ g.left = p.nm1 + 1 ∧ g.gate = .opened) ∧
        (w.die0.recs.filter (fun r => r.inst == inst)).length = (u.die0.recs.filter (fun r => r.inst == inst)).length + (p.nm1 + 1) ∧
        ∀ r ∈ w.die0.recs, r.inst = inst → (∀ q ∈ u.die0.recs, q.inst ≠ inst) → r.ctx = c ∧ r.st = (if r.dep = 0 then .fetching else .waiting)) ∧
    (∀ d c, s.dieDown d = false → (s.die d).turn = 2 * c + 1 →
      ((s.die d).waitingOf c = [] → exec (.packetIntake d) s = .next (s.modDie d (fun D =>
        { D with deficit := Sparse.set 0 D.deficit c (min (Sparse.get 0 D.deficit c) 0), turn := 2 * (c + 1), lastq := 0 }))) ∧
      (∀ q, (s.die d).waitingOf c = [q] → Sparse.get 0 (s.die d).deficit c ≤ 0 → exec (.packetIntake d) s =
        .next (s.modDie d (fun D => { D with turn := 2 * (c + 1), lastq := 0 }))) ∧
      (∀ q u img w inst spl, let Q := (s.die d).queue q;
        let s1 := s.modDie d (fun D => { D with lastq := q + 1 });
        (s.die d).waitingOf c = [q] → 0 < Sparse.get 0 (s.die d).deficit c → Q.ctx = c →
        readVirt s1 c (bits Q.lqd 55 0 + 256 * Q.ri) 256 = (u, .data img) → intake u d c img none (some (q, Q.ri)) = (w, .done inst spl) →
        exec (.packetIntake d) s = .next (w.setQueue d q { Q with ri := (Q.ri + 1) % 2 ^ bits Q.lqd 103 100 }))) ∧
    (∀ d m g r, s.graph? d m.inst = some g → g.ctx = m.ctx → s.rec? d m.inst m.tidx = some r →
      (r.st = .waiting → r.spill = none → 1 < r.dep → ∃ t, exec (.decrementApply d m) s = .next t ∧
        t.rec? d m.inst m.tidx = some { r with dep := r.dep - 1 } ∧ StatusGiven s t m 0 ∧ t.tiles = s.tiles) ∧
      (r.st = .waiting → r.spill = none → r.dep = 1 → r.gang = r.tidx →
        (∀ q ∈ (s.die d).recs, q.inst = r.inst → q.gang = r.gang → q = r) → ∃ t, exec (.decrementApply d m) s = .next t ∧
        t.rec? d m.inst m.tidx = some { r with dep := 0, st := .fetching, joined := s.cyc } ∧ StatusGiven s t m 1 ∧ t.tiles = s.tiles ∧
        (t.die d).ready = (s.die d).ready ++ [{ pri := r.pri, inst := r.inst, tidx := r.tidx, byp := 0 }] ∧ .placementPass d ∈ t.agenda) ∧
      (r.st = .cancelled → ∃ t, exec (.decrementApply d m) s = .next t ∧ StatusGiven s t m 3 ∧ t.die d = s.die d) ∧
      (r.st ≠ .waiting → r.st ≠ .cancelled → ∃ t, exec (.decrementApply d m) s = .next t ∧ StatusGiven s t m 4 ∧
        t.rec? d m.inst m.tidx = some r)) ∧
    (∀ d m, s.graph? d m.inst = none → m.inst < 0x8000 → ∃ t, exec (.decrementApply d m) s = .next t ∧ StatusGiven s t m 3 ∧ t.die d = s.die d) ∧
    (∀ d m, s.graph? d m.inst = none → 0x8000 + s.spanQ ≤ m.inst → (∀ p ∈ s.spanIn, p.inst ≠ m.inst) → (s.die d).predec = [] →
      ∃ t, exec (.decrementApply d m) s = .next t ∧ StatusGiven s t m 2 ∧
        (t.die d).predec = [{ ctx := m.ctx, inst := m.inst, tidx := m.tidx, cnt := 1 }]) ∧
    (∀ d kind n free page q, candidate d kind n free page = some q →
      Candidate d kind n free page q ∧ ∀ p, Candidate d kind n free page p → q.key ≤ p.key) ∧
    (∀ d kind n free page, candidate d kind n free page = none → ∀ p, ¬ Candidate d kind n free page p)

/-- R165, R166, R190 to R193, R31, R155, R160, R170, R173, R33: from placement to a task's end. A placed unit holds its tiles with its
transfers queued; a transfer's bytes are read once for every destination of its unit and land, and the last one makes the record
runnable; the strands start with the launch values; a
strand whose fronts have ended and whose work is done retires, or waits in event mode; an event entry resumes both fronts; a done
task sends its decrements and frees its tiles; a stalled graph is reported; a decoupling deadlock traps. -/
def Obligations.TasksRun : Prop :=
  ∀ s,
    (∀ d r, (s.die d).resident < 65472 →
      ((s.die d).recs.filter (fun q => q.live && q.spill.isSome)).find? (fun q => q.dep == 0) = some r →
      exec (.spillRefill d) s = .next ((s.modRec d r.inst r.tidx (fun q => { q with spill := none })).post (.placementPass d))) ∧
    (∀ d u r q, s.dieDown d = false → waitingUnits s d = [u] → (s.die d).resv = none → s.rec? d r.inst r.tidx = some r →
      u.inst = r.inst → tryUnit s d u (fun _ => true) = some [(r, q)] → ∃ t, exec (.placementPass d) s = .next t ∧
        t.rec? d r.inst r.tidx = some { r with
          place := q.members d r.kind, crect := q.high d * 2 ^ 16 + q.low d,
          opend := r.tiles * (2 + (r.ops.filter (fun o => o.mode == 1 || o.mode == 2)).length) } ∧
        (∀ v ∈ (t.die d).ready, ¬ (v.inst = u.inst ∧ v.tidx = u.tidx)) ∧
        ∀ k ∈ q.members d r.kind, (t.tile k).phase = .placed ∧ (t.tile k).inst = r.inst ∧ (t.tile k).tidx = r.tidx ∧
          (t.tile k).vf = (s.ctx r.ctx).vf ∧ (t.tile k).ctx = BitVec.ofNat 64 r.ctx ∧ (t.tile k).spad = [] ∧ (t.tile k).code = []) ∧
    (∀ d id x r u bs, let k := r.place.getD x.rank 0;
      let R := xferRange r x;
      (s.die d).xfers.find? (fun y => y.id == id) = some x → s.rec? d x.inst x.tidx = some r → (s.tile k).frozen = false →
      (∀ y ∈ (s.die d).xfers, y.inst = x.inst → y.tidx = x.tidx → y.rank = x.rank → id ≤ y.id) → x.bytes = none → R.2.1 ≠ 0 →
      readVirt s r.ctx R.1 R.2.1 = (u, .data bs) → u.rec? d x.inst x.tidx = some r → (u.tile k).phase ≠ .idle →
      (∀ j, x.what = .op j → (r.ops.getD j r.op0).sen = false) →
      ∃ t, exec (.operandToken d id) s = .next t ∧ TransferLanded u t d r x bs ∧
        (∀ y ∈ (u.die d).xfers, y.id ≠ id → y.bytes = none → (u.die d).xfers.length ≤ 160 → ((u.die d).xfers.map (·.id)).Nodup →
          (∀ q, u.rec? d y.inst y.tidx = some q → xferKey q y = xferKey r x → { y with bytes := some bs } ∈ (t.die d).xfers) ∧
          ((∀ q, u.rec? d y.inst y.tidx = some q → xferKey q y ≠ xferKey r x) → y ∈ (t.die d).xfers))) ∧
    (∀ d id x r bs, (s.die d).xfers.find? (fun y => y.id == id) = some x → s.rec? d x.inst x.tidx = some r →
      (s.tile (r.place.getD x.rank 0)).frozen = false → (s.tile (r.place.getD x.rank 0)).phase ≠ .idle →
      (∀ y ∈ (s.die d).xfers, y.inst = x.inst → y.tidx = x.tidx → y.rank = x.rank → id ≤ y.id) → x.bytes = some bs →
      ∃ t, exec (.operandToken d id) s = .next t ∧ TransferLanded s t d r x bs ∧
        (∀ y ∈ (s.die d).xfers, y.id ≠ id → y ∈ (t.die d).xfers)) ∧
    (∀ d i j r, let V := s.vf (s.ctx r.ctx).vf;
      s.rec? d i j = some r → r.st = .runnable → V.frozen = false → V.sched = true → s.dieDown d = false → r.place.Nodup →
      ∃ t, exec (.strandStart d i j) s = .next t ∧ t.rec? d i j = some { r with st := .running, started := s.cyc, left := r.tiles } ∧
        ∀ k u, r.place[k]? = some u → (t.tile u).phase = .running ∧ (t.tile u).tid = BitVec.ofNat 64 u ∧ (t.tile u).rank = BitVec.ofNat 64 k ∧
          (t.tile u).ctx = BitVec.ofNat 64 r.ctx ∧ (t.tile u).crect = BitVec.ofNat 64 r.crect ∧ (t.tile u).tvec = (s.ctx r.ctx).tv ∧
          FrontStarted (t.tile u).fa r.aent r (mix (r.seed + BitVec.ofNat 64 k)) ∧
          FrontStarted (t.tile u).fx r.xent r (~~~(mix (r.seed + BitVec.ofNat 64 k)))) ∧
    (∀ u r, isJack u = false → (s.tile u).phase = .running → AllDone s u → (s.tile u).events = false → (s.tile u).gather = [] →
      (∀ c ∈ (s.tile u).cslots.toList, c = none) → s.rec? (dieOf u) (s.tile u).inst (s.tile u).tidx = some r →
      ∃ t, exec (.strandRetire u) s = .next t ∧ (t.tile u).phase = .retired ∧ (∀ q, (t.tile u).sport q = []) ∧ (∀ q, (t.tile u).vport q = []) ∧
        (t.tile u).spad = (s.tile u).spad ∧ (t.tile u).vregs = (s.tile u).vregs ∧ t.pins = s.pins.filter (fun p => p.owner != u) ∧
        (t.tile u).warn = (s.tile u).warn |||
          warnOf warnQres ((s.tile u).sq.toList.any (fun q => !q.isEmpty) || (s.tile u).vq.toList.any (fun q => !q.isEmpty)) |||
          warnOf warnMres ((s.tile u).chans.toList.any (fun c => !c.payloads.isEmpty)) ∧
        t.rec? (dieOf u) (s.tile u).inst (s.tile u).tidx = some { r with left := r.left - 1 } ∧
        (r.left = 1 → t.agenda = s.agenda ++ [.taskDone (dieOf u) (s.tile u).inst (s.tile u).tidx])) ∧
    (∀ u, isJack u = false → (s.tile u).phase = .running → AllDone s u → (s.tile u).events = true →
      (∀ c, c < 16 → ((s.tile u).chan c).eligible = false) →
      exec (.strandRetire u) s = .next (s.modTile u (fun T => { T with phase := .waiting }))) ∧
    (∀ u c p rest, (s.tile u).events = true → ((s.tile u).phase = .running ∨ (s.tile u).phase = .waiting) → AllDone s u →
      TakesChannel (s.tile u) c → ((s.tile u).chan c).payloads = p :: rest → ∃ t, exec (.eventEntry u) s = .next t ∧ (t.tile u).phase = .running ∧
        (t.tile u).chan c = { (s.tile u).chan c with payloads := rest } ∧
        (∀ f, ((t.tile u).front f).reg 1 = BitVec.ofNat 64 p.data.toNat ∧ ((t.tile u).front f).reg 2 = BitVec.ofNat 64 c ∧
          ((t.tile u).front f).ended = false ∧ ∀ k, 2 < k → k < 24 → ((t.tile u).front f).reg k = ((s.tile u).front f).reg k) ∧
        (t.tile u).fa.pc = entryOf ((s.tile u).chan c).ae ∧ (t.tile u).fx.pc = entryOf ((s.tile u).chan c).xe) ∧
    (∀ d i j r, s.rec? d i j = some r → r.st = .running → signalTo s d i j = false → (∃ u ∈ r.place, (s.tile u).phase = .waiting) →
      (∀ u ∈ r.place, (s.tile u).frozen = false ∧ ((s.tile u).phase = .retired ∨
        ((s.tile u).phase = .waiting ∧ ∀ c, c < 16 → ((s.tile u).chan c).eligible = false))) →
      ∃ t, exec (.eventRetire d i j) s = .next t ∧ ∀ u ∈ r.place, (t.tile u).phase = .retired) ∧
    (∀ d i j r, s.rec? d i j = some r → r.st = .running → r.left = 0 → r.nsx = 0 → i < 0x8000 → taskQuiet s r = true →
      ∃ t l, exec (.taskDone d i j) s = .next t ∧
        t.agenda = s.agenda ++ (r.succ.filter (fun e => e.testBit 15)).map (fun e => .decrementApply d (succDecr r e)) ++ l ∧
        ∀ q, t.rec? d i j = some q → q.st = .free ∧ q.place = []) ∧
    (∀ d i g, s.graph? d i = some g → g.wdog ≠ 0 → (s.vf (s.ctx g.ctx).vf).frozen = false → g.wdog * 2 ^ 16 ≤ (s.cyc - g.prog).toNat →
      let rs := (s.die d).recs.filter (fun r => r.inst == i && decide (1 ≤ r.st.code) && decide (r.st.code ≤ 4));
      rs.Pairwise (fun a b => a.tidx < b.tidx) → rs.length ≤ 64 → (s.die d).frr = 0 → (s.die d).frBuf.length ≤ 192 →
      ∃ t, exec (.graphWatchdog d i) s = .next t ∧ t.graph? d i = some { g with prog := s.cyc } ∧
        (t.die d).frBuf = (s.die d).frBuf ++ rs.map (fun r => FaultRec.bits { kind := 0x53, ctx := r.ctx, inst := i, tidx := r.tidx, die := d, info := r.st.code } s.cyc)) ∧
    (∀ u ps, (s.tile u).deadlock = some ps → (s.tile u).slv = false → (s.tile u).tvec.getLsbD 32 = true →
      ∃ t, exec (.decouplingDeadlock u) s = .next t ∧ HandlerEntered s t u 0x05 0 .a (if (s.tile u).fa.ended then (s.tile u).fa.endPc else (s.tile u).fa.pc) (portBits ps))

/-- R350 to R355, R358 to R360: what the two dispatchers tell each other. A record decrement is applied as a local one, or discarded with
status 3 by a stopped die; a retry resends it; a join is answered with a gate open or refused with err 12; a leave lowers the phase and
completes a closing one; a gate opens or its share goes; a reserved kind is reported; a spanning packet gives die 1 its share; a
proxy pair forwards entries, freezes on a failed write and reports a push that waits too long. -/
def Obligations.DiesExchangeMessages : Prop :=
  ∀ s,
    (∀ d m, (s.dieDown d = true → ∃ t, exec (.recordDecrement d m) s = .next t ∧ StatusGiven s t m 3 ∧ t.die d = s.die d) ∧
      (s.dieDown d = false → ∃ t, exec (.recordDecrement d m) s = .next t ∧ exec (.decrementApply d m) s = .next t)) ∧
    (∀ d m, exec (.predecrementRetry d m) s = .next (s.post (.recordDecrement d m))) ∧
    (∀ m g, s.graph? 1 (msgInst m) = some g → let c := msgCtx m;
      (g.span = true → ∃ t, exec (.phaseJoin m) s = .next t ∧ t.ctxs = s.ctxs ∧ Posted s t .gateOpen 3 0 c 1 (msgInst m)) ∧
      (g.span = false → (s.ctx c).joinOk g.phase = false → ∃ t, exec (.phaseJoin m) s = .next t ∧ t.ctxs = s.ctxs ∧
        Posted s t .gateRefuse 4 12 c 1 (msgInst m)) ∧
      (g.span = false → (s.ctx c).joinOk g.phase = true → ∃ t, exec (.phaseJoin m) s = .next t ∧
        (t.ctx c).phase g.phase = (1, ((s.ctx c).phase g.phase).2 + 1) ∧ Posted s t .gateOpen 3 0 c 1 (msgInst m))) ∧
    (∀ m n, let c := msgCtx m;
      let p := msgTidx m;
      ((s.ctx c).phase p = (1, n + 1) → ∃ t, exec (.phaseLeave m) s = .next t ∧ (t.ctx c).phase p = (1, n) ∧ t.agenda = s.agenda) ∧
      ((s.ctx c).phase p = (2, n + 2) → ∃ t, exec (.phaseLeave m) s = .next t ∧ (t.ctx c).phase p = (2, n + 1) ∧ t.agenda = s.agenda) ∧
      ((s.ctx c).phase p = (2, 1) → ∃ t, exec (.phaseLeave m) s = .next t ∧ (t.ctx c).phase p = (3, 0) ∧
        (t.ctx c).jobCnt = (s.ctx c).jobCnt - 1 ∧ ((s.ctx c).ended = true → (s.ctx c).jobCnt ≤ 1 → (t.ctx c).jobDone = true))) ∧
    (∀ m g, s.graph? 1 (msgInst m) = some g → ∃ t, exec (.gateOpen m) s = .next t ∧
      t.graph? 1 (msgInst m) = some { g with gate := .opened, reply := none } ∧ .placementPass 1 ∈ t.agenda ∧
      GateReplied s t g (instWord 0 (anySpilled s 1 g.inst) g.inst)) ∧
    (∀ m g, s.graph? 1 (msgInst m) = some g → (∀ r ∈ s.die1.recs, r.inst = msgInst m → r.place = []) → ∃ t, exec (.gateRefuse m) s = .next t ∧
      t.graph? 1 (msgInst m) = none ∧ (∀ r ∈ t.die1.recs, r.inst ≠ msgInst m) ∧ (∀ e ∈ t.die1.predec, e.inst ≠ msgInst m) ∧
      GateReplied s t g (instWord (msgErr m) false 0)) ∧
    (∀ d m, exec (.reservedKindMessage d m) s = .next (s.record d { kind := 0x56, info := (m.extractLsb' 124 4).toNat })) ∧
    (∀ q k u img v ext, let p := packetOf k.bytes;
      let rs := (recsOf p k.ctx k.inst img).2;
      let es := rs.flatMap (fun r => allSucc r []) ++ ext.filter (fun e => e.testBit 15);
      let mine := rs.filter (fun r => dieByEntries es r.tidx == 1);
      s.spanIn.find? (fun x => x.q == q) = some k → s.dieDown 1 = false → (∀ o ∈ s.spanIn, q ≤ o.q) → s.die1.graphs.length < 256 →
      readVirt s k.ctx p.tva (128 * (p.nm1 + 1)) = (u, .data img) → readExts u k.ctx rs [] = (v, .inl ext) → v.die1.hasRoom mine.length = true →
      ∃ t, exec (.spanPacketForward q) s = .next t ∧ (∀ o ∈ t.spanIn, o.q ≠ q) ∧ (∃ l m, t.agenda = l ++ [.phaseJoin m] ∧ msgKind m = 1) ∧
        (∃ g ∈ t.die1.graphs, g.ctx = k.ctx ∧ g.inst = k.inst ∧ g.phase = p.phase ∧ g.span = true ∧ g.gate = .waiting ∧ g.left = mine.length) ∧
        (t.die1.recs.filter (fun r => r.inst == k.inst)).length = (v.die1.recs.filter (fun r => r.inst == k.inst)).length + mine.length) ∧
    (∀ q k, s.spanIn.find? (fun x => x.q == q) = some k → s.dieDown 1 = true → ∃ t, exec (.spanPacketForward q) s = .next t ∧
      (s.graph? 0 k.inst ≠ none → 0x8000 ≤ k.inst → InstOver t 0 k.inst)) ∧
    (∀ d p u wi fwd ri, let P := s.proxy d p;
      P.st = 1 → s.pins = [] → RingsRead s u P wi fwd ri →
      (wi = fwd → exec (.proxyForward d p) s = .next u) ∧
      (∀ n v w x b, n = min (wi - fwd) (2 ^ P.m - (fwd - ri)) → 0 < n → proxyCopy u P fwd n = (v, none) →
        ringPut v P.ctx P.tva (leBytes 8 (fwd + n)) = (w, true) → ringPut w P.ctx (P.sva + 16) (leBytes 8 (fwd + n)) = (x, b) →
        exec (.proxyForward d p) s = .next (proxyWake (if fwd + n < wi then x.post (.proxyForward d p) else x) d p)) ∧
      (∀ n v va, n = min (wi - fwd) (2 ^ P.m - (fwd - ri)) → 0 < n → proxyCopy u P fwd n = (v, some va) → (v.proxy d p) = P →
        ∃ t, exec (.proxyForward d p) s = .next t ∧ (t.proxy d p).st = 2 ∧ (t.proxy d p).held = [] ∧
          (t.proxy d p).sva = P.sva ∧ (t.proxy d p).tva = P.tva)) ∧
    (∀ d p, let P := s.proxy d p;
      P.st = 1 → P.held ≠ [] → P.timed = false →
      ((s.cyc - P.since).toNat < 2 ^ P.t → exec (.proxyTimeout d p) s = .next (s.post (.proxyTimeout d p))) ∧
      (2 ^ P.t ≤ (s.cyc - P.since).toNat → ∃ t, exec (.proxyTimeout d p) s = .next t ∧ (t.proxy d p) = { P with timed := true } ∧
        ((s.die d).frr = 0 → (s.die d).frBuf.length < 256 →
          (t.die d).frBuf = (s.die d).frBuf ++ [FaultRec.bits { kind := 0x58, ctx := P.ctx, info := p } s.cyc])))

/-- R317 to R321, R325 to R334, R340: an uncorrectable error reaches what it destroys and no more; a transaction is sent four times at
most; a virtual function is frozen with its tiles kept, is restored to its place, and takes turns with its group; a latency window
and a wrapped counter are reported. -/
def Obligations.FaultsAndTenants : Prop :=
  ∀ s,
    (∀ u r, s.memWf = true → isJack u = false → s.rec? (dieOf u) (s.tile u).inst (s.tile u).tidx = some r → u ∈ r.place →
      (∃ t, exec (.uncorrectableError (.tile u)) s = .next t ∧ AbortCounted t (dieOf u) r) ∧
      (∀ acc, r.chk = true → ∃ t, exec (.uncorrectableError (.checkedFire u acc)) s = .next t ∧ AbortCounted t (dieOf u) r) ∧
      (∀ acc, r.chk = false → exec (.uncorrectableError (.checkedFire u acc)) s = .next s)) ∧
    (∀ pa, s.llc = [] → localTarget s pa ≠ none → ∃ t, exec (.uncorrectableError (.line pa)) s = .next t ∧ t.poisoned pa = true ∧
      t = { s with poison := t.poison }) ∧
    (∀ c line, ∃ t, exec (.uncorrectableError (.cleanLine c line)) s = .next t ∧
      (∀ l ∈ t.llc, l.ctx = c → l.line = line → l.dirty = true) ∧ (∀ l ∈ s.llc, l.dirty = true → l ∈ t.llc) ∧
      t = { s with llc := t.llc, tlb := t.tlb }) ∧
    (∀ d k, k / 2 ^ 21 % 2 = d → (s.claim k).tkt ≠ 0 → ∃ t, exec (.uncorrectableError (.claimEntry d k)) s = .next t ∧
      t.claim k = { Claim.reset with tkt := (s.claim k).tkt } ∧ t.txns.length = s.txns.length + (s.claim k).wl.length ∧
      ∀ j, j ≠ k → t.claim j = s.claim j) ∧
    (∀ d i j r, s.rec? d i j = some r → i < 0x8000 → s.graph? d i ≠ none → ∃ t, exec (.uncorrectableError (.record d i j)) s = .next t ∧ InstOver t d i) ∧
    (∀ op, exec (.uncorrectableError (.marver op false)) s = .next s) ∧
    (∀ p, exec (.uncorrectableError (.jack p true)) s = .next (s.record (p / 8 % 2) { kind := 0x46, cls := 3, info := p })) ∧
    (∀ d kind, (s.die (d % 2)).stopped = false → ∃ t, exec (.uncorrectableError (.die d kind)) s = .next t ∧
      (t.die (d % 2)).stopped = true ∧ (t.die (d % 2)).recs = [] ∧ (t.die (d % 2)).graphs = []) ∧
    (∀ id x, s.txn? id = some x → x.resp = .pending →
      (x.tries < 3 → exec (.crcRetransmit id) s = .next (s.modTxn id (fun y => { y with tries := y.tries + 1 }))) ∧
      (3 ≤ x.tries → ∃ t, exec (.crcRetransmit id) s = .next t ∧ (t.die (dieOf x.tile)).stopped = true)) ∧
    (∀ v, (s.vf v).frozen = false → (vfTiles s v).Nodup → NoGather s → (∀ x ∈ s.txns, x.resp ≠ .poisoned ∧ ∀ va, x.resp ≠ .pageFault va) →
      ∃ t, exec (.hostFreezeCommand v) s = .next t ∧ (t.vf v).frozen = true ∧ (t.vf v).sched = false ∧ (t.vf v).since = s.cyc ∧
        (t.vf v).image = (s.vf v).image ++ (vfTiles s v).map (fun u => (u, 0x10000 * (v + 1) + u)) ∧
        ∀ u ∈ vfTiles s v, u < 0x10000 → t.tile (0x10000 * (v + 1) + u) = { s.tile u with frozen := true }) ∧
    (∀ v a k, (s.vf v).frozen = true → (s.vf v).image = [(a, k)] → groupBusy s v = false → chainFits s v (dieOf a) [pageOf a] 0 0 = true →
      (s.tile k).phase = .running → a < 0x10000 → 0x10000 ≤ k → ∃ t, exec (.restore v) s = .next t ∧ (t.vf v).frozen = false ∧
        (t.vf v).sched = true ∧ (t.vf v).image = [] ∧ (t.tile a).phase = .running ∧ (t.tile a).frozen = false ∧
        (t.tile a).tid = BitVec.ofNat 64 a ∧ (t.tile a).fa.regs = (s.tile k).fa.regs ∧ (t.tile a).fa.pc = (s.tile k).fa.pc ∧
        (t.tile a).fx.regs = (s.tile k).fx.regs ∧ (t.tile a).vregs = (s.tile k).vregs ∧ (t.tile a).spad = (s.tile k).spad ∧
        (t.tile a).sq = (s.tile k).sq ∧ (t.tile a).accs = (s.tile k).accs) ∧
    (∀ v, (s.vf v).sched = true → (s.vf v).frozen = false →
      (nextVf s v = none → exec (.sliceEnd v) s = .next (s.setVf v { s.vf v with since := s.cyc })) ∧
      (∀ u, nextVf s v = some u → ∃ t, exec (.sliceEnd v) s = .next t ∧ (t.vf v).frozen = true ∧ (t.vf v).sched = false ∧
        ((s.vf u).frozen = true → ∃ l, t.agenda = l ++ [.restore u]) ∧
        ((s.vf u).frozen = false → (t.vf u).sched = true ∧ (t.vf u).since = s.cyc))) ∧
    (∀ v p, let V := s.vf v;
      let n := 2 ^ bits V.mon 15 12;
      V.mon.getLsbD 0 = true → 6 ≤ bits V.mon 15 12 → n ≤ V.nstart → p < 32 → 99 * n ≤ 100 * cumulative V p →
      (∀ b, b < p → 100 * cumulative V b < 99 * n) → ∃ t, exec (.latencyWindowClose v) s = .next t ∧
        bits (t.vf v).mon 31 27 = p ∧ (t.vf v).buckets = [] ∧ (t.vf v).nstart = 0 ∧
        bits (t.vf v).mon 63 32 = (if bits V.mon 20 16 < p then min (2 ^ 32 - 1) (bits V.mon 63 32 + 1) else bits V.mon 63 32)) ∧
    (∀ v k, k < 4 → let V := s.vf v;
      ∃ t, exec (.counterWrap v k) s = .next t ∧ (t.vf v).cfg = V.cfg ||| (1#64 <<< (16 * k + 15)) ∧
        (V.cfg.getLsbD (16 * k + 14) = false → t.pmem = s.pmem) ∧
        (V.cfg.getLsbD (16 * k + 14) = true → V.irq.getLsbD 64 = true →
          t.pmem = memPutNat s.pmem (hostBase + bits V.irq 127 78) 4 (bits V.irq 31 4 * 16 + k)))

/-- R361 to R367: a jack's switch puts the pending graph in force and its port core at its entry word; an adder fires on one element
pair; an inbound request is answered from the part's memory, or its decrement message delivered, or in error; a flit leaves by the
port that its destination's entry names; the lehr opens an epoch on the dirty blocks, copies them one by one and closes. -/
def Obligations.PodPartsRun : Prop :=
  ∀ s,
    (∀ p c m, let J := s.jack p;
      J.pend = some (c, m) → (s.cyc.toNat < JackImage.swc m → exec (.jackSwitch p) s = .next s) ∧
      (JackImage.swc m ≤ s.cyc.toNat → ∃ t, exec (.jackSwitch p) s = .next t ∧
        t.jack p = { J with graph := some (c, m), old := J.graph, pend := none, epoch := !J.epoch, cnt := [] } ∧
        (JackImage.clen m ≠ 0 → (t.tile (0x1000 + p)).phase = .running ∧ (t.tile (0x1000 + p)).fa.ended = true ∧
          (t.tile (0x1000 + p)).fx.pc = BitVec.ofNat 16 (4 * JackImage.ent m) ∧ (t.tile (0x1000 + p)).fx.ended = false ∧
          (t.tile (0x1000 + p)).ctx = BitVec.ofNat 64 c ∧
          ∀ i, i < JackImage.clen m → memNat (t.tile (0x1000 + p)).code (4 * i) 4 = (JackImage.word m i).toNat))) ∧
    (∀ p c m k x y o a b, let J := s.jack p;
      AdderFed J c m k x y o a b → ∃ t, exec (.jackAdderFire p k) s = .next t ∧
        (Jack.queue (t.jack p).outq o) = Jack.queue J.outq o ++
          [{ v := BitVec.ofNat 32 (jackOp (JackImage.op m k) (JackImage.fmt m k) a.v.toNat b.v.toNat), epoch := J.epoch }] ∧
        (t.jack p).inq = Jack.pop (Jack.pop J.inq x) y ∧ t.pmem = s.pmem ∧ t.tiles = s.tiles ∧
        (JackImage.op m k = 1 → JackImage.fmt m k = 2 →
          (Jack.queue (t.jack p).outq o).getLast? = some { v := a.v + b.v, epoch := J.epoch })) ∧
    (∀ r, let a := r.addr % 2 ^ 42;
      ((s.mg.ready = false ∨ s.mg.min = true) → ∃ t, exec (.ualinkRequest r) s = .next t ∧ t.ualErr = true ∧ t.pmem = s.pmem) ∧
      (s.mg.ready = true → s.mg.min = false →
        (r.kind = .write → r.n = 16 → a % 16 = 0 → 0x3FF00000000 ≤ a → a ≤ 0x3FF0000FFFF → r.data < 2 ^ 124 →
          ∃ t m, exec (.ualinkRequest r) s = .next t ∧ t.ualErr = false ∧ t.pmem = s.pmem ∧ t.agenda = s.agenda ++ [.recordDecrement (r.data / 2 ^ 42 % 2) m] ∧
            m.ctx = r.data / 2 ^ 54 % 2 ^ 10 ∧ m.inst = r.data / 2 ^ 26 % 2 ^ 16 ∧ m.tidx = r.data / 2 ^ 43 % 2 ^ 11 ∧ m.reply = none) ∧
        (¬ (r.kind = .write ∧ r.n = 16 ∧ a % 16 = 0) → 0x3FF00000000 ≤ a → a ≤ 0x3FF0000FFFF → ∃ t, exec (.ualinkRequest r) s = .next t ∧
          t.ualErr = true ∧ t.agenda = s.agenda) ∧
        (a < 0x3FF00000000 → localTarget s a ≠ none → s.poison = [] → ∀ e, e ≤ 8 → r.n = 2 ^ e → a % r.n = 0 →
          (r.kind = .read → ∃ t, exec (.ualinkRequest r) s = .next t ∧ t.ualErr = false ∧ t.ualReply = BitVec.ofNat 2048 (memNat s.pmem a r.n) ∧
            t.pmem = s.pmem) ∧
          (r.kind = .write → ∃ t, exec (.ualinkRequest r) s = .next t ∧ t.ualErr = false ∧ t.pmem = memPutNat s.pmem a r.n r.data) ∧
          (∀ o, r.kind = .atomic o → o ≠ .fadd → (e = 2 ∨ e = 3) → ∃ t, exec (.ualinkRequest r) s = .next t ∧ t.ualErr = false ∧
            t.ualReply = BitVec.ofNat 2048 (memNat s.pmem a r.n) ∧
            t.pmem = memPutNat s.pmem a r.n (amoNew o (8 * r.n) (memNat s.pmem a r.n) (r.data % 2 ^ (8 * r.n)))) ∧
          (∀ c, r.kind = .cas c → (e = 2 ∨ e = 3) → ∃ t, exec (.ualinkRequest r) s = .next t ∧ t.ualErr = false ∧
            t.ualReply = BitVec.ofNat 2048 (memNat s.pmem a r.n) ∧
            t.pmem = if memNat s.pmem a r.n = c % 2 ^ (8 * r.n) then memPutNat s.pmem a r.n r.data else s.pmem) ∧
          (r.kind = .atomic .fadd ∨ r.kind = .other → ∃ t, exec (.ualinkRequest r) s = .next t ∧ t.ualErr = true ∧ t.pmem = s.pmem)))) ∧
    (∀ p f, let e := (s.die (p / 8 % 2)).routeOf (p % 8) (f.dest % 512);
      s.mg.ready = true → s.dieDown (p / 8 % 2) = false →
      (bits e 4 0 < 16 → ∃ t, exec (.flitForward p f) s = .next t ∧ (t.jack (bits e 4 0)).sent = (s.jack (bits e 4 0)).sent ++
        [{ f with vc := if e.getLsbD 7 then 1 else f.vc }]) ∧
      (∀ c v b, bits e 4 0 = 16 → f.load = .token c v b → ∃ t, exec (.flitForward p f) s = .next t ∧
        Jack.queue (t.jack p).inq (c % 4) = Jack.queue (s.jack p).inq (c % 4) ++ [{ v := v, epoch := b }]) ∧
      (∀ q v, bits e 4 0 = 16 → f.load = .control q v → ((s.tile (0x1000 + p)).sport (q % 4)).length < 16 → ∃ t, exec (.flitForward p f) s = .next t ∧
        (t.tile (0x1000 + p)).sport (q % 4) = (s.tile (0x1000 + p)).sport (q % 4) ++ [.filled v]) ∧
      (16 < bits e 4 0 → ∃ t, exec (.flitForward p f) s = .next t ∧ t.ualErr = true ∧ t.jacks = s.jacks)) ∧
    (s.lehr.st = .armed → s.lehr.due = true → ∃ t, exec .lehrEpochOpen s = .next t ∧ t.lehr.st = .opened ∧ t.lehr.epoch = s.lehr.epoch + 1 ∧
      t.lehr.todo = s.lehr.dirty ∧ t.lehr.dirty = [] ∧ t.lehr.opened = s.cyc ∧ t.agenda = s.agenda ++ [.lehrEpochClose]) ∧
    (s.lehr.st = .opened → s.lehr.todo ≠ [] → ∃ b ∈ s.lehr.todo, (lehrBlock s b = none → exec .lehrEpochClose s = .next (s.post .lehrEpochClose)) ∧
      ∀ u, lehrBlock s b = some u → exec .lehrEpochClose s = .next (u.post .lehrEpochClose)) ∧
    (∀ u, s.lehr.st = .opened → s.lehr.todo = [] → ringPut s s.lehr.ctx (bits s.lehr.desc 455 400) (epochRecord s) = (u, true) → u.lehr.disarm = [] →
      ∃ t, exec .lehrEpochClose s = .next t ∧ t.lehr.st = .armed ∧ t.pmem = u.pmem)

/-- R179, R365, R373 to R380: how the part starts, restarts and answers the host. The start ends ready, in minimal mode after three failed
attempts, or restarts with its cause kept; a reset wipes everything but the flash and memory outside the part; die 1 alone may be
reset and rejoins; before the part is ready only the management window answers. -/
def Obligations.PartStartsAndResets : Prop :=
  ∀ s,
    (s.mg.ready = true → ∀ r, exec (.powerGood r) s = .next s) ∧
    (∀ d, s.mg.ready = false → ∃ t, exec (.powerGood (.ready d)) s = .next t ∧ t.mg.ready = true ∧ t.mg.min = decide (3 ≤ s.mg.att) ∧
      t.mg.d1up = !t.mg.min ∧ t.mg.stage = 7 ∧ t.mg.att = 0 ∧ t.mg.cause = s.mg.cause ∧ t.mg.lcs = s.mg.lcs ∧ t.tiles = [] ∧ t.agenda = [] ∧
      t.cyc = d.getD s.cyc ∧ t.pmem = s.pmem.filter (fun c => decide (0x4000000000000 ≤ c.1))) ∧
    (∀ g c u, s.mg.ready = false → s.mg.att < 3 → ∃ t, exec (.powerGood (.fail g c u)) s = .next t ∧ Restarted s t ∧ Flash t (s.mg.att + 1) c u) ∧
    (∀ g c u, s.mg.ready = false → 3 ≤ s.mg.att → ∃ t, exec (.powerGood (.fail g c u)) s = .next t ∧ t.mg.ready = false ∧ t.mg.min = true ∧
      Flash t (min 15 (s.mg.att + 1)) s.mg.cause s.mg.unit) ∧
    (∃ t, exec (.moduleReset false) s = .next t ∧ Restarted s t ∧ Flash t s.mg.att s.mg.cause s.mg.unit ∧ t.mg.lcs = s.mg.lcs) ∧
    (∃ t, exec (.moduleReset true) s = .next t ∧ Restarted s t ∧ Flash t 0 0 0 ∧ t.mg.lcs = s.mg.lcs) ∧
    (∀ l, ∃ t, exec (.lifecycleChange l) s = .next t ∧ Restarted s t ∧ t.mg.lcs = l ∧ (l = 3 → Flash t 0 0 0) ∧
      (l ≠ 3 → Flash t s.mg.att s.mg.cause s.mg.unit)) ∧
    (∀ d, ∃ t, exec (.thermalTrip d) s = .next t ∧ Restarted s t ∧ Flash t (min 15 (s.mg.att + 1)) 0x0A 0) ∧
    (∀ d, ∃ t, exec (.tempWarning d) s = .next t ∧ (bits (s.die d).irq1 64 64 = 0 → t = s) ∧ (bits (s.die d).irq1 64 64 = 1 →
      t = { s with pmem := memPutNat s.pmem (0x4000000000000 + bits (s.die d).irq1 127 78) 4 (bits (s.die d).irq1 31 4 * 16 + 1) })) ∧
    (s.mg.ready = false → ∃ t, exec .die1Reset s = .next t ∧ Restarted s t) ∧
    (s.mg.ready = true → s.mg.min = true → rejoining s = false → exec .die1Reset s = .next s) ∧
    (s.mg.ready = true → s.mg.min = false → rejoining s = false → ∃ t l, exec .die1Reset s = .next t ∧ t.die1 = { Die.reset with stopped := true } ∧
      t.agenda = s.agenda ++ l ++ [.die1Rejoin (.ready none)] ∧ (s.die1.stopped = false → t.mg.d1up = false) ∧
      (∀ p ∈ t.tiles, p.1 < 0x1000 → p.1 / 256 % 2 ≠ 1) ∧ (∀ c ∈ t.pmem, c.1 < 0x40000000000 → c.1 < 4 * stackBytes ∨ 8 * stackBytes ≤ c.1)) ∧
    (∀ d, s.mg.ready = true → s.mg.min = false → s.mg.d1up = false → exec (.die1Rejoin (.ready d)) s =
      .next { s with die1 := { s.die1 with stopped := false }, mg := { s.mg with d1up := true } }) ∧
    (∀ g c u, s.mg.ready = true → s.mg.min = false → s.mg.d1up = false → ∃ t, exec (.die1Rejoin (.fail g c u)) s = .next t ∧ Restarted s t ∧
      Flash t (min 15 (s.mg.att + 1)) c u) ∧
    (∀ r, r.aperture = true → r.addr = 0 → r.n = 8 → r.write = false → exec (.hostAccess r) s =
      .next { s with hostRead := BitVec.ofNat 64 (mgst s), hostErr := false }) ∧
    (∀ r, r.aperture = true → 0x1000 ≤ r.addr → s.mg.ready = false → ∃ t, exec (.hostAccess r) s = .next t ∧ t.hostErr = true ∧
      t = { s with hostRead := t.hostRead, hostErr := t.hostErr }) ∧
    (∀ r off, r.aperture = true → s.mg.ready = true → s.die0.stopped = false → off < 0x10000 → off % 8 = 0 → r.n = 8 → r.write = true →
      (r.addr = 0x100000 + off → ∃ t, exec (.hostAccess r) s = .next t ∧ exec (winStep (writeSeen s r 0 off)) (writeSeen s r 0 off) = .next t) ∧
      (r.addr = 0x200000 + off → s.dieDown 1 = false → ∃ t, exec (.hostAccess r) s = .next t ∧
        exec (winStep (writeSeen s r 1 off)) (writeSeen s r 1 off) = .next t)) ∧
    (∀ r off, r.aperture = true → s.mg.ready = true → s.die0.stopped = false → off < 0x10000 → off % 8 = 0 → r.n = 8 → r.write = false →
      r.addr = 0x100000 + off → exec (.hostAccess r) s =
        .next { s with hostRead := BitVec.ofNat 64 (winVal s 0 (winAt 0 off).1 / 2 ^ (8 * (off - (winAt 0 off).2))), hostErr := false }) ∧
    (∀ r pa, r.aperture = false → r.addr = pa → s.mg.ready = true → s.die0.stopped = false → 0 < r.n → pa + r.n ≤ hbmEnd →
      localTarget s pa = some .hbm → localTarget s (pa + r.n - 1) = some .hbm → s.poison = [] →
      (r.write = false → exec (.hostAccess r) s = .next { s with hostRead := BitVec.ofNat 64 (memNat s.pmem pa r.n), hostErr := false }) ∧
      (r.write = true → exec (.hostAccess r) s = .next { s with pmem := memPutNat s.pmem pa r.n r.data, hostRead := 0, hostErr := false }))

/-- R174 to R176, R179, R180, R193 to R195, R226, R314, R315: the host's queue, ring, record and frame registers. A queue is registered or
refused with the first failed check; a write index beyond the ring stops its queue; the spill and fault rings are registered; a
parked record returns to its queue; released frames are zeroed with no line left; a doubleword below a register's highest is held. -/
def Obligations.HostRegistersAct : Prop :=
  ∀ s, let d := s.bus.die % 2;
    let q := s.bus.idx % 256;
    let v : BitVec 128 := s.bus.val.setWidth 128;
    let c := bits v 121 112;
    let base := bits v 55 0;
    let n := 2 ^ bits v 103 100 * 256;
    ((s.ctx c).live = false → exec .lqdWrite s = .next (s.setQueue d q { lqd := v, ri := 0, wi := 0, err := 1, st := 3 })) ∧
    ((s.ctx c).live = true → bits v 111 104 = 0 → exec .lqdWrite s = .next (s.setQueue d q { lqd := v, ri := 0, wi := 0, err := 2, st := 3 })) ∧
    ((s.ctx c).live = true → bits v 111 104 ≠ 0 → (base % 256 ≠ 0 ∨ 12 < bits v 103 100 ∨ bits v 127 122 ≠ 0 ∨ bits v 99 56 ≠ 0) →
      exec .lqdWrite s = .next (s.setQueue d q { lqd := v, ri := 0, wi := 0, err := 3, st := 3 })) ∧
    (∀ u ok, (s.ctx c).live = true → bits v 111 104 ≠ 0 → base % 256 = 0 → bits v 103 100 ≤ 12 → bits v 127 122 = 0 → bits v 99 56 = 0 →
      base + n ≤ 2 ^ 56 → isWindow base = false → isWindow (base + n - 1) = false →
      rangeReadable s c base ((base + n - 1) / 2 ^ 16 - base / 2 ^ 16 + 1) = (u, ok) → ∃ t, exec .lqdWrite s = .next t ∧
        (t.die d).queue q = { lqd := v, ri := 0, wi := 0, err := if ok then 0 else 4, st := if ok then 1 else 3 } ∧
        (ok = true → (∀ p ∈ (u.die d).lq, p.2.ctx ≠ c) → (t.die d).deficit = Sparse.set 0 (u.die d).deficit c 0)) ∧
    (let Q := (s.die d).queue q;
      let wi := bits s.bus.val 31 16;
      (Q.st = 1 → wi < 2 ^ bits Q.lqd 103 100 → exec .lqsWiWrite s = .next (s.setQueue d q { Q with wi := wi })) ∧
      (Q.st = 1 → 2 ^ bits Q.lqd 103 100 ≤ wi → exec .lqsWiWrite s = .next ((s.setQueue d q { Q with st := 2, err := 8 }).record d
        { kind := 0x50, ctx := bits Q.lqd 121 112, info := 8 * 2 ^ 8 + q }))) ∧
    ((s.die d).spilled ≠ 0 → exec .ovrRegister s = .next s) ∧
    ((s.die d).spilled = 0 → ∃ t, exec .ovrRegister s = .next t ∧ bits (t.die d).ovr 127 57 = bits v 127 57 ∧ (t.die d).nspill = 0 ∧
      bits (t.die d).ovr 1 0 = (if 6 ≤ bits v 61 57 ∧ bits v 61 57 ≤ 24 ∧ bits v 127 72 % 128 = 0 then 1 else 3)) ∧
    (bits (s.die d).ovr 1 0 = 2 → ∃ t, exec .ovrResume s = .next t ∧ bits (t.die d).ovr 1 0 = 1 ∧ bits (t.die d).ovr 127 2 = bits (s.die d).ovr 127 2) ∧
    ((s.die d).frBuf = [] → ∃ t, exec .frrRegister s = .next t ∧ bits (t.die d).frr 127 73 = bits v 127 73 ∧ bits (t.die d).frr 72 24 = 0 ∧
      bits (t.die d).frr 23 0 = bits (s.die d).frr 23 0) ∧
    ((s.die d).frBuf = [] → ∃ t, exec .frrRiWrite s = .next t ∧ bits (t.die d).frr 23 0 = bits s.bus.val 23 0 ∧
      bits (t.die d).frr 127 24 = bits (s.die d).frr 127 24) ∧
    (∀ i ∈ [Instr.pagesResident, .requeue, .cancelRecord], rccRec s = none → ∃ t, exec i s = .next t ∧ RccEnded t d 3 ∧ (t.die d).recs = (s.die d).recs) ∧
    (∀ r, rccRec s = some r →
      (r.st = .parked → r.parkKind = 0x40 → ∃ t, exec .pagesResident s = .next t ∧ RccEnded t d 2 ∧ Requeued s t r r.aborts) ∧
      (r.st ≠ .parked ∨ r.parkKind ≠ 0x40 → ∃ t, exec .pagesResident s = .next t ∧ RccEnded t d 3 ∧ (t.die d).recs = (s.die d).recs) ∧
      (r.st = .parked → ∃ t, exec .requeue s = .next t ∧ RccEnded t d 2 ∧ Requeued s t r 0) ∧
      (r.st ≠ .parked → ∃ t, exec .requeue s = .next t ∧ RccEnded t d 3 ∧ (t.die d).recs = (s.die d).recs) ∧
      (r.st.over = false → ∃ t, exec .cancelRecord s = .next t ∧ RccEnded t d 2 ∧ ∀ p, t.rec? d r.inst r.tidx = some p → p.st = .cancelled) ∧
      (r.st.over = true → ∃ t, exec .cancelRecord s = .next t ∧ RccEnded t d 3 ∧ (t.die d).recs = (s.die d).recs)) ∧
    (let lo := bits v 87 52 * 2 ^ 16;
      let k := (bits v 115 92 + 1) * 2 ^ 16;
      (hbmOk s lo = true → hbmOk s (lo + k - 1) = true → ∃ t, exec .frameRelease s = .next t ∧ bits t.frc 127 126 = 2 ∧
        (∀ a, lo ≤ a → a < lo + k → memGet t.pmem a = 0) ∧ (∀ a, a < lo ∨ lo + k ≤ a → memGet t.pmem a = memGet s.pmem a) ∧
        (∀ l ∈ t.llc, l.ctx = bits v 125 116 → l.pa < lo ∨ lo + k ≤ l.pa) ∧ t.tiles = s.tiles) ∧
      (hbmOk s lo = false ∨ hbmOk s (lo + k - 1) = false → ∃ t, exec .frameRelease s = .next t ∧ bits t.frc 127 126 = 3 ∧ t.pmem = s.pmem ∧ t.llc = s.llc)) ∧
    (∀ j m, s.bus.die < 2 → (winAt s.bus.die s.bus.off).1 = .route j m → s.bus.n = 1 → bits s.bus.val 7 0 &&& 0x9F ≠ 0 →
      ∃ t, exec .registerWrite s = .next t ∧ (t.die s.bus.die).routeOf j m = BitVec.ofNat 8 (bits s.bus.val 7 0 &&& 0x9F)) ∧
    (∀ i, s.bus.die < 2 → winAt s.bus.die s.bus.off = (.irq i, s.bus.off - 8) → ∃ t, exec .registerWrite s = .next t ∧
      (if i = 0 then (t.die s.bus.die).irq0 else (t.die s.bus.die).irq1) = v &&& 0xFFFFFFFFFFFFC00100000000FFFFFFFF#128) ∧
    (∀ w, s.bus.die < 2 → winAt s.bus.die s.bus.off = (w, s.bus.off) → w.bytes = 16 → s.bus.val.setWidth 64 ≠ 0#64 →
      ∃ t, exec .registerWrite s = .next t ∧ (t.die s.bus.die).held s.bus.off = s.bus.val.setWidth 64 ∧ t.tiles = s.tiles ∧ t.pmem = s.pmem) ∧
    (2 ≤ s.bus.die → s.bus.off = 0x028 → exec .registerWrite s = .next { s with mg := { s.mg with mod := s.bus.val.setWidth 9 } })

/-- R156, R181, R182, R323, R331, R359: the host's commands for contexts, and its partition, monitor and proxy entries. A command that
its entry refuses ends with status 3 and changes nothing else. -/
def Obligations.ContextCommandsAct : Prop :=
  ∀ s, let c := cmdCtx s;
    let p := cmdPhase s;
    let C := s.ctx c;
    ((∀ D, ctxDesc s c = some D → C.live = true ∨ descOk D = false) → ∃ t, exec .activate s = .next t ∧ CxcEnded t 3 ∧ t.ctxs = s.ctxs) ∧
    (∀ D, ctxDesc s c = some D → C.live = false → descOk D = true →
      let A : Ctx := { Ctx.reset with
        live := true, root := bits D 383 340, vf := bits D 339 335, sys := D.getLsbD 334, tv := (D.extractLsb' 386 33).setWidth 64 &&& 0x1FFFCFFFC,
        evb := bits D 474 419, evm := bits D 479 475 };
      (bits D 479 475 = 0 → ∃ t, exec .activate s = .next t ∧ CxcEnded t 2 ∧ t.ctx c = A) ∧
      (∀ u w wi ri, bits D 479 475 ≠ 0 → ringWord (s.setCtx c A) c (bits D 474 419) = (u, some wi) →
        ringWord u c (bits D 474 419 + 8) = (w, some ri) → (w.ctx c).live = true →
        ∃ t, exec .activate s = .next t ∧ CxcEnded t 2 ∧ t.ctx c = { w.ctx c with evwi := wi, evri := ri })) ∧
    (C.live = false → ∃ t, exec .deactivate s = .next t ∧ CxcEnded t 3 ∧ t.ctxs = s.ctxs) ∧
    (C.live = true → s.memWf = true → ∃ t, exec .deactivate s = .next t ∧ CxcEnded t 2 ∧ (t.ctx c).live = false ∧
      (∀ q ∈ t.die0.lq ++ t.die1.lq, q.2.ctx = c → q.2.st ≠ 1) ∧ (∀ x ∈ t.pins, x.ctx ≠ c) ∧ AllOver s t (fun g => g.ctx == c)) ∧
    ((C.live = false ∨ ctxDesc s c = none) → ∃ t, exec .reloadRing s = .next t ∧ CxcEnded t 3 ∧ t.ctxs = s.ctxs) ∧
    (∀ D, C.live = true → ctxDesc s c = some D →
      let A := { C with evb := bits D 474 419, evm := bits D 479 475, evwi := 0, evri := 0, evStop := false };
      (bits D 479 475 = 0 → ∃ t, exec .reloadRing s = .next t ∧ CxcEnded t 2 ∧ t.ctx c = A) ∧
      (∀ u w wi ri, bits D 479 475 ≠ 0 → ringWord (s.setCtx c A) c (bits D 474 419) = (u, some wi) →
        ringWord u c (bits D 474 419 + 8) = (w, some ri) → (w.ctx c).live = true →
        ∃ t, exec .reloadRing s = .next t ∧ CxcEnded t 2 ∧ t.ctx c = { w.ctx c with evwi := wi, evri := ri })) ∧
    ((C.live = false ∨ 2 ≤ (C.phase p).1) → ∃ t, exec .closePhase s = .next t ∧ CxcEnded t 3 ∧ t.ctxs = s.ctxs) ∧
    (C.live = true → (C.phase p).1 = 0 ∨ ((C.phase p).1 = 1 ∧ (C.phase p).2 = 0) → ∃ t, exec .closePhase s = .next t ∧ CxcEnded t 2 ∧
      ((t.ctx c).phase p).1 = 3 ∧ (t.ctx c).jobCnt = (if (C.phase p).1 = 1 then C.jobCnt - 1 else C.jobCnt)) ∧
    (∀ n, C.live = true → C.phase p = (1, n + 1) → ∃ t, exec .closePhase s = .next t ∧ CxcEnded t 2 ∧ (t.ctx c).phase p = (2, n + 1) ∧
      (t.ctx c).jobCnt = C.jobCnt) ∧
    ((C.live = false ∨ (C.phase p).1 ≠ 3 ∨ C.ended = true) → ∃ t, exec .reopenPhase s = .next t ∧ CxcEnded t 3 ∧ t.ctxs = s.ctxs) ∧
    (C.live = true → (C.phase p).1 = 3 → C.ended = false → ∃ t, exec .reopenPhase s = .next t ∧ CxcEnded t 2 ∧
      (t.ctx c).live = true ∧ t.ctx c = C.setPhase p (0, (C.phase p).2)) ∧
    ((C.live = false ∨ C.ended = true) → ∃ t, exec .endJob s = .next t ∧ CxcEnded t 3 ∧ t.ctxs = s.ctxs) ∧
    (C.live = true → C.ended = false → ∃ t, exec .endJob s = .next t ∧ CxcEnded t 2 ∧ (t.ctx c).ended = true ∧
      (t.ctx c).jobDone = (C.jobDone || decide (C.jobCnt = 0)) ∧ (t.ctx c).phases = C.phases) ∧
    (let v := s.bus.idx % 32;
      let e : BitVec 128 := s.bus.val.setWidth 128 &&& 0xFFFFFFFFFF03E000FFFFFF000001FFFF#128;
      ((partOk s v e = false ∨ ∃ u, u < 32 ∧ u ≠ v ∧ (s.vf u).grp ≠ bits e 81 77 ∧ (s.vf u).pages &&& bits e 127 88 ≠ 0) →
        exec .partitionWrite s = .next (s.record 0 { kind := 0x55, info := v })) ∧
      (partOk s v e = true → bits e 127 88 ≠ 0 → (s.vf v).frozen = false → ∃ t, exec .partitionWrite s = .next t ∧ (t.vf v).part = e ∧
        (∀ u, u ≠ v → t.vf u = s.vf u) ∧ t.agenda = s.agenda ++ [.placementPass 0, .placementPass 1] ∧
        ((∀ u, u < 32 → u ≠ v → (s.vf u).pages = 0 ∨ (s.vf u).grp ≠ bits e 81 77 ∨ (s.vf u).sched = false) → (t.vf v).sched = true))) ∧
    (let v := s.bus.idx % 32;
      let V := s.vf v;
      ∃ mon, exec .latencyMonitorWrite s = .next (s.setVf v { V with mon := mon, buckets := [], nstart := 0 }) ∧
        bits mon 20 16 = bits s.bus.val 20 16 ∧ bits mon 15 12 = bits s.bus.val 15 12 ∧ bits mon 0 0 = bits s.bus.val 0 0 ∧
        bits mon 63 21 = bits V.mon 63 21 ∧ bits mon 11 1 = bits V.mon 11 1) ∧
    (let d := s.bus.die % 2;
      let q := s.bus.idx % 64;
      let b := s.bus.val;
      ∃ t, exec .proxyPairRegister s = .next t ∧ bits (t.proxy d q).reg 511 380 = bits b 511 380 ∧ (t.proxy d q).held = [] ∧
        ((bits b 511 456 % 4096 ≠ 0 ∨ bits b 455 400 % 4096 ≠ 0 ∨ bits b 389 385 < 4 ∨ 16 < bits b 389 385 ∨ bits b 384 380 < 10 ∨ 30 < bits b 384 380) →
          (t.proxy d q).st = 3) ∧ ((t.proxy d q).st = 1 ∨ (t.proxy d q).st = 3))

/-- R22, R52, R64 (and log 2): when the tape lets a front move, the step is exec of the instruction that the word at that front's program counter
decodes to, on the state with that front in focus; a word that is none is taken as an unassigned encoding. With an empty tape the
fronts that can issue take turns. -/
def Obligations.StepRunsDecodedInstruction : Prop :=
  (∀ (s : State) u f rest i, s.tape = .front u f :: rest → decodeWord (memNat (s.tile u).code ((s.tile u).front f).pc.toNat 4) = .ok i →
    step s = exec i { s with free := s.free + 1, tape := rest, focus := (u, f) }) ∧
  (∀ (s : State) u f rest e, s.tape = .front u f :: rest → decodeWord (memNat (s.tile u).code ((s.tile u).front f).pc.toNat 4) = .error e →
    step s = exec (.unassignedEncoding (BitVec.ofNat 32 (memNat (s.tile u).code ((s.tile u).front f).pc.toNat 4)))
      { s with free := s.free + 1, tape := rest, focus := (u, f) }) ∧
  (∀ (s : State) k rest i, s.tape = .event k :: rest → s.agenda[k]? = some i →
    step s = exec i { s with free := s.free + 1, tape := rest, agenda := s.agenda.eraseIdx k }) ∧
  (∀ (s : State), s.tape = [] → s.free % 4 = 1 → running s ≠ [] → ∃ u f, (u, f) ∈ running s ∧
    step s = exec (instrOf (memNat (s.tile u).code ((s.tile u).front f).pc.toNat 4)) { s with free := s.free + 1, focus := (u, f) })

/-- R54, R56, R61 and the examples under R56 and R58: words written out field by field decode to the instructions that they stand for, and
reserved majors, functions and field values to none. -/
def Obligations.WordsDecode : Prop :=
  decodeWord 0x04642E00 = .ok (.add 3 4 5 .w64) ∧
  decodeWord 0xC018CC00 = .ok (.mma 0 1 2 3 3 .s64x128 .dense 0) ∧
  decodeWord 0xFC000001 = .ok (.himm 1) ∧
  decodeWord 0x10402345 = .ok (.addi 2 0 0x2345) ∧
  decodeWord (wordBits 0x10 [(1, 21), (2, 16), (2, 13), (0x1FFF, 0)]) = .ok (.br 1 2 .lt 0x1FFF) ∧
  decodeWord (wordBits 0x14 [(7, 21), (8, 16), (6, 10), (0x3FF, 0)]) = .ok (.lds 7 8 .s32 0x3FF) ∧
  decodeWord (wordBits 0x20 [(9, 21), (10, 16), (11, 11), (3, 8), (2, 6)]) = .ok (.vadd 9 10 11 3 .w32) ∧
  decodeWord (wordBits 0x1D [(4, 21), (6, 16), (9, 11)]) = .ok (.claim 4 6 9) ∧
  decodeWord (wordBits 0x36 [(5, 16), (6, 11)]) = .ok (.copy 5 6) ∧
  decodeWord (wordBits 0x3B [(5, 21), (6, 16)]) = .ok (.instantiate 5 6) ∧
  decodeWord (wordBits 0x3D [(1, 12)]) = .ok .eret ∧
  decodeWord 0 = .error .reservedMajor ∧ decodeWord 0x00001C00 = .error .reservedMajor ∧
  decodeWord (wordBits 0x10 [(1, 21), (2, 16), (7, 13)]) = .error .reservedField

/-- R54, R61, R64: decoding and encoding agree. Every well-formed instruction word is the one instruction of its word, and a word
that decodes is the word of what it decodes to: no bit of an encoding is dropped. -/
def Obligations.DecodeAndEncodeAgree : Prop :=
  (∀ i : Instr, i.isWord = true → i.wf = true → encodeWord i < 2 ^ 32 ∧ decodeWord (encodeWord i) = .ok i) ∧
  (∀ w i, w < 2 ^ 32 → decodeWord w = .ok i → i.isWord = true ∧ i.wf = true ∧ encodeWord i = w)

/-- No instruction and no step of the part is refused or faults: each answers a next state, in every state. -/
def Obligations.EveryInstructionAnswers : Prop :=
  (∀ i s, ∃ t, exec i s = .next t) ∧ ∀ s, ∃ t, step s = .next t

/-- R216, R375: every step keeps the memories and the tables of tiles, contexts and virtual functions in canonical form, so that equal
memories are equal
data. -/
def Obligations.MemoriesStayCanonical : Prop :=
  ∀ s t, s.memWf = true → step s = .next t → t.memWf = true

/-- R19, R26, R41, R373, R375, R379: the part at reset. Every memory and register is wiped: memory reads zero (host and pod memory too, log 4),
no tile has a strand, registers are zero, masks all ones, accumulators +0 in XF96 mode; the start is at stage 1, not ready. -/
def Obligations.ResetState : Prop :=
  let s := State.reset;
  s.memWf = true ∧ (∀ a, memGet s.pmem a = 0) ∧ s.cyc = 0 ∧ s.mg.ready = false ∧ s.mg.min = false ∧ s.mg.stage = 1 ∧ s.txns = [] ∧
    (∀ u, (s.tile u).phase = .idle ∧ (s.tile u).slv = false ∧ (s.tile u).warn = 0 ∧ (s.tile u).tvec = 0 ∧
      (∀ f r, ((s.tile u).front f).reg r = 0 ∧ ((s.tile u).front f).rmode = 0) ∧ (∀ r, (s.tile u).vreg r = 0) ∧
      (∀ k, k < 8 → (s.tile u).kregs.toList[k]? = some (BitVec.allOnes 64)) ∧ (∀ q, (s.tile u).sport q = [] ∧ (s.tile u).vport q = []) ∧
      (∀ n, n < 4 → (s.tile u).acc n = { elems := [], int := false }) ∧ ∀ a, memGet (s.tile u).spad a = 0 ∧ memGet (s.tile u).code a = 0) ∧
    (∀ c, (s.ctx c).live = false) ∧ (∀ v, (s.vf v).part = 0 ∧ (s.vf v).frozen = false) ∧ (∀ k, (s.claim k).st = .free) ∧
    (∀ d q, ((s.die d).queue q).st = 0) ∧ ∀ d, (s.die d).recs = [] ∧ (s.die d).graphs = []
end

