-- ==== Sys2Proof/Laws/Sparse.lean ====
section
/-! SUPPORT. Laws of sparse tables and of memory bytes: a read after a write, what a write leaves alone, and that every
operation keeps the canonical form. -/

namespace Sys2Proof.Machine

variable {α : Type} [DecidableEq α] {d : α}

/-- A value that is not the default reads back. -/
theorem Sparse.get_set_self (l : Sparse α) (k : Nat) {v : α} (h : v ≠ d) : Sparse.get d (Sparse.set d l k v) k = v := by
  induction l with
  | nil => simp [Sparse.set, Sparse.get, h]
  | cons p r ih =>
    obtain ⟨j, u⟩ := p
    simp only [Sparse.set, h, if_false]
    split
    · simp [Sparse.get]
    · split
      · simp [Sparse.get]
      · rename_i h1 h2
        simp [Sparse.get, Ne.symm h2, ih]

/-- A write leaves every other key alone. -/
theorem Sparse.get_set_other (l : Sparse α) {k k' : Nat} (v : α) (h : k' ≠ k) :
    Sparse.get d (Sparse.set d l k v) k' = Sparse.get d l k' := by
  induction l with
  | nil => by_cases hv : v = d <;> simp [Sparse.set, Sparse.get, hv, Ne.symm h]
  | cons p r ih =>
    obtain ⟨j, u⟩ := p
    by_cases hv : v = d <;> simp only [Sparse.set, hv, if_true, if_false] <;> split
    · rfl
    · split
      · rename_i h2; subst h2; simp [Sparse.get, Ne.symm h]
      · simp only [hv] at ih; simp [Sparse.get, ih]
    · simp [Sparse.get, Ne.symm h]
    · split
      · rename_i h2; subst h2; simp [Sparse.get, Ne.symm h]
      · simp [Sparse.get, ih]

/-- A canonical table lists no key below its bound. -/
theorem Sparse.get_below {l : Sparse α} {lo k : Nat} (h : Sparse.wfFrom d lo l = true) (hk : k < lo) : Sparse.get d l k = d := by
  induction l generalizing lo with
  | nil => rfl
  | cons p r ih =>
    obtain ⟨j, u⟩ := p
    simp only [Sparse.wfFrom, Bool.and_eq_true, decide_eq_true_eq] at h
    have hj : j ≠ k := by omega
    simp only [Sparse.get, hj, if_false]
    exact ih h.2 (by omega)

/-- In a canonical table every value reads back. -/
theorem Sparse.get_set_wf {l : Sparse α} {lo : Nat} (h : Sparse.wfFrom d lo l = true) (k : Nat) (v : α) :
    Sparse.get d (Sparse.set d l k v) k = v := by
  by_cases hv : v = d
  · subst hv
    induction l generalizing lo with
    | nil => simp [Sparse.set, Sparse.get]
    | cons p r ih =>
      obtain ⟨j, u⟩ := p
      have h' := h
      simp only [Sparse.wfFrom, Bool.and_eq_true, decide_eq_true_eq] at h'
      simp only [Sparse.set, if_true]
      split
      · rename_i hk
        have hj : j ≠ k := by omega
        simp only [Sparse.get, hj, if_false]
        exact Sparse.get_below h'.2 (by omega)
      · split
        · rename_i hk; exact Sparse.get_below h'.2 (by omega)
        · rename_i hk
          simp only [Sparse.get, Ne.symm hk, if_false]
          exact ih h'.2
  · exact Sparse.get_set_self l k hv

/-- A lower bound may be lowered. -/
theorem Sparse.wfFrom_mono {l : Sparse α} {lo lo' : Nat} (h : Sparse.wfFrom d lo l = true) (hl : lo' ≤ lo) :
    Sparse.wfFrom d lo' l = true := by
  cases l with
  | nil => rfl
  | cons p r =>
    obtain ⟨j, u⟩ := p
    simp only [Sparse.wfFrom, Bool.and_eq_true, decide_eq_true_eq] at h ⊢
    exact ⟨⟨by omega, h.1.2⟩, h.2⟩

/-- A write keeps the canonical form. -/
theorem Sparse.set_wf {l : Sparse α} {lo k : Nat} (h : Sparse.wfFrom d lo l = true) (hk : lo ≤ k) (v : α) :
    Sparse.wfFrom d lo (Sparse.set d l k v) = true := by
  induction l generalizing lo with
  | nil => by_cases hv : v = d <;> simp [Sparse.set, Sparse.wfFrom, hv, hk]
  | cons p r ih =>
    obtain ⟨j, u⟩ := p
    have h' := h
    simp only [Sparse.wfFrom, Bool.and_eq_true, decide_eq_true_eq] at h'
    by_cases hv : v = d <;> simp only [Sparse.set, hv, if_true, if_false] <;> split
    · exact h
    · split
      · exact Sparse.wfFrom_mono h'.2 (by omega)
      · simp only [hv] at ih
        simp only [Sparse.wfFrom, Bool.and_eq_true, decide_eq_true_eq]
        exact ⟨h'.1, ih h'.2 (by omega)⟩
    · simp only [Sparse.wfFrom, Bool.and_eq_true, decide_eq_true_eq]
      exact ⟨⟨hk, hv⟩, ⟨⟨by omega, h'.1.2⟩, h'.2⟩⟩
    · split
      · simp only [Sparse.wfFrom, Bool.and_eq_true, decide_eq_true_eq]
        rename_i hkj
        exact ⟨⟨by omega, hv⟩, by subst hkj; exact h'.2⟩
      · simp only [Sparse.wfFrom, Bool.and_eq_true, decide_eq_true_eq]
        exact ⟨h'.1, ih h'.2 (by omega)⟩

/-- Dropping entries keeps the canonical form. -/
theorem Sparse.filter_wf {l : Sparse α} {lo : Nat} (h : Sparse.wfFrom d lo l = true) (f : Nat × α → Bool) :
    Sparse.wfFrom d lo (l.filter f) = true := by
  induction l generalizing lo with
  | nil => rfl
  | cons p r ih =>
    obtain ⟨j, u⟩ := p
    simp only [Sparse.wfFrom, Bool.and_eq_true, decide_eq_true_eq] at h
    rw [List.filter_cons]
    split
    · simp only [Sparse.wfFrom, Bool.and_eq_true, decide_eq_true_eq]
      exact ⟨h.1, ih h.2⟩
    · exact Sparse.wfFrom_mono (ih h.2) (by omega)

/-- Two canonical tables that read alike are equal. -/
theorem Sparse.ext_wf {l m : Sparse α} {lo : Nat} (hl : Sparse.wfFrom d lo l = true) (hm : Sparse.wfFrom d lo m = true)
    (h : ∀ k, Sparse.get d l k = Sparse.get d m k) : l = m := by
  induction l generalizing lo m with
  | nil =>
    cases m with
    | nil => rfl
    | cons p r =>
      obtain ⟨j, u⟩ := p
      simp only [Sparse.wfFrom, Bool.and_eq_true, decide_eq_true_eq] at hm
      have := h j
      simp [Sparse.get] at this
      exact absurd this.symm hm.1.2
  | cons p r ih =>
    obtain ⟨j, u⟩ := p
    have hl' := hl
    simp only [Sparse.wfFrom, Bool.and_eq_true, decide_eq_true_eq] at hl'
    cases m with
    | nil =>
      have := h j
      simp [Sparse.get] at this
      exact absurd this hl'.1.2
    | cons q t =>
      obtain ⟨i, w⟩ := q
      have hm' := hm
      simp only [Sparse.wfFrom, Bool.and_eq_true, decide_eq_true_eq] at hm'
      have hij : i = j := by
        rcases Nat.lt_trichotomy i j with hlt | heq | hgt
        · have := h i
          have h1 : Sparse.get d r i = d := Sparse.get_below hl'.2 (by omega)
          simp [Sparse.get, h1, show j ≠ i by omega] at this
          exact absurd this.symm hm'.1.2
        · exact heq
        · have := h j
          have h1 : Sparse.get d t j = d := Sparse.get_below hm'.2 (by omega)
          simp [Sparse.get, h1, show i ≠ j by omega] at this
          exact absurd this hl'.1.2
      subst hij
      have huw : u = w := by simpa [Sparse.get] using h i
      subst huw
      congr 1
      refine ih hl'.2 hm'.2 fun k => ?_
      by_cases hk : k = i
      · subst hk
        rw [Sparse.get_below hl'.2 (by omega), Sparse.get_below hm'.2 (by omega)]
      · simpa [Sparse.get, Ne.symm hk] using h k

/-! ### Memory -/

theorem memGet_memSet_self {m : List Host.Cell} (h : Memory.wf m = true) (a : Nat) (v : Byte) : memGet (memSet m a v) a = v :=
  Sparse.get_set_wf h a v

theorem memGet_memSet_other (m : List Host.Cell) {a b : Nat} (v : Byte) (h : b ≠ a) : memGet (memSet m a v) b = memGet m b :=
  Sparse.get_set_other m v h

theorem memSet_wf {m : List Host.Cell} (h : Memory.wf m = true) (a : Nat) (v : Byte) : Memory.wf (memSet m a v) = true :=
  Sparse.set_wf h (Nat.zero_le a) v

theorem memPut_wf {m : List Host.Cell} (h : Memory.wf m = true) (a : Nat) (bs : List Byte) : Memory.wf (memPut m a bs) = true := by
  induction bs generalizing m a with
  | nil => exact h
  | cons b bs ih => exact ih (memSet_wf h a b) (a + 1)

theorem memPutNat_wf {m : List Host.Cell} (h : Memory.wf m = true) (a n v : Nat) : Memory.wf (memPutNat m a n v) = true :=
  memPut_wf h a _

theorem memFilter_wf {m : List Host.Cell} (h : Memory.wf m = true) (f : Host.Cell → Bool) : Memory.wf (m.filter f) = true :=
  Sparse.filter_wf h f

/-- A write of bytes leaves every byte outside them alone. -/
theorem memGet_memPut_other (m : List Host.Cell) (a : Nat) (bs : List Byte) {b : Nat} (h : b < a ∨ a + bs.length ≤ b) :
    memGet (memPut m a bs) b = memGet m b := by
  induction bs generalizing m a with
  | nil => rfl
  | cons x bs ih =>
    simp only [List.length_cons] at h
    rw [memPut, ih _ _ (by omega), memGet_memSet_other _ _ (by omega)]

/-- The bytes written read back. -/
theorem memBytes_memPut {m : List Host.Cell} (h : Memory.wf m = true) (a : Nat) (bs : List Byte) :
    memBytes (memPut m a bs) a bs.length = bs := by
  induction bs generalizing m a with
  | nil => rfl
  | cons x bs ih =>
    simp only [List.length_cons, memBytes, memPut]
    rw [ih (memSet_wf h a x), memGet_memPut_other _ _ _ (Or.inl (by omega)), memGet_memSet_self h]

@[simp] theorem leBytes_length (n v : Nat) : (leBytes n v).length = n := by
  induction n generalizing v with
  | zero => rfl
  | succ n ih => simp [leBytes, ih]

/-- Little-endian bytes give the number back (R11). -/
theorem leNat_leBytes (n v : Nat) : leNat (leBytes n v) = v % 256 ^ n := by
  induction n generalizing v with
  | zero => simp [leBytes, leNat, Nat.mod_one]
  | succ n ih =>
    have h : v % 256 ^ (n + 1) = v % 256 + 256 * (v / 256 % 256 ^ n) := by
      rw [Nat.pow_succ, Nat.mul_comm, Nat.mod_mul]
    rw [h, leBytes, leNat, ih, BitVec.toNat_ofNat]

/-- A number stored reads back modulo its width (R11). -/
theorem memNat_memPutNat {m : List Host.Cell} (h : Memory.wf m = true) (a n v : Nat) :
    memNat (memPutNat m a n v) a n = v % 256 ^ n := by
  have := memBytes_memPut h a (leBytes n v)
  rw [leBytes_length] at this
  rw [memNat, memPutNat, this, leNat_leBytes]

/-- A number stored leaves every byte outside it alone. -/
theorem memGet_memPutNat_other (m : List Host.Cell) (a n v : Nat) {b : Nat} (h : b < a ∨ a + n ≤ b) :
    memGet (memPutNat m a n v) b = memGet m b := by
  rw [memPutNat]
  exact memGet_memPut_other m a _ (by simpa using h)

end Sys2Proof.Machine
end

