-- ==== Sys2Proof/Laws/State.lean ====
section
/-! SUPPORT. What each update of the state, of a tile and of a front leaves alone: one lemma per field and update, so that no
proof unfolds a record update. -/

namespace Sys2Proof.Machine


/-! ### State.setTile -/

@[simp] theorem State.setTile_cyc (x : State) (t : Nat) (T : Tile) : (x.setTile t T).cyc = x.cyc := rfl
@[simp] theorem State.setTile_free (x : State) (t : Nat) (T : Tile) : (x.setTile t T).free = x.free := rfl
@[simp] theorem State.setTile_tape (x : State) (t : Nat) (T : Tile) : (x.setTile t T).tape = x.tape := rfl
@[simp] theorem State.setTile_agenda (x : State) (t : Nat) (T : Tile) : (x.setTile t T).agenda = x.agenda := rfl
@[simp] theorem State.setTile_focus (x : State) (t : Nat) (T : Tile) : (x.setTile t T).focus = x.focus := rfl
@[simp] theorem State.setTile_nextId (x : State) (t : Nat) (T : Tile) : (x.setTile t T).nextId = x.nextId := rfl
@[simp] theorem State.setTile_pmem (x : State) (t : Nat) (T : Tile) : (x.setTile t T).pmem = x.pmem := rfl
@[simp] theorem State.setTile_poison (x : State) (t : Nat) (T : Tile) : (x.setTile t T).poison = x.poison := rfl
@[simp] theorem State.setTile_llc (x : State) (t : Nat) (T : Tile) : (x.setTile t T).llc = x.llc := rfl
@[simp] theorem State.setTile_tlb (x : State) (t : Nat) (T : Tile) : (x.setTile t T).tlb = x.tlb := rfl
@[simp] theorem State.setTile_pins (x : State) (t : Nat) (T : Tile) : (x.setTile t T).pins = x.pins := rfl
@[simp] theorem State.setTile_txns (x : State) (t : Nat) (T : Tile) : (x.setTile t T).txns = x.txns := rfl
@[simp] theorem State.setTile_fences (x : State) (t : Nat) (T : Tile) : (x.setTile t T).fences = x.fences := rfl
@[simp] theorem State.setTile_claims (x : State) (t : Nat) (T : Tile) : (x.setTile t T).claims = x.claims := rfl
@[simp] theorem State.setTile_die0 (x : State) (t : Nat) (T : Tile) : (x.setTile t T).die0 = x.die0 := rfl
@[simp] theorem State.setTile_die1 (x : State) (t : Nat) (T : Tile) : (x.setTile t T).die1 = x.die1 := rfl
@[simp] theorem State.setTile_ctxs (x : State) (t : Nat) (T : Tile) : (x.setTile t T).ctxs = x.ctxs := rfl
@[simp] theorem State.setTile_ctb (x : State) (t : Nat) (T : Tile) : (x.setTile t T).ctb = x.ctb := rfl
@[simp] theorem State.setTile_cxc (x : State) (t : Nat) (T : Tile) : (x.setTile t T).cxc = x.cxc := rfl
@[simp] theorem State.setTile_frc (x : State) (t : Nat) (T : Tile) : (x.setTile t T).frc = x.frc := rfl
@[simp] theorem State.setTile_spanQ (x : State) (t : Nat) (T : Tile) : (x.setTile t T).spanQ = x.spanQ := rfl
@[simp] theorem State.setTile_spanIn (x : State) (t : Nat) (T : Tile) : (x.setTile t T).spanIn = x.spanIn := rfl
@[simp] theorem State.setTile_vfs (x : State) (t : Nat) (T : Tile) : (x.setTile t T).vfs = x.vfs := rfl
@[simp] theorem State.setTile_mslots (x : State) (t : Nat) (T : Tile) : (x.setTile t T).mslots = x.mslots := rfl
@[simp] theorem State.setTile_jacks (x : State) (t : Nat) (T : Tile) : (x.setTile t T).jacks = x.jacks := rfl
@[simp] theorem State.setTile_lehr (x : State) (t : Nat) (T : Tile) : (x.setTile t T).lehr = x.lehr := rfl
@[simp] theorem State.setTile_mg (x : State) (t : Nat) (T : Tile) : (x.setTile t T).mg = x.mg := rfl
@[simp] theorem State.setTile_bus (x : State) (t : Nat) (T : Tile) : (x.setTile t T).bus = x.bus := rfl
@[simp] theorem State.setTile_hostRead (x : State) (t : Nat) (T : Tile) : (x.setTile t T).hostRead = x.hostRead := rfl
@[simp] theorem State.setTile_hostErr (x : State) (t : Nat) (T : Tile) : (x.setTile t T).hostErr = x.hostErr := rfl
@[simp] theorem State.setTile_ualReply (x : State) (t : Nat) (T : Tile) : (x.setTile t T).ualReply = x.ualReply := rfl
@[simp] theorem State.setTile_ualErr (x : State) (t : Nat) (T : Tile) : (x.setTile t T).ualErr = x.ualErr := rfl

/-! ### State.modTile -/

@[simp] theorem State.modTile_cyc (x : State) (t : Nat) (g : Tile → Tile) : (x.modTile t g).cyc = x.cyc := rfl
@[simp] theorem State.modTile_free (x : State) (t : Nat) (g : Tile → Tile) : (x.modTile t g).free = x.free := rfl
@[simp] theorem State.modTile_tape (x : State) (t : Nat) (g : Tile → Tile) : (x.modTile t g).tape = x.tape := rfl
@[simp] theorem State.modTile_agenda (x : State) (t : Nat) (g : Tile → Tile) : (x.modTile t g).agenda = x.agenda := rfl
@[simp] theorem State.modTile_focus (x : State) (t : Nat) (g : Tile → Tile) : (x.modTile t g).focus = x.focus := rfl
@[simp] theorem State.modTile_nextId (x : State) (t : Nat) (g : Tile → Tile) : (x.modTile t g).nextId = x.nextId := rfl
@[simp] theorem State.modTile_pmem (x : State) (t : Nat) (g : Tile → Tile) : (x.modTile t g).pmem = x.pmem := rfl
@[simp] theorem State.modTile_poison (x : State) (t : Nat) (g : Tile → Tile) : (x.modTile t g).poison = x.poison := rfl
@[simp] theorem State.modTile_llc (x : State) (t : Nat) (g : Tile → Tile) : (x.modTile t g).llc = x.llc := rfl
@[simp] theorem State.modTile_tlb (x : State) (t : Nat) (g : Tile → Tile) : (x.modTile t g).tlb = x.tlb := rfl
@[simp] theorem State.modTile_pins (x : State) (t : Nat) (g : Tile → Tile) : (x.modTile t g).pins = x.pins := rfl
@[simp] theorem State.modTile_txns (x : State) (t : Nat) (g : Tile → Tile) : (x.modTile t g).txns = x.txns := rfl
@[simp] theorem State.modTile_fences (x : State) (t : Nat) (g : Tile → Tile) : (x.modTile t g).fences = x.fences := rfl
@[simp] theorem State.modTile_claims (x : State) (t : Nat) (g : Tile → Tile) : (x.modTile t g).claims = x.claims := rfl
@[simp] theorem State.modTile_die0 (x : State) (t : Nat) (g : Tile → Tile) : (x.modTile t g).die0 = x.die0 := rfl
@[simp] theorem State.modTile_die1 (x : State) (t : Nat) (g : Tile → Tile) : (x.modTile t g).die1 = x.die1 := rfl
@[simp] theorem State.modTile_ctxs (x : State) (t : Nat) (g : Tile → Tile) : (x.modTile t g).ctxs = x.ctxs := rfl
@[simp] theorem State.modTile_ctb (x : State) (t : Nat) (g : Tile → Tile) : (x.modTile t g).ctb = x.ctb := rfl
@[simp] theorem State.modTile_cxc (x : State) (t : Nat) (g : Tile → Tile) : (x.modTile t g).cxc = x.cxc := rfl
@[simp] theorem State.modTile_frc (x : State) (t : Nat) (g : Tile → Tile) : (x.modTile t g).frc = x.frc := rfl
@[simp] theorem State.modTile_spanQ (x : State) (t : Nat) (g : Tile → Tile) : (x.modTile t g).spanQ = x.spanQ := rfl
@[simp] theorem State.modTile_spanIn (x : State) (t : Nat) (g : Tile → Tile) : (x.modTile t g).spanIn = x.spanIn := rfl
@[simp] theorem State.modTile_vfs (x : State) (t : Nat) (g : Tile → Tile) : (x.modTile t g).vfs = x.vfs := rfl
@[simp] theorem State.modTile_mslots (x : State) (t : Nat) (g : Tile → Tile) : (x.modTile t g).mslots = x.mslots := rfl
@[simp] theorem State.modTile_jacks (x : State) (t : Nat) (g : Tile → Tile) : (x.modTile t g).jacks = x.jacks := rfl
@[simp] theorem State.modTile_lehr (x : State) (t : Nat) (g : Tile → Tile) : (x.modTile t g).lehr = x.lehr := rfl
@[simp] theorem State.modTile_mg (x : State) (t : Nat) (g : Tile → Tile) : (x.modTile t g).mg = x.mg := rfl
@[simp] theorem State.modTile_bus (x : State) (t : Nat) (g : Tile → Tile) : (x.modTile t g).bus = x.bus := rfl
@[simp] theorem State.modTile_hostRead (x : State) (t : Nat) (g : Tile → Tile) : (x.modTile t g).hostRead = x.hostRead := rfl
@[simp] theorem State.modTile_hostErr (x : State) (t : Nat) (g : Tile → Tile) : (x.modTile t g).hostErr = x.hostErr := rfl
@[simp] theorem State.modTile_ualReply (x : State) (t : Nat) (g : Tile → Tile) : (x.modTile t g).ualReply = x.ualReply := rfl
@[simp] theorem State.modTile_ualErr (x : State) (t : Nat) (g : Tile → Tile) : (x.modTile t g).ualErr = x.ualErr := rfl

/-! ### State.setCtx -/

@[simp] theorem State.setCtx_cyc (x : State) (c : Nat) (C : Ctx) : (x.setCtx c C).cyc = x.cyc := rfl
@[simp] theorem State.setCtx_free (x : State) (c : Nat) (C : Ctx) : (x.setCtx c C).free = x.free := rfl
@[simp] theorem State.setCtx_tape (x : State) (c : Nat) (C : Ctx) : (x.setCtx c C).tape = x.tape := rfl
@[simp] theorem State.setCtx_agenda (x : State) (c : Nat) (C : Ctx) : (x.setCtx c C).agenda = x.agenda := rfl
@[simp] theorem State.setCtx_focus (x : State) (c : Nat) (C : Ctx) : (x.setCtx c C).focus = x.focus := rfl
@[simp] theorem State.setCtx_nextId (x : State) (c : Nat) (C : Ctx) : (x.setCtx c C).nextId = x.nextId := rfl
@[simp] theorem State.setCtx_tiles (x : State) (c : Nat) (C : Ctx) : (x.setCtx c C).tiles = x.tiles := rfl
@[simp] theorem State.setCtx_pmem (x : State) (c : Nat) (C : Ctx) : (x.setCtx c C).pmem = x.pmem := rfl
@[simp] theorem State.setCtx_poison (x : State) (c : Nat) (C : Ctx) : (x.setCtx c C).poison = x.poison := rfl
@[simp] theorem State.setCtx_llc (x : State) (c : Nat) (C : Ctx) : (x.setCtx c C).llc = x.llc := rfl
@[simp] theorem State.setCtx_tlb (x : State) (c : Nat) (C : Ctx) : (x.setCtx c C).tlb = x.tlb := rfl
@[simp] theorem State.setCtx_pins (x : State) (c : Nat) (C : Ctx) : (x.setCtx c C).pins = x.pins := rfl
@[simp] theorem State.setCtx_txns (x : State) (c : Nat) (C : Ctx) : (x.setCtx c C).txns = x.txns := rfl
@[simp] theorem State.setCtx_fences (x : State) (c : Nat) (C : Ctx) : (x.setCtx c C).fences = x.fences := rfl
@[simp] theorem State.setCtx_claims (x : State) (c : Nat) (C : Ctx) : (x.setCtx c C).claims = x.claims := rfl
@[simp] theorem State.setCtx_die0 (x : State) (c : Nat) (C : Ctx) : (x.setCtx c C).die0 = x.die0 := rfl
@[simp] theorem State.setCtx_die1 (x : State) (c : Nat) (C : Ctx) : (x.setCtx c C).die1 = x.die1 := rfl
@[simp] theorem State.setCtx_ctb (x : State) (c : Nat) (C : Ctx) : (x.setCtx c C).ctb = x.ctb := rfl
@[simp] theorem State.setCtx_cxc (x : State) (c : Nat) (C : Ctx) : (x.setCtx c C).cxc = x.cxc := rfl
@[simp] theorem State.setCtx_frc (x : State) (c : Nat) (C : Ctx) : (x.setCtx c C).frc = x.frc := rfl
@[simp] theorem State.setCtx_spanQ (x : State) (c : Nat) (C : Ctx) : (x.setCtx c C).spanQ = x.spanQ := rfl
@[simp] theorem State.setCtx_spanIn (x : State) (c : Nat) (C : Ctx) : (x.setCtx c C).spanIn = x.spanIn := rfl
@[simp] theorem State.setCtx_vfs (x : State) (c : Nat) (C : Ctx) : (x.setCtx c C).vfs = x.vfs := rfl
@[simp] theorem State.setCtx_mslots (x : State) (c : Nat) (C : Ctx) : (x.setCtx c C).mslots = x.mslots := rfl
@[simp] theorem State.setCtx_jacks (x : State) (c : Nat) (C : Ctx) : (x.setCtx c C).jacks = x.jacks := rfl
@[simp] theorem State.setCtx_lehr (x : State) (c : Nat) (C : Ctx) : (x.setCtx c C).lehr = x.lehr := rfl
@[simp] theorem State.setCtx_mg (x : State) (c : Nat) (C : Ctx) : (x.setCtx c C).mg = x.mg := rfl
@[simp] theorem State.setCtx_bus (x : State) (c : Nat) (C : Ctx) : (x.setCtx c C).bus = x.bus := rfl
@[simp] theorem State.setCtx_hostRead (x : State) (c : Nat) (C : Ctx) : (x.setCtx c C).hostRead = x.hostRead := rfl
@[simp] theorem State.setCtx_hostErr (x : State) (c : Nat) (C : Ctx) : (x.setCtx c C).hostErr = x.hostErr := rfl
@[simp] theorem State.setCtx_ualReply (x : State) (c : Nat) (C : Ctx) : (x.setCtx c C).ualReply = x.ualReply := rfl
@[simp] theorem State.setCtx_ualErr (x : State) (c : Nat) (C : Ctx) : (x.setCtx c C).ualErr = x.ualErr := rfl

/-! ### State.setVf -/

@[simp] theorem State.setVf_cyc (x : State) (v : Nat) (V : Vf) : (x.setVf v V).cyc = x.cyc := rfl
@[simp] theorem State.setVf_free (x : State) (v : Nat) (V : Vf) : (x.setVf v V).free = x.free := rfl
@[simp] theorem State.setVf_tape (x : State) (v : Nat) (V : Vf) : (x.setVf v V).tape = x.tape := rfl
@[simp] theorem State.setVf_agenda (x : State) (v : Nat) (V : Vf) : (x.setVf v V).agenda = x.agenda := rfl
@[simp] theorem State.setVf_focus (x : State) (v : Nat) (V : Vf) : (x.setVf v V).focus = x.focus := rfl
@[simp] theorem State.setVf_nextId (x : State) (v : Nat) (V : Vf) : (x.setVf v V).nextId = x.nextId := rfl
@[simp] theorem State.setVf_tiles (x : State) (v : Nat) (V : Vf) : (x.setVf v V).tiles = x.tiles := rfl
@[simp] theorem State.setVf_pmem (x : State) (v : Nat) (V : Vf) : (x.setVf v V).pmem = x.pmem := rfl
@[simp] theorem State.setVf_poison (x : State) (v : Nat) (V : Vf) : (x.setVf v V).poison = x.poison := rfl
@[simp] theorem State.setVf_llc (x : State) (v : Nat) (V : Vf) : (x.setVf v V).llc = x.llc := rfl
@[simp] theorem State.setVf_tlb (x : State) (v : Nat) (V : Vf) : (x.setVf v V).tlb = x.tlb := rfl
@[simp] theorem State.setVf_pins (x : State) (v : Nat) (V : Vf) : (x.setVf v V).pins = x.pins := rfl
@[simp] theorem State.setVf_txns (x : State) (v : Nat) (V : Vf) : (x.setVf v V).txns = x.txns := rfl
@[simp] theorem State.setVf_fences (x : State) (v : Nat) (V : Vf) : (x.setVf v V).fences = x.fences := rfl
@[simp] theorem State.setVf_claims (x : State) (v : Nat) (V : Vf) : (x.setVf v V).claims = x.claims := rfl
@[simp] theorem State.setVf_die0 (x : State) (v : Nat) (V : Vf) : (x.setVf v V).die0 = x.die0 := rfl
@[simp] theorem State.setVf_die1 (x : State) (v : Nat) (V : Vf) : (x.setVf v V).die1 = x.die1 := rfl
@[simp] theorem State.setVf_ctxs (x : State) (v : Nat) (V : Vf) : (x.setVf v V).ctxs = x.ctxs := rfl
@[simp] theorem State.setVf_ctb (x : State) (v : Nat) (V : Vf) : (x.setVf v V).ctb = x.ctb := rfl
@[simp] theorem State.setVf_cxc (x : State) (v : Nat) (V : Vf) : (x.setVf v V).cxc = x.cxc := rfl
@[simp] theorem State.setVf_frc (x : State) (v : Nat) (V : Vf) : (x.setVf v V).frc = x.frc := rfl
@[simp] theorem State.setVf_spanQ (x : State) (v : Nat) (V : Vf) : (x.setVf v V).spanQ = x.spanQ := rfl
@[simp] theorem State.setVf_spanIn (x : State) (v : Nat) (V : Vf) : (x.setVf v V).spanIn = x.spanIn := rfl
@[simp] theorem State.setVf_mslots (x : State) (v : Nat) (V : Vf) : (x.setVf v V).mslots = x.mslots := rfl
@[simp] theorem State.setVf_jacks (x : State) (v : Nat) (V : Vf) : (x.setVf v V).jacks = x.jacks := rfl
@[simp] theorem State.setVf_lehr (x : State) (v : Nat) (V : Vf) : (x.setVf v V).lehr = x.lehr := rfl
@[simp] theorem State.setVf_mg (x : State) (v : Nat) (V : Vf) : (x.setVf v V).mg = x.mg := rfl
@[simp] theorem State.setVf_bus (x : State) (v : Nat) (V : Vf) : (x.setVf v V).bus = x.bus := rfl
@[simp] theorem State.setVf_hostRead (x : State) (v : Nat) (V : Vf) : (x.setVf v V).hostRead = x.hostRead := rfl
@[simp] theorem State.setVf_hostErr (x : State) (v : Nat) (V : Vf) : (x.setVf v V).hostErr = x.hostErr := rfl
@[simp] theorem State.setVf_ualReply (x : State) (v : Nat) (V : Vf) : (x.setVf v V).ualReply = x.ualReply := rfl
@[simp] theorem State.setVf_ualErr (x : State) (v : Nat) (V : Vf) : (x.setVf v V).ualErr = x.ualErr := rfl

/-! ### State.setClaim -/

@[simp] theorem State.setClaim_cyc (x : State) (k : Nat) (c : Claim) : (x.setClaim k c).cyc = x.cyc := rfl
@[simp] theorem State.setClaim_free (x : State) (k : Nat) (c : Claim) : (x.setClaim k c).free = x.free := rfl
@[simp] theorem State.setClaim_tape (x : State) (k : Nat) (c : Claim) : (x.setClaim k c).tape = x.tape := rfl
@[simp] theorem State.setClaim_agenda (x : State) (k : Nat) (c : Claim) : (x.setClaim k c).agenda = x.agenda := rfl
@[simp] theorem State.setClaim_focus (x : State) (k : Nat) (c : Claim) : (x.setClaim k c).focus = x.focus := rfl
@[simp] theorem State.setClaim_nextId (x : State) (k : Nat) (c : Claim) : (x.setClaim k c).nextId = x.nextId := rfl
@[simp] theorem State.setClaim_tiles (x : State) (k : Nat) (c : Claim) : (x.setClaim k c).tiles = x.tiles := rfl
@[simp] theorem State.setClaim_pmem (x : State) (k : Nat) (c : Claim) : (x.setClaim k c).pmem = x.pmem := rfl
@[simp] theorem State.setClaim_poison (x : State) (k : Nat) (c : Claim) : (x.setClaim k c).poison = x.poison := rfl
@[simp] theorem State.setClaim_llc (x : State) (k : Nat) (c : Claim) : (x.setClaim k c).llc = x.llc := rfl
@[simp] theorem State.setClaim_tlb (x : State) (k : Nat) (c : Claim) : (x.setClaim k c).tlb = x.tlb := rfl
@[simp] theorem State.setClaim_pins (x : State) (k : Nat) (c : Claim) : (x.setClaim k c).pins = x.pins := rfl
@[simp] theorem State.setClaim_txns (x : State) (k : Nat) (c : Claim) : (x.setClaim k c).txns = x.txns := rfl
@[simp] theorem State.setClaim_fences (x : State) (k : Nat) (c : Claim) : (x.setClaim k c).fences = x.fences := rfl
@[simp] theorem State.setClaim_die0 (x : State) (k : Nat) (c : Claim) : (x.setClaim k c).die0 = x.die0 := rfl
@[simp] theorem State.setClaim_die1 (x : State) (k : Nat) (c : Claim) : (x.setClaim k c).die1 = x.die1 := rfl
@[simp] theorem State.setClaim_ctxs (x : State) (k : Nat) (c : Claim) : (x.setClaim k c).ctxs = x.ctxs := rfl
@[simp] theorem State.setClaim_ctb (x : State) (k : Nat) (c : Claim) : (x.setClaim k c).ctb = x.ctb := rfl
@[simp] theorem State.setClaim_cxc (x : State) (k : Nat) (c : Claim) : (x.setClaim k c).cxc = x.cxc := rfl
@[simp] theorem State.setClaim_frc (x : State) (k : Nat) (c : Claim) : (x.setClaim k c).frc = x.frc := rfl
@[simp] theorem State.setClaim_spanQ (x : State) (k : Nat) (c : Claim) : (x.setClaim k c).spanQ = x.spanQ := rfl
@[simp] theorem State.setClaim_spanIn (x : State) (k : Nat) (c : Claim) : (x.setClaim k c).spanIn = x.spanIn := rfl
@[simp] theorem State.setClaim_vfs (x : State) (k : Nat) (c : Claim) : (x.setClaim k c).vfs = x.vfs := rfl
@[simp] theorem State.setClaim_mslots (x : State) (k : Nat) (c : Claim) : (x.setClaim k c).mslots = x.mslots := rfl
@[simp] theorem State.setClaim_jacks (x : State) (k : Nat) (c : Claim) : (x.setClaim k c).jacks = x.jacks := rfl
@[simp] theorem State.setClaim_lehr (x : State) (k : Nat) (c : Claim) : (x.setClaim k c).lehr = x.lehr := rfl
@[simp] theorem State.setClaim_mg (x : State) (k : Nat) (c : Claim) : (x.setClaim k c).mg = x.mg := rfl
@[simp] theorem State.setClaim_bus (x : State) (k : Nat) (c : Claim) : (x.setClaim k c).bus = x.bus := rfl
@[simp] theorem State.setClaim_hostRead (x : State) (k : Nat) (c : Claim) : (x.setClaim k c).hostRead = x.hostRead := rfl
@[simp] theorem State.setClaim_hostErr (x : State) (k : Nat) (c : Claim) : (x.setClaim k c).hostErr = x.hostErr := rfl
@[simp] theorem State.setClaim_ualReply (x : State) (k : Nat) (c : Claim) : (x.setClaim k c).ualReply = x.ualReply := rfl
@[simp] theorem State.setClaim_ualErr (x : State) (k : Nat) (c : Claim) : (x.setClaim k c).ualErr = x.ualErr := rfl

/-! ### State.post -/

@[simp] theorem State.post_cyc (x : State) (e : Instr) : (x.post e).cyc = x.cyc := rfl
@[simp] theorem State.post_free (x : State) (e : Instr) : (x.post e).free = x.free := rfl
@[simp] theorem State.post_tape (x : State) (e : Instr) : (x.post e).tape = x.tape := rfl
@[simp] theorem State.post_focus (x : State) (e : Instr) : (x.post e).focus = x.focus := rfl
@[simp] theorem State.post_nextId (x : State) (e : Instr) : (x.post e).nextId = x.nextId := rfl
@[simp] theorem State.post_tiles (x : State) (e : Instr) : (x.post e).tiles = x.tiles := rfl
@[simp] theorem State.post_pmem (x : State) (e : Instr) : (x.post e).pmem = x.pmem := rfl
@[simp] theorem State.post_poison (x : State) (e : Instr) : (x.post e).poison = x.poison := rfl
@[simp] theorem State.post_llc (x : State) (e : Instr) : (x.post e).llc = x.llc := rfl
@[simp] theorem State.post_tlb (x : State) (e : Instr) : (x.post e).tlb = x.tlb := rfl
@[simp] theorem State.post_pins (x : State) (e : Instr) : (x.post e).pins = x.pins := rfl
@[simp] theorem State.post_txns (x : State) (e : Instr) : (x.post e).txns = x.txns := rfl
@[simp] theorem State.post_fences (x : State) (e : Instr) : (x.post e).fences = x.fences := rfl
@[simp] theorem State.post_claims (x : State) (e : Instr) : (x.post e).claims = x.claims := rfl
@[simp] theorem State.post_die0 (x : State) (e : Instr) : (x.post e).die0 = x.die0 := rfl
@[simp] theorem State.post_die1 (x : State) (e : Instr) : (x.post e).die1 = x.die1 := rfl
@[simp] theorem State.post_ctxs (x : State) (e : Instr) : (x.post e).ctxs = x.ctxs := rfl
@[simp] theorem State.post_ctb (x : State) (e : Instr) : (x.post e).ctb = x.ctb := rfl
@[simp] theorem State.post_cxc (x : State) (e : Instr) : (x.post e).cxc = x.cxc := rfl
@[simp] theorem State.post_frc (x : State) (e : Instr) : (x.post e).frc = x.frc := rfl
@[simp] theorem State.post_spanQ (x : State) (e : Instr) : (x.post e).spanQ = x.spanQ := rfl
@[simp] theorem State.post_spanIn (x : State) (e : Instr) : (x.post e).spanIn = x.spanIn := rfl
@[simp] theorem State.post_vfs (x : State) (e : Instr) : (x.post e).vfs = x.vfs := rfl
@[simp] theorem State.post_mslots (x : State) (e : Instr) : (x.post e).mslots = x.mslots := rfl
@[simp] theorem State.post_jacks (x : State) (e : Instr) : (x.post e).jacks = x.jacks := rfl
@[simp] theorem State.post_lehr (x : State) (e : Instr) : (x.post e).lehr = x.lehr := rfl
@[simp] theorem State.post_mg (x : State) (e : Instr) : (x.post e).mg = x.mg := rfl
@[simp] theorem State.post_bus (x : State) (e : Instr) : (x.post e).bus = x.bus := rfl
@[simp] theorem State.post_hostRead (x : State) (e : Instr) : (x.post e).hostRead = x.hostRead := rfl
@[simp] theorem State.post_hostErr (x : State) (e : Instr) : (x.post e).hostErr = x.hostErr := rfl
@[simp] theorem State.post_ualReply (x : State) (e : Instr) : (x.post e).ualReply = x.ualReply := rfl
@[simp] theorem State.post_ualErr (x : State) (e : Instr) : (x.post e).ualErr = x.ualErr := rfl

/-! ### State.modTxn -/

@[simp] theorem State.modTxn_cyc (x : State) (i : Nat) (g : Txn → Txn) : (x.modTxn i g).cyc = x.cyc := rfl
@[simp] theorem State.modTxn_free (x : State) (i : Nat) (g : Txn → Txn) : (x.modTxn i g).free = x.free := rfl
@[simp] theorem State.modTxn_tape (x : State) (i : Nat) (g : Txn → Txn) : (x.modTxn i g).tape = x.tape := rfl
@[simp] theorem State.modTxn_agenda (x : State) (i : Nat) (g : Txn → Txn) : (x.modTxn i g).agenda = x.agenda := rfl
@[simp] theorem State.modTxn_focus (x : State) (i : Nat) (g : Txn → Txn) : (x.modTxn i g).focus = x.focus := rfl
@[simp] theorem State.modTxn_nextId (x : State) (i : Nat) (g : Txn → Txn) : (x.modTxn i g).nextId = x.nextId := rfl
@[simp] theorem State.modTxn_tiles (x : State) (i : Nat) (g : Txn → Txn) : (x.modTxn i g).tiles = x.tiles := rfl
@[simp] theorem State.modTxn_pmem (x : State) (i : Nat) (g : Txn → Txn) : (x.modTxn i g).pmem = x.pmem := rfl
@[simp] theorem State.modTxn_poison (x : State) (i : Nat) (g : Txn → Txn) : (x.modTxn i g).poison = x.poison := rfl
@[simp] theorem State.modTxn_llc (x : State) (i : Nat) (g : Txn → Txn) : (x.modTxn i g).llc = x.llc := rfl
@[simp] theorem State.modTxn_tlb (x : State) (i : Nat) (g : Txn → Txn) : (x.modTxn i g).tlb = x.tlb := rfl
@[simp] theorem State.modTxn_pins (x : State) (i : Nat) (g : Txn → Txn) : (x.modTxn i g).pins = x.pins := rfl
@[simp] theorem State.modTxn_fences (x : State) (i : Nat) (g : Txn → Txn) : (x.modTxn i g).fences = x.fences := rfl
@[simp] theorem State.modTxn_claims (x : State) (i : Nat) (g : Txn → Txn) : (x.modTxn i g).claims = x.claims := rfl
@[simp] theorem State.modTxn_die0 (x : State) (i : Nat) (g : Txn → Txn) : (x.modTxn i g).die0 = x.die0 := rfl
@[simp] theorem State.modTxn_die1 (x : State) (i : Nat) (g : Txn → Txn) : (x.modTxn i g).die1 = x.die1 := rfl
@[simp] theorem State.modTxn_ctxs (x : State) (i : Nat) (g : Txn → Txn) : (x.modTxn i g).ctxs = x.ctxs := rfl
@[simp] theorem State.modTxn_ctb (x : State) (i : Nat) (g : Txn → Txn) : (x.modTxn i g).ctb = x.ctb := rfl
@[simp] theorem State.modTxn_cxc (x : State) (i : Nat) (g : Txn → Txn) : (x.modTxn i g).cxc = x.cxc := rfl
@[simp] theorem State.modTxn_frc (x : State) (i : Nat) (g : Txn → Txn) : (x.modTxn i g).frc = x.frc := rfl
@[simp] theorem State.modTxn_spanQ (x : State) (i : Nat) (g : Txn → Txn) : (x.modTxn i g).spanQ = x.spanQ := rfl
@[simp] theorem State.modTxn_spanIn (x : State) (i : Nat) (g : Txn → Txn) : (x.modTxn i g).spanIn = x.spanIn := rfl
@[simp] theorem State.modTxn_vfs (x : State) (i : Nat) (g : Txn → Txn) : (x.modTxn i g).vfs = x.vfs := rfl
@[simp] theorem State.modTxn_mslots (x : State) (i : Nat) (g : Txn → Txn) : (x.modTxn i g).mslots = x.mslots := rfl
@[simp] theorem State.modTxn_jacks (x : State) (i : Nat) (g : Txn → Txn) : (x.modTxn i g).jacks = x.jacks := rfl
@[simp] theorem State.modTxn_lehr (x : State) (i : Nat) (g : Txn → Txn) : (x.modTxn i g).lehr = x.lehr := rfl
@[simp] theorem State.modTxn_mg (x : State) (i : Nat) (g : Txn → Txn) : (x.modTxn i g).mg = x.mg := rfl
@[simp] theorem State.modTxn_bus (x : State) (i : Nat) (g : Txn → Txn) : (x.modTxn i g).bus = x.bus := rfl
@[simp] theorem State.modTxn_hostRead (x : State) (i : Nat) (g : Txn → Txn) : (x.modTxn i g).hostRead = x.hostRead := rfl
@[simp] theorem State.modTxn_hostErr (x : State) (i : Nat) (g : Txn → Txn) : (x.modTxn i g).hostErr = x.hostErr := rfl
@[simp] theorem State.modTxn_ualReply (x : State) (i : Nat) (g : Txn → Txn) : (x.modTxn i g).ualReply = x.ualReply := rfl
@[simp] theorem State.modTxn_ualErr (x : State) (i : Nat) (g : Txn → Txn) : (x.modTxn i g).ualErr = x.ualErr := rfl

/-! ### State.dropTxn -/

@[simp] theorem State.dropTxn_cyc (x : State) (i : Nat) : (x.dropTxn i).cyc = x.cyc := rfl
@[simp] theorem State.dropTxn_free (x : State) (i : Nat) : (x.dropTxn i).free = x.free := rfl
@[simp] theorem State.dropTxn_tape (x : State) (i : Nat) : (x.dropTxn i).tape = x.tape := rfl
@[simp] theorem State.dropTxn_agenda (x : State) (i : Nat) : (x.dropTxn i).agenda = x.agenda := rfl
@[simp] theorem State.dropTxn_focus (x : State) (i : Nat) : (x.dropTxn i).focus = x.focus := rfl
@[simp] theorem State.dropTxn_nextId (x : State) (i : Nat) : (x.dropTxn i).nextId = x.nextId := rfl
@[simp] theorem State.dropTxn_tiles (x : State) (i : Nat) : (x.dropTxn i).tiles = x.tiles := rfl
@[simp] theorem State.dropTxn_pmem (x : State) (i : Nat) : (x.dropTxn i).pmem = x.pmem := rfl
@[simp] theorem State.dropTxn_poison (x : State) (i : Nat) : (x.dropTxn i).poison = x.poison := rfl
@[simp] theorem State.dropTxn_llc (x : State) (i : Nat) : (x.dropTxn i).llc = x.llc := rfl
@[simp] theorem State.dropTxn_tlb (x : State) (i : Nat) : (x.dropTxn i).tlb = x.tlb := rfl
@[simp] theorem State.dropTxn_pins (x : State) (i : Nat) : (x.dropTxn i).pins = x.pins := rfl
@[simp] theorem State.dropTxn_fences (x : State) (i : Nat) : (x.dropTxn i).fences = x.fences := rfl
@[simp] theorem State.dropTxn_claims (x : State) (i : Nat) : (x.dropTxn i).claims = x.claims := rfl
@[simp] theorem State.dropTxn_die0 (x : State) (i : Nat) : (x.dropTxn i).die0 = x.die0 := rfl
@[simp] theorem State.dropTxn_die1 (x : State) (i : Nat) : (x.dropTxn i).die1 = x.die1 := rfl
@[simp] theorem State.dropTxn_ctxs (x : State) (i : Nat) : (x.dropTxn i).ctxs = x.ctxs := rfl
@[simp] theorem State.dropTxn_ctb (x : State) (i : Nat) : (x.dropTxn i).ctb = x.ctb := rfl
@[simp] theorem State.dropTxn_cxc (x : State) (i : Nat) : (x.dropTxn i).cxc = x.cxc := rfl
@[simp] theorem State.dropTxn_frc (x : State) (i : Nat) : (x.dropTxn i).frc = x.frc := rfl
@[simp] theorem State.dropTxn_spanQ (x : State) (i : Nat) : (x.dropTxn i).spanQ = x.spanQ := rfl
@[simp] theorem State.dropTxn_spanIn (x : State) (i : Nat) : (x.dropTxn i).spanIn = x.spanIn := rfl
@[simp] theorem State.dropTxn_vfs (x : State) (i : Nat) : (x.dropTxn i).vfs = x.vfs := rfl
@[simp] theorem State.dropTxn_mslots (x : State) (i : Nat) : (x.dropTxn i).mslots = x.mslots := rfl
@[simp] theorem State.dropTxn_jacks (x : State) (i : Nat) : (x.dropTxn i).jacks = x.jacks := rfl
@[simp] theorem State.dropTxn_lehr (x : State) (i : Nat) : (x.dropTxn i).lehr = x.lehr := rfl
@[simp] theorem State.dropTxn_mg (x : State) (i : Nat) : (x.dropTxn i).mg = x.mg := rfl
@[simp] theorem State.dropTxn_bus (x : State) (i : Nat) : (x.dropTxn i).bus = x.bus := rfl
@[simp] theorem State.dropTxn_hostRead (x : State) (i : Nat) : (x.dropTxn i).hostRead = x.hostRead := rfl
@[simp] theorem State.dropTxn_hostErr (x : State) (i : Nat) : (x.dropTxn i).hostErr = x.hostErr := rfl
@[simp] theorem State.dropTxn_ualReply (x : State) (i : Nat) : (x.dropTxn i).ualReply = x.ualReply := rfl
@[simp] theorem State.dropTxn_ualErr (x : State) (i : Nat) : (x.dropTxn i).ualErr = x.ualErr := rfl

/-! ### State.setDie -/

@[simp] theorem State.setDie_cyc (x : State) (d : Nat) (D : Die) : (x.setDie d D).cyc = x.cyc := by unfold State.setDie; split <;> rfl
@[simp] theorem State.setDie_free (x : State) (d : Nat) (D : Die) : (x.setDie d D).free = x.free := by unfold State.setDie; split <;> rfl
@[simp] theorem State.setDie_tape (x : State) (d : Nat) (D : Die) : (x.setDie d D).tape = x.tape := by unfold State.setDie; split <;> rfl
@[simp] theorem State.setDie_agenda (x : State) (d : Nat) (D : Die) : (x.setDie d D).agenda = x.agenda := by unfold State.setDie; split <;> rfl
@[simp] theorem State.setDie_focus (x : State) (d : Nat) (D : Die) : (x.setDie d D).focus = x.focus := by unfold State.setDie; split <;> rfl
@[simp] theorem State.setDie_nextId (x : State) (d : Nat) (D : Die) : (x.setDie d D).nextId = x.nextId := by unfold State.setDie; split <;> rfl
@[simp] theorem State.setDie_tiles (x : State) (d : Nat) (D : Die) : (x.setDie d D).tiles = x.tiles := by unfold State.setDie; split <;> rfl
@[simp] theorem State.setDie_pmem (x : State) (d : Nat) (D : Die) : (x.setDie d D).pmem = x.pmem := by unfold State.setDie; split <;> rfl
@[simp] theorem State.setDie_poison (x : State) (d : Nat) (D : Die) : (x.setDie d D).poison = x.poison := by unfold State.setDie; split <;> rfl
@[simp] theorem State.setDie_llc (x : State) (d : Nat) (D : Die) : (x.setDie d D).llc = x.llc := by unfold State.setDie; split <;> rfl
@[simp] theorem State.setDie_tlb (x : State) (d : Nat) (D : Die) : (x.setDie d D).tlb = x.tlb := by unfold State.setDie; split <;> rfl
@[simp] theorem State.setDie_pins (x : State) (d : Nat) (D : Die) : (x.setDie d D).pins = x.pins := by unfold State.setDie; split <;> rfl
@[simp] theorem State.setDie_txns (x : State) (d : Nat) (D : Die) : (x.setDie d D).txns = x.txns := by unfold State.setDie; split <;> rfl
@[simp] theorem State.setDie_fences (x : State) (d : Nat) (D : Die) : (x.setDie d D).fences = x.fences := by unfold State.setDie; split <;> rfl
@[simp] theorem State.setDie_claims (x : State) (d : Nat) (D : Die) : (x.setDie d D).claims = x.claims := by unfold State.setDie; split <;> rfl
@[simp] theorem State.setDie_ctxs (x : State) (d : Nat) (D : Die) : (x.setDie d D).ctxs = x.ctxs := by unfold State.setDie; split <;> rfl
@[simp] theorem State.setDie_ctb (x : State) (d : Nat) (D : Die) : (x.setDie d D).ctb = x.ctb := by unfold State.setDie; split <;> rfl
@[simp] theorem State.setDie_cxc (x : State) (d : Nat) (D : Die) : (x.setDie d D).cxc = x.cxc := by unfold State.setDie; split <;> rfl
@[simp] theorem State.setDie_frc (x : State) (d : Nat) (D : Die) : (x.setDie d D).frc = x.frc := by unfold State.setDie; split <;> rfl
@[simp] theorem State.setDie_spanQ (x : State) (d : Nat) (D : Die) : (x.setDie d D).spanQ = x.spanQ := by unfold State.setDie; split <;> rfl
@[simp] theorem State.setDie_spanIn (x : State) (d : Nat) (D : Die) : (x.setDie d D).spanIn = x.spanIn := by unfold State.setDie; split <;> rfl
@[simp] theorem State.setDie_vfs (x : State) (d : Nat) (D : Die) : (x.setDie d D).vfs = x.vfs := by unfold State.setDie; split <;> rfl
@[simp] theorem State.setDie_mslots (x : State) (d : Nat) (D : Die) : (x.setDie d D).mslots = x.mslots := by unfold State.setDie; split <;> rfl
@[simp] theorem State.setDie_jacks (x : State) (d : Nat) (D : Die) : (x.setDie d D).jacks = x.jacks := by unfold State.setDie; split <;> rfl
@[simp] theorem State.setDie_lehr (x : State) (d : Nat) (D : Die) : (x.setDie d D).lehr = x.lehr := by unfold State.setDie; split <;> rfl
@[simp] theorem State.setDie_mg (x : State) (d : Nat) (D : Die) : (x.setDie d D).mg = x.mg := by unfold State.setDie; split <;> rfl
@[simp] theorem State.setDie_bus (x : State) (d : Nat) (D : Die) : (x.setDie d D).bus = x.bus := by unfold State.setDie; split <;> rfl
@[simp] theorem State.setDie_hostRead (x : State) (d : Nat) (D : Die) : (x.setDie d D).hostRead = x.hostRead := by unfold State.setDie; split <;> rfl
@[simp] theorem State.setDie_hostErr (x : State) (d : Nat) (D : Die) : (x.setDie d D).hostErr = x.hostErr := by unfold State.setDie; split <;> rfl
@[simp] theorem State.setDie_ualReply (x : State) (d : Nat) (D : Die) : (x.setDie d D).ualReply = x.ualReply := by unfold State.setDie; split <;> rfl
@[simp] theorem State.setDie_ualErr (x : State) (d : Nat) (D : Die) : (x.setDie d D).ualErr = x.ualErr := by unfold State.setDie; split <;> rfl

/-! ### What the updates write -/

@[simp] theorem State.post_agenda (x : State) (e : Instr) : (x.post e).agenda = x.agenda ++ [e] := rfl
@[simp] theorem State.setTile_tiles (x : State) (t : Nat) (T : Tile) : (x.setTile t T).tiles = Sparse.set Tile.reset x.tiles t T := rfl
@[simp] theorem State.dropTxn_txns (x : State) (i : Nat) : (x.dropTxn i).txns = x.txns.filter (fun y => y.id != i) := rfl


/-! ### Tile.setFront -/

@[simp] theorem Tile.setFront_phase (x : Tile) (f : Front) (F : FrontState) : (x.setFront f F).phase = x.phase := by cases f <;> rfl
@[simp] theorem Tile.setFront_frozen (x : Tile) (f : Front) (F : FrontState) : (x.setFront f F).frozen = x.frozen := by cases f <;> rfl
@[simp] theorem Tile.setFront_vf (x : Tile) (f : Front) (F : FrontState) : (x.setFront f F).vf = x.vf := by cases f <;> rfl
@[simp] theorem Tile.setFront_inst (x : Tile) (f : Front) (F : FrontState) : (x.setFront f F).inst = x.inst := by cases f <;> rfl
@[simp] theorem Tile.setFront_tidx (x : Tile) (f : Front) (F : FrontState) : (x.setFront f F).tidx = x.tidx := by cases f <;> rfl
@[simp] theorem Tile.setFront_sq (x : Tile) (f : Front) (F : FrontState) : (x.setFront f F).sq = x.sq := by cases f <;> rfl
@[simp] theorem Tile.setFront_vq (x : Tile) (f : Front) (F : FrontState) : (x.setFront f F).vq = x.vq := by cases f <;> rfl
@[simp] theorem Tile.setFront_vregs (x : Tile) (f : Front) (F : FrontState) : (x.setFront f F).vregs = x.vregs := by cases f <;> rfl
@[simp] theorem Tile.setFront_kregs (x : Tile) (f : Front) (F : FrontState) : (x.setFront f F).kregs = x.kregs := by cases f <;> rfl
@[simp] theorem Tile.setFront_warn (x : Tile) (f : Front) (F : FrontState) : (x.setFront f F).warn = x.warn := by cases f <;> rfl
@[simp] theorem Tile.setFront_tid (x : Tile) (f : Front) (F : FrontState) : (x.setFront f F).tid = x.tid := by cases f <;> rfl
@[simp] theorem Tile.setFront_rank (x : Tile) (f : Front) (F : FrontState) : (x.setFront f F).rank = x.rank := by cases f <;> rfl
@[simp] theorem Tile.setFront_crect (x : Tile) (f : Front) (F : FrontState) : (x.setFront f F).crect = x.crect := by cases f <;> rfl
@[simp] theorem Tile.setFront_ctx (x : Tile) (f : Front) (F : FrontState) : (x.setFront f F).ctx = x.ctx := by cases f <;> rfl
@[simp] theorem Tile.setFront_tvec (x : Tile) (f : Front) (F : FrontState) : (x.setFront f F).tvec = x.tvec := by cases f <;> rfl
@[simp] theorem Tile.setFront_tcause (x : Tile) (f : Front) (F : FrontState) : (x.setFront f F).tcause = x.tcause := by cases f <;> rfl
@[simp] theorem Tile.setFront_tval (x : Tile) (f : Front) (F : FrontState) : (x.setFront f F).tval = x.tval := by cases f <;> rfl
@[simp] theorem Tile.setFront_epca (x : Tile) (f : Front) (F : FrontState) : (x.setFront f F).epca = x.epca := by cases f <;> rfl
@[simp] theorem Tile.setFront_epcx (x : Tile) (f : Front) (F : FrontState) : (x.setFront f F).epcx = x.epcx := by cases f <;> rfl
@[simp] theorem Tile.setFront_slv (x : Tile) (f : Front) (F : FrontState) : (x.setFront f F).slv = x.slv := by cases f <;> rfl
@[simp] theorem Tile.setFront_held (x : Tile) (f : Front) (F : FrontState) : (x.setFront f F).held = x.held := by cases f <;> rfl
@[simp] theorem Tile.setFront_accs (x : Tile) (f : Front) (F : FrontState) : (x.setFront f F).accs = x.accs := by cases f <;> rfl
@[simp] theorem Tile.setFront_rings (x : Tile) (f : Front) (F : FrontState) : (x.setFront f F).rings = x.rings := by cases f <;> rfl
@[simp] theorem Tile.setFront_chains (x : Tile) (f : Front) (F : FrontState) : (x.setFront f F).chains = x.chains := by cases f <;> rfl
@[simp] theorem Tile.setFront_mq (x : Tile) (f : Front) (F : FrontState) : (x.setFront f F).mq = x.mq := by cases f <;> rfl
@[simp] theorem Tile.setFront_slots (x : Tile) (f : Front) (F : FrontState) : (x.setFront f F).slots = x.slots := by cases f <;> rfl
@[simp] theorem Tile.setFront_fires (x : Tile) (f : Front) (F : FrontState) : (x.setFront f F).fires = x.fires := by cases f <;> rfl
@[simp] theorem Tile.setFront_sb (x : Tile) (f : Front) (F : FrontState) : (x.setFront f F).sb = x.sb := by cases f <;> rfl
@[simp] theorem Tile.setFront_fills (x : Tile) (f : Front) (F : FrontState) : (x.setFront f F).fills = x.fills := by cases f <;> rfl
@[simp] theorem Tile.setFront_tswaps (x : Tile) (f : Front) (F : FrontState) : (x.setFront f F).tswaps = x.tswaps := by cases f <;> rfl
@[simp] theorem Tile.setFront_spad (x : Tile) (f : Front) (F : FrontState) : (x.setFront f F).spad = x.spad := by cases f <;> rfl
@[simp] theorem Tile.setFront_code (x : Tile) (f : Front) (F : FrontState) : (x.setFront f F).code = x.code := by cases f <;> rfl
@[simp] theorem Tile.setFront_gather (x : Tile) (f : Front) (F : FrontState) : (x.setFront f F).gather = x.gather := by cases f <;> rfl
@[simp] theorem Tile.setFront_chans (x : Tile) (f : Front) (F : FrontState) : (x.setFront f F).chans = x.chans := by cases f <;> rfl
@[simp] theorem Tile.setFront_arrivals (x : Tile) (f : Front) (F : FrontState) : (x.setFront f F).arrivals = x.arrivals := by cases f <;> rfl
@[simp] theorem Tile.setFront_seen (x : Tile) (f : Front) (F : FrontState) : (x.setFront f F).seen = x.seen := by cases f <;> rfl
@[simp] theorem Tile.setFront_pipes (x : Tile) (f : Front) (F : FrontState) : (x.setFront f F).pipes = x.pipes := by cases f <;> rfl
@[simp] theorem Tile.setFront_cslots (x : Tile) (f : Front) (F : FrontState) : (x.setFront f F).cslots = x.cslots := by cases f <;> rfl
@[simp] theorem Tile.setFront_handles (x : Tile) (f : Front) (F : FrontState) : (x.setFront f F).handles = x.handles := by cases f <;> rfl
@[simp] theorem Tile.setFront_fibre (x : Tile) (f : Front) (F : FrontState) : (x.setFront f F).fibre = x.fibre := by cases f <;> rfl
@[simp] theorem Tile.setFront_tiles (x : Tile) (f : Front) (F : FrontState) : (x.setFront f F).tiles = x.tiles := by cases f <;> rfl
@[simp] theorem Tile.setFront_events (x : Tile) (f : Front) (F : FrontState) : (x.setFront f F).events = x.events := by cases f <;> rfl

/-! ### Tile.modFront -/

@[simp] theorem Tile.modFront_phase (x : Tile) (f : Front) (g : FrontState → FrontState) : (x.modFront f g).phase = x.phase := by cases f <;> rfl
@[simp] theorem Tile.modFront_frozen (x : Tile) (f : Front) (g : FrontState → FrontState) : (x.modFront f g).frozen = x.frozen := by cases f <;> rfl
@[simp] theorem Tile.modFront_vf (x : Tile) (f : Front) (g : FrontState → FrontState) : (x.modFront f g).vf = x.vf := by cases f <;> rfl
@[simp] theorem Tile.modFront_inst (x : Tile) (f : Front) (g : FrontState → FrontState) : (x.modFront f g).inst = x.inst := by cases f <;> rfl
@[simp] theorem Tile.modFront_tidx (x : Tile) (f : Front) (g : FrontState → FrontState) : (x.modFront f g).tidx = x.tidx := by cases f <;> rfl
@[simp] theorem Tile.modFront_sq (x : Tile) (f : Front) (g : FrontState → FrontState) : (x.modFront f g).sq = x.sq := by cases f <;> rfl
@[simp] theorem Tile.modFront_vq (x : Tile) (f : Front) (g : FrontState → FrontState) : (x.modFront f g).vq = x.vq := by cases f <;> rfl
@[simp] theorem Tile.modFront_vregs (x : Tile) (f : Front) (g : FrontState → FrontState) : (x.modFront f g).vregs = x.vregs := by cases f <;> rfl
@[simp] theorem Tile.modFront_kregs (x : Tile) (f : Front) (g : FrontState → FrontState) : (x.modFront f g).kregs = x.kregs := by cases f <;> rfl
@[simp] theorem Tile.modFront_warn (x : Tile) (f : Front) (g : FrontState → FrontState) : (x.modFront f g).warn = x.warn := by cases f <;> rfl
@[simp] theorem Tile.modFront_tid (x : Tile) (f : Front) (g : FrontState → FrontState) : (x.modFront f g).tid = x.tid := by cases f <;> rfl
@[simp] theorem Tile.modFront_rank (x : Tile) (f : Front) (g : FrontState → FrontState) : (x.modFront f g).rank = x.rank := by cases f <;> rfl
@[simp] theorem Tile.modFront_crect (x : Tile) (f : Front) (g : FrontState → FrontState) : (x.modFront f g).crect = x.crect := by cases f <;> rfl
@[simp] theorem Tile.modFront_ctx (x : Tile) (f : Front) (g : FrontState → FrontState) : (x.modFront f g).ctx = x.ctx := by cases f <;> rfl
@[simp] theorem Tile.modFront_tvec (x : Tile) (f : Front) (g : FrontState → FrontState) : (x.modFront f g).tvec = x.tvec := by cases f <;> rfl
@[simp] theorem Tile.modFront_tcause (x : Tile) (f : Front) (g : FrontState → FrontState) : (x.modFront f g).tcause = x.tcause := by cases f <;> rfl
@[simp] theorem Tile.modFront_tval (x : Tile) (f : Front) (g : FrontState → FrontState) : (x.modFront f g).tval = x.tval := by cases f <;> rfl
@[simp] theorem Tile.modFront_epca (x : Tile) (f : Front) (g : FrontState → FrontState) : (x.modFront f g).epca = x.epca := by cases f <;> rfl
@[simp] theorem Tile.modFront_epcx (x : Tile) (f : Front) (g : FrontState → FrontState) : (x.modFront f g).epcx = x.epcx := by cases f <;> rfl
@[simp] theorem Tile.modFront_slv (x : Tile) (f : Front) (g : FrontState → FrontState) : (x.modFront f g).slv = x.slv := by cases f <;> rfl
@[simp] theorem Tile.modFront_held (x : Tile) (f : Front) (g : FrontState → FrontState) : (x.modFront f g).held = x.held := by cases f <;> rfl
@[simp] theorem Tile.modFront_accs (x : Tile) (f : Front) (g : FrontState → FrontState) : (x.modFront f g).accs = x.accs := by cases f <;> rfl
@[simp] theorem Tile.modFront_rings (x : Tile) (f : Front) (g : FrontState → FrontState) : (x.modFront f g).rings = x.rings := by cases f <;> rfl
@[simp] theorem Tile.modFront_chains (x : Tile) (f : Front) (g : FrontState → FrontState) : (x.modFront f g).chains = x.chains := by cases f <;> rfl
@[simp] theorem Tile.modFront_mq (x : Tile) (f : Front) (g : FrontState → FrontState) : (x.modFront f g).mq = x.mq := by cases f <;> rfl
@[simp] theorem Tile.modFront_slots (x : Tile) (f : Front) (g : FrontState → FrontState) : (x.modFront f g).slots = x.slots := by cases f <;> rfl
@[simp] theorem Tile.modFront_fires (x : Tile) (f : Front) (g : FrontState → FrontState) : (x.modFront f g).fires = x.fires := by cases f <;> rfl
@[simp] theorem Tile.modFront_sb (x : Tile) (f : Front) (g : FrontState → FrontState) : (x.modFront f g).sb = x.sb := by cases f <;> rfl
@[simp] theorem Tile.modFront_fills (x : Tile) (f : Front) (g : FrontState → FrontState) : (x.modFront f g).fills = x.fills := by cases f <;> rfl
@[simp] theorem Tile.modFront_tswaps (x : Tile) (f : Front) (g : FrontState → FrontState) : (x.modFront f g).tswaps = x.tswaps := by cases f <;> rfl
@[simp] theorem Tile.modFront_spad (x : Tile) (f : Front) (g : FrontState → FrontState) : (x.modFront f g).spad = x.spad := by cases f <;> rfl
@[simp] theorem Tile.modFront_code (x : Tile) (f : Front) (g : FrontState → FrontState) : (x.modFront f g).code = x.code := by cases f <;> rfl
@[simp] theorem Tile.modFront_gather (x : Tile) (f : Front) (g : FrontState → FrontState) : (x.modFront f g).gather = x.gather := by cases f <;> rfl
@[simp] theorem Tile.modFront_chans (x : Tile) (f : Front) (g : FrontState → FrontState) : (x.modFront f g).chans = x.chans := by cases f <;> rfl
@[simp] theorem Tile.modFront_arrivals (x : Tile) (f : Front) (g : FrontState → FrontState) : (x.modFront f g).arrivals = x.arrivals := by cases f <;> rfl
@[simp] theorem Tile.modFront_seen (x : Tile) (f : Front) (g : FrontState → FrontState) : (x.modFront f g).seen = x.seen := by cases f <;> rfl
@[simp] theorem Tile.modFront_pipes (x : Tile) (f : Front) (g : FrontState → FrontState) : (x.modFront f g).pipes = x.pipes := by cases f <;> rfl
@[simp] theorem Tile.modFront_cslots (x : Tile) (f : Front) (g : FrontState → FrontState) : (x.modFront f g).cslots = x.cslots := by cases f <;> rfl
@[simp] theorem Tile.modFront_handles (x : Tile) (f : Front) (g : FrontState → FrontState) : (x.modFront f g).handles = x.handles := by cases f <;> rfl
@[simp] theorem Tile.modFront_fibre (x : Tile) (f : Front) (g : FrontState → FrontState) : (x.modFront f g).fibre = x.fibre := by cases f <;> rfl
@[simp] theorem Tile.modFront_tiles (x : Tile) (f : Front) (g : FrontState → FrontState) : (x.modFront f g).tiles = x.tiles := by cases f <;> rfl
@[simp] theorem Tile.modFront_events (x : Tile) (f : Front) (g : FrontState → FrontState) : (x.modFront f g).events = x.events := by cases f <;> rfl

/-! ### Tile.setSport -/

@[simp] theorem Tile.setSport_phase (x : Tile) (q : Nat) (l : List (QSlot 64)) : (x.setSport q l).phase = x.phase := rfl
@[simp] theorem Tile.setSport_frozen (x : Tile) (q : Nat) (l : List (QSlot 64)) : (x.setSport q l).frozen = x.frozen := rfl
@[simp] theorem Tile.setSport_vf (x : Tile) (q : Nat) (l : List (QSlot 64)) : (x.setSport q l).vf = x.vf := rfl
@[simp] theorem Tile.setSport_inst (x : Tile) (q : Nat) (l : List (QSlot 64)) : (x.setSport q l).inst = x.inst := rfl
@[simp] theorem Tile.setSport_tidx (x : Tile) (q : Nat) (l : List (QSlot 64)) : (x.setSport q l).tidx = x.tidx := rfl
@[simp] theorem Tile.setSport_fa (x : Tile) (q : Nat) (l : List (QSlot 64)) : (x.setSport q l).fa = x.fa := rfl
@[simp] theorem Tile.setSport_fx (x : Tile) (q : Nat) (l : List (QSlot 64)) : (x.setSport q l).fx = x.fx := rfl
@[simp] theorem Tile.setSport_vq (x : Tile) (q : Nat) (l : List (QSlot 64)) : (x.setSport q l).vq = x.vq := rfl
@[simp] theorem Tile.setSport_vregs (x : Tile) (q : Nat) (l : List (QSlot 64)) : (x.setSport q l).vregs = x.vregs := rfl
@[simp] theorem Tile.setSport_kregs (x : Tile) (q : Nat) (l : List (QSlot 64)) : (x.setSport q l).kregs = x.kregs := rfl
@[simp] theorem Tile.setSport_warn (x : Tile) (q : Nat) (l : List (QSlot 64)) : (x.setSport q l).warn = x.warn := rfl
@[simp] theorem Tile.setSport_tid (x : Tile) (q : Nat) (l : List (QSlot 64)) : (x.setSport q l).tid = x.tid := rfl
@[simp] theorem Tile.setSport_rank (x : Tile) (q : Nat) (l : List (QSlot 64)) : (x.setSport q l).rank = x.rank := rfl
@[simp] theorem Tile.setSport_crect (x : Tile) (q : Nat) (l : List (QSlot 64)) : (x.setSport q l).crect = x.crect := rfl
@[simp] theorem Tile.setSport_ctx (x : Tile) (q : Nat) (l : List (QSlot 64)) : (x.setSport q l).ctx = x.ctx := rfl
@[simp] theorem Tile.setSport_tvec (x : Tile) (q : Nat) (l : List (QSlot 64)) : (x.setSport q l).tvec = x.tvec := rfl
@[simp] theorem Tile.setSport_tcause (x : Tile) (q : Nat) (l : List (QSlot 64)) : (x.setSport q l).tcause = x.tcause := rfl
@[simp] theorem Tile.setSport_tval (x : Tile) (q : Nat) (l : List (QSlot 64)) : (x.setSport q l).tval = x.tval := rfl
@[simp] theorem Tile.setSport_epca (x : Tile) (q : Nat) (l : List (QSlot 64)) : (x.setSport q l).epca = x.epca := rfl
@[simp] theorem Tile.setSport_epcx (x : Tile) (q : Nat) (l : List (QSlot 64)) : (x.setSport q l).epcx = x.epcx := rfl
@[simp] theorem Tile.setSport_slv (x : Tile) (q : Nat) (l : List (QSlot 64)) : (x.setSport q l).slv = x.slv := rfl
@[simp] theorem Tile.setSport_held (x : Tile) (q : Nat) (l : List (QSlot 64)) : (x.setSport q l).held = x.held := rfl
@[simp] theorem Tile.setSport_accs (x : Tile) (q : Nat) (l : List (QSlot 64)) : (x.setSport q l).accs = x.accs := rfl
@[simp] theorem Tile.setSport_rings (x : Tile) (q : Nat) (l : List (QSlot 64)) : (x.setSport q l).rings = x.rings := rfl
@[simp] theorem Tile.setSport_chains (x : Tile) (q : Nat) (l : List (QSlot 64)) : (x.setSport q l).chains = x.chains := rfl
@[simp] theorem Tile.setSport_mq (x : Tile) (q : Nat) (l : List (QSlot 64)) : (x.setSport q l).mq = x.mq := rfl
@[simp] theorem Tile.setSport_slots (x : Tile) (q : Nat) (l : List (QSlot 64)) : (x.setSport q l).slots = x.slots := rfl
@[simp] theorem Tile.setSport_fires (x : Tile) (q : Nat) (l : List (QSlot 64)) : (x.setSport q l).fires = x.fires := rfl
@[simp] theorem Tile.setSport_sb (x : Tile) (q : Nat) (l : List (QSlot 64)) : (x.setSport q l).sb = x.sb := rfl
@[simp] theorem Tile.setSport_fills (x : Tile) (q : Nat) (l : List (QSlot 64)) : (x.setSport q l).fills = x.fills := rfl
@[simp] theorem Tile.setSport_tswaps (x : Tile) (q : Nat) (l : List (QSlot 64)) : (x.setSport q l).tswaps = x.tswaps := rfl
@[simp] theorem Tile.setSport_spad (x : Tile) (q : Nat) (l : List (QSlot 64)) : (x.setSport q l).spad = x.spad := rfl
@[simp] theorem Tile.setSport_code (x : Tile) (q : Nat) (l : List (QSlot 64)) : (x.setSport q l).code = x.code := rfl
@[simp] theorem Tile.setSport_gather (x : Tile) (q : Nat) (l : List (QSlot 64)) : (x.setSport q l).gather = x.gather := rfl
@[simp] theorem Tile.setSport_chans (x : Tile) (q : Nat) (l : List (QSlot 64)) : (x.setSport q l).chans = x.chans := rfl
@[simp] theorem Tile.setSport_arrivals (x : Tile) (q : Nat) (l : List (QSlot 64)) : (x.setSport q l).arrivals = x.arrivals := rfl
@[simp] theorem Tile.setSport_seen (x : Tile) (q : Nat) (l : List (QSlot 64)) : (x.setSport q l).seen = x.seen := rfl
@[simp] theorem Tile.setSport_pipes (x : Tile) (q : Nat) (l : List (QSlot 64)) : (x.setSport q l).pipes = x.pipes := rfl
@[simp] theorem Tile.setSport_cslots (x : Tile) (q : Nat) (l : List (QSlot 64)) : (x.setSport q l).cslots = x.cslots := rfl
@[simp] theorem Tile.setSport_handles (x : Tile) (q : Nat) (l : List (QSlot 64)) : (x.setSport q l).handles = x.handles := rfl
@[simp] theorem Tile.setSport_fibre (x : Tile) (q : Nat) (l : List (QSlot 64)) : (x.setSport q l).fibre = x.fibre := rfl
@[simp] theorem Tile.setSport_tiles (x : Tile) (q : Nat) (l : List (QSlot 64)) : (x.setSport q l).tiles = x.tiles := rfl
@[simp] theorem Tile.setSport_events (x : Tile) (q : Nat) (l : List (QSlot 64)) : (x.setSport q l).events = x.events := rfl

/-! ### Tile.setVport -/

@[simp] theorem Tile.setVport_phase (x : Tile) (q : Nat) (l : List (QSlot 2048)) : (x.setVport q l).phase = x.phase := rfl
@[simp] theorem Tile.setVport_frozen (x : Tile) (q : Nat) (l : List (QSlot 2048)) : (x.setVport q l).frozen = x.frozen := rfl
@[simp] theorem Tile.setVport_vf (x : Tile) (q : Nat) (l : List (QSlot 2048)) : (x.setVport q l).vf = x.vf := rfl
@[simp] theorem Tile.setVport_inst (x : Tile) (q : Nat) (l : List (QSlot 2048)) : (x.setVport q l).inst = x.inst := rfl
@[simp] theorem Tile.setVport_tidx (x : Tile) (q : Nat) (l : List (QSlot 2048)) : (x.setVport q l).tidx = x.tidx := rfl
@[simp] theorem Tile.setVport_fa (x : Tile) (q : Nat) (l : List (QSlot 2048)) : (x.setVport q l).fa = x.fa := rfl
@[simp] theorem Tile.setVport_fx (x : Tile) (q : Nat) (l : List (QSlot 2048)) : (x.setVport q l).fx = x.fx := rfl
@[simp] theorem Tile.setVport_sq (x : Tile) (q : Nat) (l : List (QSlot 2048)) : (x.setVport q l).sq = x.sq := rfl
@[simp] theorem Tile.setVport_vregs (x : Tile) (q : Nat) (l : List (QSlot 2048)) : (x.setVport q l).vregs = x.vregs := rfl
@[simp] theorem Tile.setVport_kregs (x : Tile) (q : Nat) (l : List (QSlot 2048)) : (x.setVport q l).kregs = x.kregs := rfl
@[simp] theorem Tile.setVport_warn (x : Tile) (q : Nat) (l : List (QSlot 2048)) : (x.setVport q l).warn = x.warn := rfl
@[simp] theorem Tile.setVport_tid (x : Tile) (q : Nat) (l : List (QSlot 2048)) : (x.setVport q l).tid = x.tid := rfl
@[simp] theorem Tile.setVport_rank (x : Tile) (q : Nat) (l : List (QSlot 2048)) : (x.setVport q l).rank = x.rank := rfl
@[simp] theorem Tile.setVport_crect (x : Tile) (q : Nat) (l : List (QSlot 2048)) : (x.setVport q l).crect = x.crect := rfl
@[simp] theorem Tile.setVport_ctx (x : Tile) (q : Nat) (l : List (QSlot 2048)) : (x.setVport q l).ctx = x.ctx := rfl
@[simp] theorem Tile.setVport_tvec (x : Tile) (q : Nat) (l : List (QSlot 2048)) : (x.setVport q l).tvec = x.tvec := rfl
@[simp] theorem Tile.setVport_tcause (x : Tile) (q : Nat) (l : List (QSlot 2048)) : (x.setVport q l).tcause = x.tcause := rfl
@[simp] theorem Tile.setVport_tval (x : Tile) (q : Nat) (l : List (QSlot 2048)) : (x.setVport q l).tval = x.tval := rfl
@[simp] theorem Tile.setVport_epca (x : Tile) (q : Nat) (l : List (QSlot 2048)) : (x.setVport q l).epca = x.epca := rfl
@[simp] theorem Tile.setVport_epcx (x : Tile) (q : Nat) (l : List (QSlot 2048)) : (x.setVport q l).epcx = x.epcx := rfl
@[simp] theorem Tile.setVport_slv (x : Tile) (q : Nat) (l : List (QSlot 2048)) : (x.setVport q l).slv = x.slv := rfl
@[simp] theorem Tile.setVport_held (x : Tile) (q : Nat) (l : List (QSlot 2048)) : (x.setVport q l).held = x.held := rfl
@[simp] theorem Tile.setVport_accs (x : Tile) (q : Nat) (l : List (QSlot 2048)) : (x.setVport q l).accs = x.accs := rfl
@[simp] theorem Tile.setVport_rings (x : Tile) (q : Nat) (l : List (QSlot 2048)) : (x.setVport q l).rings = x.rings := rfl
@[simp] theorem Tile.setVport_chains (x : Tile) (q : Nat) (l : List (QSlot 2048)) : (x.setVport q l).chains = x.chains := rfl
@[simp] theorem Tile.setVport_mq (x : Tile) (q : Nat) (l : List (QSlot 2048)) : (x.setVport q l).mq = x.mq := rfl
@[simp] theorem Tile.setVport_slots (x : Tile) (q : Nat) (l : List (QSlot 2048)) : (x.setVport q l).slots = x.slots := rfl
@[simp] theorem Tile.setVport_fires (x : Tile) (q : Nat) (l : List (QSlot 2048)) : (x.setVport q l).fires = x.fires := rfl
@[simp] theorem Tile.setVport_sb (x : Tile) (q : Nat) (l : List (QSlot 2048)) : (x.setVport q l).sb = x.sb := rfl
@[simp] theorem Tile.setVport_fills (x : Tile) (q : Nat) (l : List (QSlot 2048)) : (x.setVport q l).fills = x.fills := rfl
@[simp] theorem Tile.setVport_tswaps (x : Tile) (q : Nat) (l : List (QSlot 2048)) : (x.setVport q l).tswaps = x.tswaps := rfl
@[simp] theorem Tile.setVport_spad (x : Tile) (q : Nat) (l : List (QSlot 2048)) : (x.setVport q l).spad = x.spad := rfl
@[simp] theorem Tile.setVport_code (x : Tile) (q : Nat) (l : List (QSlot 2048)) : (x.setVport q l).code = x.code := rfl
@[simp] theorem Tile.setVport_gather (x : Tile) (q : Nat) (l : List (QSlot 2048)) : (x.setVport q l).gather = x.gather := rfl
@[simp] theorem Tile.setVport_chans (x : Tile) (q : Nat) (l : List (QSlot 2048)) : (x.setVport q l).chans = x.chans := rfl
@[simp] theorem Tile.setVport_arrivals (x : Tile) (q : Nat) (l : List (QSlot 2048)) : (x.setVport q l).arrivals = x.arrivals := rfl
@[simp] theorem Tile.setVport_seen (x : Tile) (q : Nat) (l : List (QSlot 2048)) : (x.setVport q l).seen = x.seen := rfl
@[simp] theorem Tile.setVport_pipes (x : Tile) (q : Nat) (l : List (QSlot 2048)) : (x.setVport q l).pipes = x.pipes := rfl
@[simp] theorem Tile.setVport_cslots (x : Tile) (q : Nat) (l : List (QSlot 2048)) : (x.setVport q l).cslots = x.cslots := rfl
@[simp] theorem Tile.setVport_handles (x : Tile) (q : Nat) (l : List (QSlot 2048)) : (x.setVport q l).handles = x.handles := rfl
@[simp] theorem Tile.setVport_fibre (x : Tile) (q : Nat) (l : List (QSlot 2048)) : (x.setVport q l).fibre = x.fibre := rfl
@[simp] theorem Tile.setVport_tiles (x : Tile) (q : Nat) (l : List (QSlot 2048)) : (x.setVport q l).tiles = x.tiles := rfl
@[simp] theorem Tile.setVport_events (x : Tile) (q : Nat) (l : List (QSlot 2048)) : (x.setVport q l).events = x.events := rfl

/-! ### Tile.setVreg -/

@[simp] theorem Tile.setVreg_phase (x : Tile) (r : Nat) (v : Vec) : (x.setVreg r v).phase = x.phase := rfl
@[simp] theorem Tile.setVreg_frozen (x : Tile) (r : Nat) (v : Vec) : (x.setVreg r v).frozen = x.frozen := rfl
@[simp] theorem Tile.setVreg_vf (x : Tile) (r : Nat) (v : Vec) : (x.setVreg r v).vf = x.vf := rfl
@[simp] theorem Tile.setVreg_inst (x : Tile) (r : Nat) (v : Vec) : (x.setVreg r v).inst = x.inst := rfl
@[simp] theorem Tile.setVreg_tidx (x : Tile) (r : Nat) (v : Vec) : (x.setVreg r v).tidx = x.tidx := rfl
@[simp] theorem Tile.setVreg_fa (x : Tile) (r : Nat) (v : Vec) : (x.setVreg r v).fa = x.fa := rfl
@[simp] theorem Tile.setVreg_fx (x : Tile) (r : Nat) (v : Vec) : (x.setVreg r v).fx = x.fx := rfl
@[simp] theorem Tile.setVreg_sq (x : Tile) (r : Nat) (v : Vec) : (x.setVreg r v).sq = x.sq := rfl
@[simp] theorem Tile.setVreg_vq (x : Tile) (r : Nat) (v : Vec) : (x.setVreg r v).vq = x.vq := rfl
@[simp] theorem Tile.setVreg_kregs (x : Tile) (r : Nat) (v : Vec) : (x.setVreg r v).kregs = x.kregs := rfl
@[simp] theorem Tile.setVreg_warn (x : Tile) (r : Nat) (v : Vec) : (x.setVreg r v).warn = x.warn := rfl
@[simp] theorem Tile.setVreg_tid (x : Tile) (r : Nat) (v : Vec) : (x.setVreg r v).tid = x.tid := rfl
@[simp] theorem Tile.setVreg_rank (x : Tile) (r : Nat) (v : Vec) : (x.setVreg r v).rank = x.rank := rfl
@[simp] theorem Tile.setVreg_crect (x : Tile) (r : Nat) (v : Vec) : (x.setVreg r v).crect = x.crect := rfl
@[simp] theorem Tile.setVreg_ctx (x : Tile) (r : Nat) (v : Vec) : (x.setVreg r v).ctx = x.ctx := rfl
@[simp] theorem Tile.setVreg_tvec (x : Tile) (r : Nat) (v : Vec) : (x.setVreg r v).tvec = x.tvec := rfl
@[simp] theorem Tile.setVreg_tcause (x : Tile) (r : Nat) (v : Vec) : (x.setVreg r v).tcause = x.tcause := rfl
@[simp] theorem Tile.setVreg_tval (x : Tile) (r : Nat) (v : Vec) : (x.setVreg r v).tval = x.tval := rfl
@[simp] theorem Tile.setVreg_epca (x : Tile) (r : Nat) (v : Vec) : (x.setVreg r v).epca = x.epca := rfl
@[simp] theorem Tile.setVreg_epcx (x : Tile) (r : Nat) (v : Vec) : (x.setVreg r v).epcx = x.epcx := rfl
@[simp] theorem Tile.setVreg_slv (x : Tile) (r : Nat) (v : Vec) : (x.setVreg r v).slv = x.slv := rfl
@[simp] theorem Tile.setVreg_held (x : Tile) (r : Nat) (v : Vec) : (x.setVreg r v).held = x.held := rfl
@[simp] theorem Tile.setVreg_accs (x : Tile) (r : Nat) (v : Vec) : (x.setVreg r v).accs = x.accs := rfl
@[simp] theorem Tile.setVreg_rings (x : Tile) (r : Nat) (v : Vec) : (x.setVreg r v).rings = x.rings := rfl
@[simp] theorem Tile.setVreg_chains (x : Tile) (r : Nat) (v : Vec) : (x.setVreg r v).chains = x.chains := rfl
@[simp] theorem Tile.setVreg_mq (x : Tile) (r : Nat) (v : Vec) : (x.setVreg r v).mq = x.mq := rfl
@[simp] theorem Tile.setVreg_slots (x : Tile) (r : Nat) (v : Vec) : (x.setVreg r v).slots = x.slots := rfl
@[simp] theorem Tile.setVreg_fires (x : Tile) (r : Nat) (v : Vec) : (x.setVreg r v).fires = x.fires := rfl
@[simp] theorem Tile.setVreg_sb (x : Tile) (r : Nat) (v : Vec) : (x.setVreg r v).sb = x.sb := rfl
@[simp] theorem Tile.setVreg_fills (x : Tile) (r : Nat) (v : Vec) : (x.setVreg r v).fills = x.fills := rfl
@[simp] theorem Tile.setVreg_tswaps (x : Tile) (r : Nat) (v : Vec) : (x.setVreg r v).tswaps = x.tswaps := rfl
@[simp] theorem Tile.setVreg_spad (x : Tile) (r : Nat) (v : Vec) : (x.setVreg r v).spad = x.spad := rfl
@[simp] theorem Tile.setVreg_code (x : Tile) (r : Nat) (v : Vec) : (x.setVreg r v).code = x.code := rfl
@[simp] theorem Tile.setVreg_gather (x : Tile) (r : Nat) (v : Vec) : (x.setVreg r v).gather = x.gather := rfl
@[simp] theorem Tile.setVreg_chans (x : Tile) (r : Nat) (v : Vec) : (x.setVreg r v).chans = x.chans := rfl
@[simp] theorem Tile.setVreg_arrivals (x : Tile) (r : Nat) (v : Vec) : (x.setVreg r v).arrivals = x.arrivals := rfl
@[simp] theorem Tile.setVreg_seen (x : Tile) (r : Nat) (v : Vec) : (x.setVreg r v).seen = x.seen := rfl
@[simp] theorem Tile.setVreg_pipes (x : Tile) (r : Nat) (v : Vec) : (x.setVreg r v).pipes = x.pipes := rfl
@[simp] theorem Tile.setVreg_cslots (x : Tile) (r : Nat) (v : Vec) : (x.setVreg r v).cslots = x.cslots := rfl
@[simp] theorem Tile.setVreg_handles (x : Tile) (r : Nat) (v : Vec) : (x.setVreg r v).handles = x.handles := rfl
@[simp] theorem Tile.setVreg_fibre (x : Tile) (r : Nat) (v : Vec) : (x.setVreg r v).fibre = x.fibre := rfl
@[simp] theorem Tile.setVreg_tiles (x : Tile) (r : Nat) (v : Vec) : (x.setVreg r v).tiles = x.tiles := rfl
@[simp] theorem Tile.setVreg_events (x : Tile) (r : Nat) (v : Vec) : (x.setVreg r v).events = x.events := rfl

/-! ### Tile.setKreg -/

@[simp] theorem Tile.setKreg_phase (x : Tile) (k : Nat) (v : Word) : (x.setKreg k v).phase = x.phase := by unfold Tile.setKreg; split <;> rfl
@[simp] theorem Tile.setKreg_frozen (x : Tile) (k : Nat) (v : Word) : (x.setKreg k v).frozen = x.frozen := by unfold Tile.setKreg; split <;> rfl
@[simp] theorem Tile.setKreg_vf (x : Tile) (k : Nat) (v : Word) : (x.setKreg k v).vf = x.vf := by unfold Tile.setKreg; split <;> rfl
@[simp] theorem Tile.setKreg_inst (x : Tile) (k : Nat) (v : Word) : (x.setKreg k v).inst = x.inst := by unfold Tile.setKreg; split <;> rfl
@[simp] theorem Tile.setKreg_tidx (x : Tile) (k : Nat) (v : Word) : (x.setKreg k v).tidx = x.tidx := by unfold Tile.setKreg; split <;> rfl
@[simp] theorem Tile.setKreg_fa (x : Tile) (k : Nat) (v : Word) : (x.setKreg k v).fa = x.fa := by unfold Tile.setKreg; split <;> rfl
@[simp] theorem Tile.setKreg_fx (x : Tile) (k : Nat) (v : Word) : (x.setKreg k v).fx = x.fx := by unfold Tile.setKreg; split <;> rfl
@[simp] theorem Tile.setKreg_sq (x : Tile) (k : Nat) (v : Word) : (x.setKreg k v).sq = x.sq := by unfold Tile.setKreg; split <;> rfl
@[simp] theorem Tile.setKreg_vq (x : Tile) (k : Nat) (v : Word) : (x.setKreg k v).vq = x.vq := by unfold Tile.setKreg; split <;> rfl
@[simp] theorem Tile.setKreg_vregs (x : Tile) (k : Nat) (v : Word) : (x.setKreg k v).vregs = x.vregs := by unfold Tile.setKreg; split <;> rfl
@[simp] theorem Tile.setKreg_warn (x : Tile) (k : Nat) (v : Word) : (x.setKreg k v).warn = x.warn := by unfold Tile.setKreg; split <;> rfl
@[simp] theorem Tile.setKreg_tid (x : Tile) (k : Nat) (v : Word) : (x.setKreg k v).tid = x.tid := by unfold Tile.setKreg; split <;> rfl
@[simp] theorem Tile.setKreg_rank (x : Tile) (k : Nat) (v : Word) : (x.setKreg k v).rank = x.rank := by unfold Tile.setKreg; split <;> rfl
@[simp] theorem Tile.setKreg_crect (x : Tile) (k : Nat) (v : Word) : (x.setKreg k v).crect = x.crect := by unfold Tile.setKreg; split <;> rfl
@[simp] theorem Tile.setKreg_ctx (x : Tile) (k : Nat) (v : Word) : (x.setKreg k v).ctx = x.ctx := by unfold Tile.setKreg; split <;> rfl
@[simp] theorem Tile.setKreg_tvec (x : Tile) (k : Nat) (v : Word) : (x.setKreg k v).tvec = x.tvec := by unfold Tile.setKreg; split <;> rfl
@[simp] theorem Tile.setKreg_tcause (x : Tile) (k : Nat) (v : Word) : (x.setKreg k v).tcause = x.tcause := by unfold Tile.setKreg; split <;> rfl
@[simp] theorem Tile.setKreg_tval (x : Tile) (k : Nat) (v : Word) : (x.setKreg k v).tval = x.tval := by unfold Tile.setKreg; split <;> rfl
@[simp] theorem Tile.setKreg_epca (x : Tile) (k : Nat) (v : Word) : (x.setKreg k v).epca = x.epca := by unfold Tile.setKreg; split <;> rfl
@[simp] theorem Tile.setKreg_epcx (x : Tile) (k : Nat) (v : Word) : (x.setKreg k v).epcx = x.epcx := by unfold Tile.setKreg; split <;> rfl
@[simp] theorem Tile.setKreg_slv (x : Tile) (k : Nat) (v : Word) : (x.setKreg k v).slv = x.slv := by unfold Tile.setKreg; split <;> rfl
@[simp] theorem Tile.setKreg_held (x : Tile) (k : Nat) (v : Word) : (x.setKreg k v).held = x.held := by unfold Tile.setKreg; split <;> rfl
@[simp] theorem Tile.setKreg_accs (x : Tile) (k : Nat) (v : Word) : (x.setKreg k v).accs = x.accs := by unfold Tile.setKreg; split <;> rfl
@[simp] theorem Tile.setKreg_rings (x : Tile) (k : Nat) (v : Word) : (x.setKreg k v).rings = x.rings := by unfold Tile.setKreg; split <;> rfl
@[simp] theorem Tile.setKreg_chains (x : Tile) (k : Nat) (v : Word) : (x.setKreg k v).chains = x.chains := by unfold Tile.setKreg; split <;> rfl
@[simp] theorem Tile.setKreg_mq (x : Tile) (k : Nat) (v : Word) : (x.setKreg k v).mq = x.mq := by unfold Tile.setKreg; split <;> rfl
@[simp] theorem Tile.setKreg_slots (x : Tile) (k : Nat) (v : Word) : (x.setKreg k v).slots = x.slots := by unfold Tile.setKreg; split <;> rfl
@[simp] theorem Tile.setKreg_fires (x : Tile) (k : Nat) (v : Word) : (x.setKreg k v).fires = x.fires := by unfold Tile.setKreg; split <;> rfl
@[simp] theorem Tile.setKreg_sb (x : Tile) (k : Nat) (v : Word) : (x.setKreg k v).sb = x.sb := by unfold Tile.setKreg; split <;> rfl
@[simp] theorem Tile.setKreg_fills (x : Tile) (k : Nat) (v : Word) : (x.setKreg k v).fills = x.fills := by unfold Tile.setKreg; split <;> rfl
@[simp] theorem Tile.setKreg_tswaps (x : Tile) (k : Nat) (v : Word) : (x.setKreg k v).tswaps = x.tswaps := by unfold Tile.setKreg; split <;> rfl
@[simp] theorem Tile.setKreg_spad (x : Tile) (k : Nat) (v : Word) : (x.setKreg k v).spad = x.spad := by unfold Tile.setKreg; split <;> rfl
@[simp] theorem Tile.setKreg_code (x : Tile) (k : Nat) (v : Word) : (x.setKreg k v).code = x.code := by unfold Tile.setKreg; split <;> rfl
@[simp] theorem Tile.setKreg_gather (x : Tile) (k : Nat) (v : Word) : (x.setKreg k v).gather = x.gather := by unfold Tile.setKreg; split <;> rfl
@[simp] theorem Tile.setKreg_chans (x : Tile) (k : Nat) (v : Word) : (x.setKreg k v).chans = x.chans := by unfold Tile.setKreg; split <;> rfl
@[simp] theorem Tile.setKreg_arrivals (x : Tile) (k : Nat) (v : Word) : (x.setKreg k v).arrivals = x.arrivals := by unfold Tile.setKreg; split <;> rfl
@[simp] theorem Tile.setKreg_seen (x : Tile) (k : Nat) (v : Word) : (x.setKreg k v).seen = x.seen := by unfold Tile.setKreg; split <;> rfl
@[simp] theorem Tile.setKreg_pipes (x : Tile) (k : Nat) (v : Word) : (x.setKreg k v).pipes = x.pipes := by unfold Tile.setKreg; split <;> rfl
@[simp] theorem Tile.setKreg_cslots (x : Tile) (k : Nat) (v : Word) : (x.setKreg k v).cslots = x.cslots := by unfold Tile.setKreg; split <;> rfl
@[simp] theorem Tile.setKreg_handles (x : Tile) (k : Nat) (v : Word) : (x.setKreg k v).handles = x.handles := by unfold Tile.setKreg; split <;> rfl
@[simp] theorem Tile.setKreg_fibre (x : Tile) (k : Nat) (v : Word) : (x.setKreg k v).fibre = x.fibre := by unfold Tile.setKreg; split <;> rfl
@[simp] theorem Tile.setKreg_tiles (x : Tile) (k : Nat) (v : Word) : (x.setKreg k v).tiles = x.tiles := by unfold Tile.setKreg; split <;> rfl
@[simp] theorem Tile.setKreg_events (x : Tile) (k : Nat) (v : Word) : (x.setKreg k v).events = x.events := by unfold Tile.setKreg; split <;> rfl

/-! ### Tile.warnBit -/

@[simp] theorem Tile.warnBit_phase (x : Tile) (b : Nat) : (x.warnBit b).phase = x.phase := rfl
@[simp] theorem Tile.warnBit_frozen (x : Tile) (b : Nat) : (x.warnBit b).frozen = x.frozen := rfl
@[simp] theorem Tile.warnBit_vf (x : Tile) (b : Nat) : (x.warnBit b).vf = x.vf := rfl
@[simp] theorem Tile.warnBit_inst (x : Tile) (b : Nat) : (x.warnBit b).inst = x.inst := rfl
@[simp] theorem Tile.warnBit_tidx (x : Tile) (b : Nat) : (x.warnBit b).tidx = x.tidx := rfl
@[simp] theorem Tile.warnBit_fa (x : Tile) (b : Nat) : (x.warnBit b).fa = x.fa := rfl
@[simp] theorem Tile.warnBit_fx (x : Tile) (b : Nat) : (x.warnBit b).fx = x.fx := rfl
@[simp] theorem Tile.warnBit_sq (x : Tile) (b : Nat) : (x.warnBit b).sq = x.sq := rfl
@[simp] theorem Tile.warnBit_vq (x : Tile) (b : Nat) : (x.warnBit b).vq = x.vq := rfl
@[simp] theorem Tile.warnBit_vregs (x : Tile) (b : Nat) : (x.warnBit b).vregs = x.vregs := rfl
@[simp] theorem Tile.warnBit_kregs (x : Tile) (b : Nat) : (x.warnBit b).kregs = x.kregs := rfl
@[simp] theorem Tile.warnBit_tid (x : Tile) (b : Nat) : (x.warnBit b).tid = x.tid := rfl
@[simp] theorem Tile.warnBit_rank (x : Tile) (b : Nat) : (x.warnBit b).rank = x.rank := rfl
@[simp] theorem Tile.warnBit_crect (x : Tile) (b : Nat) : (x.warnBit b).crect = x.crect := rfl
@[simp] theorem Tile.warnBit_ctx (x : Tile) (b : Nat) : (x.warnBit b).ctx = x.ctx := rfl
@[simp] theorem Tile.warnBit_tvec (x : Tile) (b : Nat) : (x.warnBit b).tvec = x.tvec := rfl
@[simp] theorem Tile.warnBit_tcause (x : Tile) (b : Nat) : (x.warnBit b).tcause = x.tcause := rfl
@[simp] theorem Tile.warnBit_tval (x : Tile) (b : Nat) : (x.warnBit b).tval = x.tval := rfl
@[simp] theorem Tile.warnBit_epca (x : Tile) (b : Nat) : (x.warnBit b).epca = x.epca := rfl
@[simp] theorem Tile.warnBit_epcx (x : Tile) (b : Nat) : (x.warnBit b).epcx = x.epcx := rfl
@[simp] theorem Tile.warnBit_slv (x : Tile) (b : Nat) : (x.warnBit b).slv = x.slv := rfl
@[simp] theorem Tile.warnBit_held (x : Tile) (b : Nat) : (x.warnBit b).held = x.held := rfl
@[simp] theorem Tile.warnBit_accs (x : Tile) (b : Nat) : (x.warnBit b).accs = x.accs := rfl
@[simp] theorem Tile.warnBit_rings (x : Tile) (b : Nat) : (x.warnBit b).rings = x.rings := rfl
@[simp] theorem Tile.warnBit_chains (x : Tile) (b : Nat) : (x.warnBit b).chains = x.chains := rfl
@[simp] theorem Tile.warnBit_mq (x : Tile) (b : Nat) : (x.warnBit b).mq = x.mq := rfl
@[simp] theorem Tile.warnBit_slots (x : Tile) (b : Nat) : (x.warnBit b).slots = x.slots := rfl
@[simp] theorem Tile.warnBit_fires (x : Tile) (b : Nat) : (x.warnBit b).fires = x.fires := rfl
@[simp] theorem Tile.warnBit_sb (x : Tile) (b : Nat) : (x.warnBit b).sb = x.sb := rfl
@[simp] theorem Tile.warnBit_fills (x : Tile) (b : Nat) : (x.warnBit b).fills = x.fills := rfl
@[simp] theorem Tile.warnBit_tswaps (x : Tile) (b : Nat) : (x.warnBit b).tswaps = x.tswaps := rfl
@[simp] theorem Tile.warnBit_spad (x : Tile) (b : Nat) : (x.warnBit b).spad = x.spad := rfl
@[simp] theorem Tile.warnBit_code (x : Tile) (b : Nat) : (x.warnBit b).code = x.code := rfl
@[simp] theorem Tile.warnBit_gather (x : Tile) (b : Nat) : (x.warnBit b).gather = x.gather := rfl
@[simp] theorem Tile.warnBit_chans (x : Tile) (b : Nat) : (x.warnBit b).chans = x.chans := rfl
@[simp] theorem Tile.warnBit_arrivals (x : Tile) (b : Nat) : (x.warnBit b).arrivals = x.arrivals := rfl
@[simp] theorem Tile.warnBit_seen (x : Tile) (b : Nat) : (x.warnBit b).seen = x.seen := rfl
@[simp] theorem Tile.warnBit_pipes (x : Tile) (b : Nat) : (x.warnBit b).pipes = x.pipes := rfl
@[simp] theorem Tile.warnBit_cslots (x : Tile) (b : Nat) : (x.warnBit b).cslots = x.cslots := rfl
@[simp] theorem Tile.warnBit_handles (x : Tile) (b : Nat) : (x.warnBit b).handles = x.handles := rfl
@[simp] theorem Tile.warnBit_fibre (x : Tile) (b : Nat) : (x.warnBit b).fibre = x.fibre := rfl
@[simp] theorem Tile.warnBit_tiles (x : Tile) (b : Nat) : (x.warnBit b).tiles = x.tiles := rfl
@[simp] theorem Tile.warnBit_events (x : Tile) (b : Nat) : (x.warnBit b).events = x.events := rfl

/-! ### Tile.warnIf -/

@[simp] theorem Tile.warnIf_phase (x : Tile) (b : Nat) (c : Bool) : (x.warnIf b c).phase = x.phase := by cases c <;> rfl
@[simp] theorem Tile.warnIf_frozen (x : Tile) (b : Nat) (c : Bool) : (x.warnIf b c).frozen = x.frozen := by cases c <;> rfl
@[simp] theorem Tile.warnIf_vf (x : Tile) (b : Nat) (c : Bool) : (x.warnIf b c).vf = x.vf := by cases c <;> rfl
@[simp] theorem Tile.warnIf_inst (x : Tile) (b : Nat) (c : Bool) : (x.warnIf b c).inst = x.inst := by cases c <;> rfl
@[simp] theorem Tile.warnIf_tidx (x : Tile) (b : Nat) (c : Bool) : (x.warnIf b c).tidx = x.tidx := by cases c <;> rfl
@[simp] theorem Tile.warnIf_fa (x : Tile) (b : Nat) (c : Bool) : (x.warnIf b c).fa = x.fa := by cases c <;> rfl
@[simp] theorem Tile.warnIf_fx (x : Tile) (b : Nat) (c : Bool) : (x.warnIf b c).fx = x.fx := by cases c <;> rfl
@[simp] theorem Tile.warnIf_sq (x : Tile) (b : Nat) (c : Bool) : (x.warnIf b c).sq = x.sq := by cases c <;> rfl
@[simp] theorem Tile.warnIf_vq (x : Tile) (b : Nat) (c : Bool) : (x.warnIf b c).vq = x.vq := by cases c <;> rfl
@[simp] theorem Tile.warnIf_vregs (x : Tile) (b : Nat) (c : Bool) : (x.warnIf b c).vregs = x.vregs := by cases c <;> rfl
@[simp] theorem Tile.warnIf_kregs (x : Tile) (b : Nat) (c : Bool) : (x.warnIf b c).kregs = x.kregs := by cases c <;> rfl
@[simp] theorem Tile.warnIf_tid (x : Tile) (b : Nat) (c : Bool) : (x.warnIf b c).tid = x.tid := by cases c <;> rfl
@[simp] theorem Tile.warnIf_rank (x : Tile) (b : Nat) (c : Bool) : (x.warnIf b c).rank = x.rank := by cases c <;> rfl
@[simp] theorem Tile.warnIf_crect (x : Tile) (b : Nat) (c : Bool) : (x.warnIf b c).crect = x.crect := by cases c <;> rfl
@[simp] theorem Tile.warnIf_ctx (x : Tile) (b : Nat) (c : Bool) : (x.warnIf b c).ctx = x.ctx := by cases c <;> rfl
@[simp] theorem Tile.warnIf_tvec (x : Tile) (b : Nat) (c : Bool) : (x.warnIf b c).tvec = x.tvec := by cases c <;> rfl
@[simp] theorem Tile.warnIf_tcause (x : Tile) (b : Nat) (c : Bool) : (x.warnIf b c).tcause = x.tcause := by cases c <;> rfl
@[simp] theorem Tile.warnIf_tval (x : Tile) (b : Nat) (c : Bool) : (x.warnIf b c).tval = x.tval := by cases c <;> rfl
@[simp] theorem Tile.warnIf_epca (x : Tile) (b : Nat) (c : Bool) : (x.warnIf b c).epca = x.epca := by cases c <;> rfl
@[simp] theorem Tile.warnIf_epcx (x : Tile) (b : Nat) (c : Bool) : (x.warnIf b c).epcx = x.epcx := by cases c <;> rfl
@[simp] theorem Tile.warnIf_slv (x : Tile) (b : Nat) (c : Bool) : (x.warnIf b c).slv = x.slv := by cases c <;> rfl
@[simp] theorem Tile.warnIf_held (x : Tile) (b : Nat) (c : Bool) : (x.warnIf b c).held = x.held := by cases c <;> rfl
@[simp] theorem Tile.warnIf_accs (x : Tile) (b : Nat) (c : Bool) : (x.warnIf b c).accs = x.accs := by cases c <;> rfl
@[simp] theorem Tile.warnIf_rings (x : Tile) (b : Nat) (c : Bool) : (x.warnIf b c).rings = x.rings := by cases c <;> rfl
@[simp] theorem Tile.warnIf_chains (x : Tile) (b : Nat) (c : Bool) : (x.warnIf b c).chains = x.chains := by cases c <;> rfl
@[simp] theorem Tile.warnIf_mq (x : Tile) (b : Nat) (c : Bool) : (x.warnIf b c).mq = x.mq := by cases c <;> rfl
@[simp] theorem Tile.warnIf_slots (x : Tile) (b : Nat) (c : Bool) : (x.warnIf b c).slots = x.slots := by cases c <;> rfl
@[simp] theorem Tile.warnIf_fires (x : Tile) (b : Nat) (c : Bool) : (x.warnIf b c).fires = x.fires := by cases c <;> rfl
@[simp] theorem Tile.warnIf_sb (x : Tile) (b : Nat) (c : Bool) : (x.warnIf b c).sb = x.sb := by cases c <;> rfl
@[simp] theorem Tile.warnIf_fills (x : Tile) (b : Nat) (c : Bool) : (x.warnIf b c).fills = x.fills := by cases c <;> rfl
@[simp] theorem Tile.warnIf_tswaps (x : Tile) (b : Nat) (c : Bool) : (x.warnIf b c).tswaps = x.tswaps := by cases c <;> rfl
@[simp] theorem Tile.warnIf_spad (x : Tile) (b : Nat) (c : Bool) : (x.warnIf b c).spad = x.spad := by cases c <;> rfl
@[simp] theorem Tile.warnIf_code (x : Tile) (b : Nat) (c : Bool) : (x.warnIf b c).code = x.code := by cases c <;> rfl
@[simp] theorem Tile.warnIf_gather (x : Tile) (b : Nat) (c : Bool) : (x.warnIf b c).gather = x.gather := by cases c <;> rfl
@[simp] theorem Tile.warnIf_chans (x : Tile) (b : Nat) (c : Bool) : (x.warnIf b c).chans = x.chans := by cases c <;> rfl
@[simp] theorem Tile.warnIf_arrivals (x : Tile) (b : Nat) (c : Bool) : (x.warnIf b c).arrivals = x.arrivals := by cases c <;> rfl
@[simp] theorem Tile.warnIf_seen (x : Tile) (b : Nat) (c : Bool) : (x.warnIf b c).seen = x.seen := by cases c <;> rfl
@[simp] theorem Tile.warnIf_pipes (x : Tile) (b : Nat) (c : Bool) : (x.warnIf b c).pipes = x.pipes := by cases c <;> rfl
@[simp] theorem Tile.warnIf_cslots (x : Tile) (b : Nat) (c : Bool) : (x.warnIf b c).cslots = x.cslots := by cases c <;> rfl
@[simp] theorem Tile.warnIf_handles (x : Tile) (b : Nat) (c : Bool) : (x.warnIf b c).handles = x.handles := by cases c <;> rfl
@[simp] theorem Tile.warnIf_fibre (x : Tile) (b : Nat) (c : Bool) : (x.warnIf b c).fibre = x.fibre := by cases c <;> rfl
@[simp] theorem Tile.warnIf_tiles (x : Tile) (b : Nat) (c : Bool) : (x.warnIf b c).tiles = x.tiles := by cases c <;> rfl
@[simp] theorem Tile.warnIf_events (x : Tile) (b : Nat) (c : Bool) : (x.warnIf b c).events = x.events := by cases c <;> rfl

/-! ### Tile.raise -/

@[simp] theorem Tile.raise_phase (x : Tile) (w : Warns) : (x.raise w).phase = x.phase := rfl
@[simp] theorem Tile.raise_frozen (x : Tile) (w : Warns) : (x.raise w).frozen = x.frozen := rfl
@[simp] theorem Tile.raise_vf (x : Tile) (w : Warns) : (x.raise w).vf = x.vf := rfl
@[simp] theorem Tile.raise_inst (x : Tile) (w : Warns) : (x.raise w).inst = x.inst := rfl
@[simp] theorem Tile.raise_tidx (x : Tile) (w : Warns) : (x.raise w).tidx = x.tidx := rfl
@[simp] theorem Tile.raise_fa (x : Tile) (w : Warns) : (x.raise w).fa = x.fa := rfl
@[simp] theorem Tile.raise_fx (x : Tile) (w : Warns) : (x.raise w).fx = x.fx := rfl
@[simp] theorem Tile.raise_sq (x : Tile) (w : Warns) : (x.raise w).sq = x.sq := rfl
@[simp] theorem Tile.raise_vq (x : Tile) (w : Warns) : (x.raise w).vq = x.vq := rfl
@[simp] theorem Tile.raise_vregs (x : Tile) (w : Warns) : (x.raise w).vregs = x.vregs := rfl
@[simp] theorem Tile.raise_kregs (x : Tile) (w : Warns) : (x.raise w).kregs = x.kregs := rfl
@[simp] theorem Tile.raise_tid (x : Tile) (w : Warns) : (x.raise w).tid = x.tid := rfl
@[simp] theorem Tile.raise_rank (x : Tile) (w : Warns) : (x.raise w).rank = x.rank := rfl
@[simp] theorem Tile.raise_crect (x : Tile) (w : Warns) : (x.raise w).crect = x.crect := rfl
@[simp] theorem Tile.raise_ctx (x : Tile) (w : Warns) : (x.raise w).ctx = x.ctx := rfl
@[simp] theorem Tile.raise_tvec (x : Tile) (w : Warns) : (x.raise w).tvec = x.tvec := rfl
@[simp] theorem Tile.raise_tcause (x : Tile) (w : Warns) : (x.raise w).tcause = x.tcause := rfl
@[simp] theorem Tile.raise_tval (x : Tile) (w : Warns) : (x.raise w).tval = x.tval := rfl
@[simp] theorem Tile.raise_epca (x : Tile) (w : Warns) : (x.raise w).epca = x.epca := rfl
@[simp] theorem Tile.raise_epcx (x : Tile) (w : Warns) : (x.raise w).epcx = x.epcx := rfl
@[simp] theorem Tile.raise_slv (x : Tile) (w : Warns) : (x.raise w).slv = x.slv := rfl
@[simp] theorem Tile.raise_held (x : Tile) (w : Warns) : (x.raise w).held = x.held := rfl
@[simp] theorem Tile.raise_accs (x : Tile) (w : Warns) : (x.raise w).accs = x.accs := rfl
@[simp] theorem Tile.raise_rings (x : Tile) (w : Warns) : (x.raise w).rings = x.rings := rfl
@[simp] theorem Tile.raise_chains (x : Tile) (w : Warns) : (x.raise w).chains = x.chains := rfl
@[simp] theorem Tile.raise_mq (x : Tile) (w : Warns) : (x.raise w).mq = x.mq := rfl
@[simp] theorem Tile.raise_slots (x : Tile) (w : Warns) : (x.raise w).slots = x.slots := rfl
@[simp] theorem Tile.raise_fires (x : Tile) (w : Warns) : (x.raise w).fires = x.fires := rfl
@[simp] theorem Tile.raise_sb (x : Tile) (w : Warns) : (x.raise w).sb = x.sb := rfl
@[simp] theorem Tile.raise_fills (x : Tile) (w : Warns) : (x.raise w).fills = x.fills := rfl
@[simp] theorem Tile.raise_tswaps (x : Tile) (w : Warns) : (x.raise w).tswaps = x.tswaps := rfl
@[simp] theorem Tile.raise_spad (x : Tile) (w : Warns) : (x.raise w).spad = x.spad := rfl
@[simp] theorem Tile.raise_code (x : Tile) (w : Warns) : (x.raise w).code = x.code := rfl
@[simp] theorem Tile.raise_gather (x : Tile) (w : Warns) : (x.raise w).gather = x.gather := rfl
@[simp] theorem Tile.raise_chans (x : Tile) (w : Warns) : (x.raise w).chans = x.chans := rfl
@[simp] theorem Tile.raise_arrivals (x : Tile) (w : Warns) : (x.raise w).arrivals = x.arrivals := rfl
@[simp] theorem Tile.raise_seen (x : Tile) (w : Warns) : (x.raise w).seen = x.seen := rfl
@[simp] theorem Tile.raise_pipes (x : Tile) (w : Warns) : (x.raise w).pipes = x.pipes := rfl
@[simp] theorem Tile.raise_cslots (x : Tile) (w : Warns) : (x.raise w).cslots = x.cslots := rfl
@[simp] theorem Tile.raise_handles (x : Tile) (w : Warns) : (x.raise w).handles = x.handles := rfl
@[simp] theorem Tile.raise_fibre (x : Tile) (w : Warns) : (x.raise w).fibre = x.fibre := rfl
@[simp] theorem Tile.raise_tiles (x : Tile) (w : Warns) : (x.raise w).tiles = x.tiles := rfl
@[simp] theorem Tile.raise_events (x : Tile) (w : Warns) : (x.raise w).events = x.events := rfl

/-! ### Tile.wake -/

@[simp] theorem Tile.wake_phase (x : Tile)  : (x.wake).phase = x.phase := rfl
@[simp] theorem Tile.wake_frozen (x : Tile)  : (x.wake).frozen = x.frozen := rfl
@[simp] theorem Tile.wake_vf (x : Tile)  : (x.wake).vf = x.vf := rfl
@[simp] theorem Tile.wake_inst (x : Tile)  : (x.wake).inst = x.inst := rfl
@[simp] theorem Tile.wake_tidx (x : Tile)  : (x.wake).tidx = x.tidx := rfl
@[simp] theorem Tile.wake_sq (x : Tile)  : (x.wake).sq = x.sq := rfl
@[simp] theorem Tile.wake_vq (x : Tile)  : (x.wake).vq = x.vq := rfl
@[simp] theorem Tile.wake_vregs (x : Tile)  : (x.wake).vregs = x.vregs := rfl
@[simp] theorem Tile.wake_kregs (x : Tile)  : (x.wake).kregs = x.kregs := rfl
@[simp] theorem Tile.wake_warn (x : Tile)  : (x.wake).warn = x.warn := rfl
@[simp] theorem Tile.wake_tid (x : Tile)  : (x.wake).tid = x.tid := rfl
@[simp] theorem Tile.wake_rank (x : Tile)  : (x.wake).rank = x.rank := rfl
@[simp] theorem Tile.wake_crect (x : Tile)  : (x.wake).crect = x.crect := rfl
@[simp] theorem Tile.wake_ctx (x : Tile)  : (x.wake).ctx = x.ctx := rfl
@[simp] theorem Tile.wake_tvec (x : Tile)  : (x.wake).tvec = x.tvec := rfl
@[simp] theorem Tile.wake_tcause (x : Tile)  : (x.wake).tcause = x.tcause := rfl
@[simp] theorem Tile.wake_tval (x : Tile)  : (x.wake).tval = x.tval := rfl
@[simp] theorem Tile.wake_epca (x : Tile)  : (x.wake).epca = x.epca := rfl
@[simp] theorem Tile.wake_epcx (x : Tile)  : (x.wake).epcx = x.epcx := rfl
@[simp] theorem Tile.wake_slv (x : Tile)  : (x.wake).slv = x.slv := rfl
@[simp] theorem Tile.wake_held (x : Tile)  : (x.wake).held = x.held := rfl
@[simp] theorem Tile.wake_accs (x : Tile)  : (x.wake).accs = x.accs := rfl
@[simp] theorem Tile.wake_rings (x : Tile)  : (x.wake).rings = x.rings := rfl
@[simp] theorem Tile.wake_chains (x : Tile)  : (x.wake).chains = x.chains := rfl
@[simp] theorem Tile.wake_mq (x : Tile)  : (x.wake).mq = x.mq := rfl
@[simp] theorem Tile.wake_slots (x : Tile)  : (x.wake).slots = x.slots := rfl
@[simp] theorem Tile.wake_fires (x : Tile)  : (x.wake).fires = x.fires := rfl
@[simp] theorem Tile.wake_sb (x : Tile)  : (x.wake).sb = x.sb := rfl
@[simp] theorem Tile.wake_fills (x : Tile)  : (x.wake).fills = x.fills := rfl
@[simp] theorem Tile.wake_tswaps (x : Tile)  : (x.wake).tswaps = x.tswaps := rfl
@[simp] theorem Tile.wake_spad (x : Tile)  : (x.wake).spad = x.spad := rfl
@[simp] theorem Tile.wake_code (x : Tile)  : (x.wake).code = x.code := rfl
@[simp] theorem Tile.wake_gather (x : Tile)  : (x.wake).gather = x.gather := rfl
@[simp] theorem Tile.wake_chans (x : Tile)  : (x.wake).chans = x.chans := rfl
@[simp] theorem Tile.wake_arrivals (x : Tile)  : (x.wake).arrivals = x.arrivals := rfl
@[simp] theorem Tile.wake_seen (x : Tile)  : (x.wake).seen = x.seen := rfl
@[simp] theorem Tile.wake_pipes (x : Tile)  : (x.wake).pipes = x.pipes := rfl
@[simp] theorem Tile.wake_cslots (x : Tile)  : (x.wake).cslots = x.cslots := rfl
@[simp] theorem Tile.wake_handles (x : Tile)  : (x.wake).handles = x.handles := rfl
@[simp] theorem Tile.wake_fibre (x : Tile)  : (x.wake).fibre = x.fibre := rfl
@[simp] theorem Tile.wake_tiles (x : Tile)  : (x.wake).tiles = x.tiles := rfl
@[simp] theorem Tile.wake_events (x : Tile)  : (x.wake).events = x.events := rfl

/-! ### Tile.spadPut -/

@[simp] theorem Tile.spadPut_phase (x : Tile) (a n v : Nat) : (x.spadPut a n v).phase = x.phase := rfl
@[simp] theorem Tile.spadPut_frozen (x : Tile) (a n v : Nat) : (x.spadPut a n v).frozen = x.frozen := rfl
@[simp] theorem Tile.spadPut_vf (x : Tile) (a n v : Nat) : (x.spadPut a n v).vf = x.vf := rfl
@[simp] theorem Tile.spadPut_inst (x : Tile) (a n v : Nat) : (x.spadPut a n v).inst = x.inst := rfl
@[simp] theorem Tile.spadPut_tidx (x : Tile) (a n v : Nat) : (x.spadPut a n v).tidx = x.tidx := rfl
@[simp] theorem Tile.spadPut_fa (x : Tile) (a n v : Nat) : (x.spadPut a n v).fa = x.fa := rfl
@[simp] theorem Tile.spadPut_fx (x : Tile) (a n v : Nat) : (x.spadPut a n v).fx = x.fx := rfl
@[simp] theorem Tile.spadPut_sq (x : Tile) (a n v : Nat) : (x.spadPut a n v).sq = x.sq := rfl
@[simp] theorem Tile.spadPut_vq (x : Tile) (a n v : Nat) : (x.spadPut a n v).vq = x.vq := rfl
@[simp] theorem Tile.spadPut_vregs (x : Tile) (a n v : Nat) : (x.spadPut a n v).vregs = x.vregs := rfl
@[simp] theorem Tile.spadPut_kregs (x : Tile) (a n v : Nat) : (x.spadPut a n v).kregs = x.kregs := rfl
@[simp] theorem Tile.spadPut_warn (x : Tile) (a n v : Nat) : (x.spadPut a n v).warn = x.warn := rfl
@[simp] theorem Tile.spadPut_tid (x : Tile) (a n v : Nat) : (x.spadPut a n v).tid = x.tid := rfl
@[simp] theorem Tile.spadPut_rank (x : Tile) (a n v : Nat) : (x.spadPut a n v).rank = x.rank := rfl
@[simp] theorem Tile.spadPut_crect (x : Tile) (a n v : Nat) : (x.spadPut a n v).crect = x.crect := rfl
@[simp] theorem Tile.spadPut_ctx (x : Tile) (a n v : Nat) : (x.spadPut a n v).ctx = x.ctx := rfl
@[simp] theorem Tile.spadPut_tvec (x : Tile) (a n v : Nat) : (x.spadPut a n v).tvec = x.tvec := rfl
@[simp] theorem Tile.spadPut_tcause (x : Tile) (a n v : Nat) : (x.spadPut a n v).tcause = x.tcause := rfl
@[simp] theorem Tile.spadPut_tval (x : Tile) (a n v : Nat) : (x.spadPut a n v).tval = x.tval := rfl
@[simp] theorem Tile.spadPut_epca (x : Tile) (a n v : Nat) : (x.spadPut a n v).epca = x.epca := rfl
@[simp] theorem Tile.spadPut_epcx (x : Tile) (a n v : Nat) : (x.spadPut a n v).epcx = x.epcx := rfl
@[simp] theorem Tile.spadPut_slv (x : Tile) (a n v : Nat) : (x.spadPut a n v).slv = x.slv := rfl
@[simp] theorem Tile.spadPut_held (x : Tile) (a n v : Nat) : (x.spadPut a n v).held = x.held := rfl
@[simp] theorem Tile.spadPut_accs (x : Tile) (a n v : Nat) : (x.spadPut a n v).accs = x.accs := rfl
@[simp] theorem Tile.spadPut_rings (x : Tile) (a n v : Nat) : (x.spadPut a n v).rings = x.rings := rfl
@[simp] theorem Tile.spadPut_chains (x : Tile) (a n v : Nat) : (x.spadPut a n v).chains = x.chains := rfl
@[simp] theorem Tile.spadPut_mq (x : Tile) (a n v : Nat) : (x.spadPut a n v).mq = x.mq := rfl
@[simp] theorem Tile.spadPut_slots (x : Tile) (a n v : Nat) : (x.spadPut a n v).slots = x.slots := rfl
@[simp] theorem Tile.spadPut_fires (x : Tile) (a n v : Nat) : (x.spadPut a n v).fires = x.fires := rfl
@[simp] theorem Tile.spadPut_sb (x : Tile) (a n v : Nat) : (x.spadPut a n v).sb = x.sb := rfl
@[simp] theorem Tile.spadPut_fills (x : Tile) (a n v : Nat) : (x.spadPut a n v).fills = x.fills := rfl
@[simp] theorem Tile.spadPut_tswaps (x : Tile) (a n v : Nat) : (x.spadPut a n v).tswaps = x.tswaps := rfl
@[simp] theorem Tile.spadPut_code (x : Tile) (a n v : Nat) : (x.spadPut a n v).code = x.code := rfl
@[simp] theorem Tile.spadPut_gather (x : Tile) (a n v : Nat) : (x.spadPut a n v).gather = x.gather := rfl
@[simp] theorem Tile.spadPut_chans (x : Tile) (a n v : Nat) : (x.spadPut a n v).chans = x.chans := rfl
@[simp] theorem Tile.spadPut_arrivals (x : Tile) (a n v : Nat) : (x.spadPut a n v).arrivals = x.arrivals := rfl
@[simp] theorem Tile.spadPut_seen (x : Tile) (a n v : Nat) : (x.spadPut a n v).seen = x.seen := rfl
@[simp] theorem Tile.spadPut_pipes (x : Tile) (a n v : Nat) : (x.spadPut a n v).pipes = x.pipes := rfl
@[simp] theorem Tile.spadPut_cslots (x : Tile) (a n v : Nat) : (x.spadPut a n v).cslots = x.cslots := rfl
@[simp] theorem Tile.spadPut_handles (x : Tile) (a n v : Nat) : (x.spadPut a n v).handles = x.handles := rfl
@[simp] theorem Tile.spadPut_fibre (x : Tile) (a n v : Nat) : (x.spadPut a n v).fibre = x.fibre := rfl
@[simp] theorem Tile.spadPut_tiles (x : Tile) (a n v : Nat) : (x.spadPut a n v).tiles = x.tiles := rfl
@[simp] theorem Tile.spadPut_events (x : Tile) (a n v : Nat) : (x.spadPut a n v).events = x.events := rfl

/-! ### FrontState.setReg -/

@[simp] theorem FrontState.setReg_pc (x : FrontState) (r : Nat) (v : Word) : (x.setReg r v).pc = x.pc := by unfold FrontState.setReg; split <;> rfl
@[simp] theorem FrontState.setReg_pend (x : FrontState) (r : Nat) (v : Word) : (x.setReg r v).pend = x.pend := by unfold FrontState.setReg; split <;> rfl
@[simp] theorem FrontState.setReg_rmode (x : FrontState) (r : Nat) (v : Word) : (x.setReg r v).rmode = x.rmode := by unfold FrontState.setReg; split <;> rfl
@[simp] theorem FrontState.setReg_sgen (x : FrontState) (r : Nat) (v : Word) : (x.setReg r v).sgen = x.sgen := by unfold FrontState.setReg; split <;> rfl
@[simp] theorem FrontState.setReg_hints (x : FrontState) (r : Nat) (v : Word) : (x.setReg r v).hints = x.hints := by unfold FrontState.setReg; split <;> rfl
@[simp] theorem FrontState.setReg_ended (x : FrontState) (r : Nat) (v : Word) : (x.setReg r v).ended = x.ended := by unfold FrontState.setReg; split <;> rfl
@[simp] theorem FrontState.setReg_endPc (x : FrontState) (r : Nat) (v : Word) : (x.setReg r v).endPc = x.endPc := by unfold FrontState.setReg; split <;> rfl
@[simp] theorem FrontState.setReg_inEret (x : FrontState) (r : Nat) (v : Word) : (x.setReg r v).inEret = x.inEret := by unfold FrontState.setReg; split <;> rfl
@[simp] theorem FrontState.setReg_wait (x : FrontState) (r : Nat) (v : Word) : (x.setReg r v).wait = x.wait := by unfold FrontState.setReg; split <;> rfl

/-! ### Fronts of a tile -/

@[simp] theorem Tile.front_setFront (T : Tile) (f : Front) (F : FrontState) : (T.setFront f F).front f = F := by cases f <;> rfl
@[simp] theorem Tile.front_setFront_other (T : Tile) (f : Front) (F : FrontState) : (T.setFront f F).front f.other = T.front f.other := by
  cases f <;> rfl
@[simp] theorem Tile.front_modFront (T : Tile) (f : Front) (g : FrontState → FrontState) : (T.modFront f g).front f = g (T.front f) := by
  cases f <;> rfl
@[simp] theorem Tile.front_modFront_other (T : Tile) (f : Front) (g : FrontState → FrontState) :
    (T.modFront f g).front f.other = T.front f.other := by cases f <;> rfl
@[simp] theorem Tile.front_setSport (T : Tile) (q : Nat) (l : List (QSlot 64)) (f : Front) : (T.setSport q l).front f = T.front f := by
  cases f <;> rfl
@[simp] theorem Tile.front_setVport (T : Tile) (q : Nat) (l : List (QSlot 2048)) (f : Front) : (T.setVport q l).front f = T.front f := by
  cases f <;> rfl
@[simp] theorem Tile.front_setVreg (T : Tile) (r : Nat) (v : Vec) (f : Front) : (T.setVreg r v).front f = T.front f := by cases f <;> rfl
@[simp] theorem Tile.front_warnBit (T : Tile) (b : Nat) (f : Front) : (T.warnBit b).front f = T.front f := by cases f <;> rfl
@[simp] theorem Tile.front_warnIf (T : Tile) (b : Nat) (c : Bool) (f : Front) : (T.warnIf b c).front f = T.front f := by
  cases c <;> cases f <;> rfl
@[simp] theorem Tile.front_raise (T : Tile) (w : Warns) (f : Front) : (T.raise w).front f = T.front f := by cases f <;> rfl
@[simp] theorem Tile.front_wake (T : Tile) (f : Front) : T.wake.front f = { T.front f with wait := .none } := by cases f <;> rfl
@[simp] theorem Tile.front_spadPut (T : Tile) (a n v : Nat) (f : Front) : (T.spadPut a n v).front f = T.front f := by cases f <;> rfl
@[simp] theorem Front.other_other (f : Front) : f.other.other = f := by cases f <;> rfl

/-! ### Ports and registers -/

theorem Tile.sport_setSport (T : Tile) {q : Nat} (l : List (QSlot 64)) (h : q < 8) : (T.setSport q l).sport q = l := by
  simp [Tile.sport, Tile.setSport, h]

theorem Tile.sport_setSport_other (T : Tile) {q r : Nat} (l : List (QSlot 64)) (h : r ≠ q) : (T.setSport q l).sport r = T.sport r := by
  unfold Tile.sport Tile.setSport; split
  · rename_i hr; simp [Ne.symm h]
  · rfl

theorem Tile.vport_setVport (T : Tile) {q : Nat} (l : List (QSlot 2048)) (h : q < 4) : (T.setVport q l).vport q = l := by
  simp [Tile.vport, Tile.setVport, h]

theorem Tile.vport_setVport_other (T : Tile) {q r : Nat} (l : List (QSlot 2048)) (h : r ≠ q) : (T.setVport q l).vport r = T.vport r := by
  unfold Tile.vport Tile.setVport; split
  · rename_i hr; simp [Ne.symm h]
  · rfl

theorem Tile.vreg_setVreg (T : Tile) {r : Nat} (v : Vec) (h : r < 28) : (T.setVreg r v).vreg r = v := by
  simp [Tile.vreg, Tile.setVreg, h]

theorem Tile.vreg_setVreg_other (T : Tile) {r u : Nat} (v : Vec) (h : u ≠ r) : (T.setVreg r v).vreg u = T.vreg u := by
  unfold Tile.vreg Tile.setVreg; split
  · rename_i hr; simp [Ne.symm h]
  · rfl

theorem FrontState.reg_setReg (F : FrontState) {r : Nat} (v : Word) (h0 : 0 < r) (h : r < 24) : (F.setReg r v).reg r = v := by
  simp [FrontState.reg, FrontState.setReg, h, Nat.ne_of_gt h0]

theorem FrontState.reg_setReg_other (F : FrontState) {r u : Nat} (v : Word) (h : u ≠ r) : (F.setReg r v).reg u = F.reg u := by
  unfold FrontState.setReg
  split
  · rfl
  · simp only [FrontState.reg]; split
    · split
      · rfl
      · rename_i hu hu0; simp [Ne.symm h]
    · rfl

/-- s0 reads zero (R17). -/
@[simp] theorem FrontState.reg_zero (F : FrontState) : F.reg 0 = 0 := by simp [FrontState.reg]

/-- k0 reads all ones (R100). -/
@[simp] theorem Tile.kreg_zero (T : Tile) : T.kreg 0 = BitVec.allOnes 64 := by simp [Tile.kreg]

@[simp] theorem Tile.sport_modFront (T : Tile) (f : Front) (g : FrontState → FrontState) (q : Nat) : (T.modFront f g).sport q = T.sport q := by
  cases f <;> rfl
@[simp] theorem Tile.vport_modFront (T : Tile) (f : Front) (g : FrontState → FrontState) (q : Nat) : (T.modFront f g).vport q = T.vport q := by
  cases f <;> rfl
@[simp] theorem Tile.vreg_modFront (T : Tile) (f : Front) (g : FrontState → FrontState) (r : Nat) : (T.modFront f g).vreg r = T.vreg r := by
  cases f <;> rfl
@[simp] theorem Tile.vport_setSport (T : Tile) (q r : Nat) (l : List (QSlot 64)) : (T.setSport q l).vport r = T.vport r := rfl
@[simp] theorem Tile.sport_setVport (T : Tile) (q r : Nat) (l : List (QSlot 2048)) : (T.setVport q l).sport r = T.sport r := rfl
@[simp] theorem Tile.vreg_setSport (T : Tile) (q r : Nat) (l : List (QSlot 64)) : (T.setSport q l).vreg r = T.vreg r := rfl
@[simp] theorem Tile.vreg_setVport (T : Tile) (q r : Nat) (l : List (QSlot 2048)) : (T.setVport q l).vreg r = T.vreg r := rfl
@[simp] theorem Tile.sport_setVreg (T : Tile) (q r : Nat) (v : Vec) : (T.setVreg r v).sport q = T.sport q := rfl
@[simp] theorem Tile.vport_setVreg (T : Tile) (q r : Nat) (v : Vec) : (T.setVreg r v).vport q = T.vport q := rfl
@[simp] theorem Tile.sport_wake (T : Tile) (q : Nat) : T.wake.sport q = T.sport q := rfl
@[simp] theorem Tile.vport_wake (T : Tile) (q : Nat) : T.wake.vport q = T.vport q := rfl
@[simp] theorem Tile.vreg_wake (T : Tile) (r : Nat) : T.wake.vreg r = T.vreg r := rfl
@[simp] theorem Tile.sport_warnIf (T : Tile) (b : Nat) (c : Bool) (q : Nat) : (T.warnIf b c).sport q = T.sport q := by cases c <;> rfl
@[simp] theorem Tile.vport_warnIf (T : Tile) (b : Nat) (c : Bool) (q : Nat) : (T.warnIf b c).vport q = T.vport q := by cases c <;> rfl
@[simp] theorem Tile.vreg_warnIf (T : Tile) (b : Nat) (c : Bool) (r : Nat) : (T.warnIf b c).vreg r = T.vreg r := by cases c <;> rfl

/-! ### Tiles of the module -/

theorem State.tile_setTile (s : State) (t : Nat) {T : Tile} (h : T ≠ Tile.reset) : (s.setTile t T).tile t = T :=
  Sparse.get_set_self s.tiles t h

theorem State.tile_setTile_other (s : State) {t u : Nat} (T : Tile) (h : u ≠ t) : (s.setTile t T).tile u = s.tile u :=
  Sparse.get_set_other s.tiles T h

/-- A tile whose strand runs is no wiped tile. -/
theorem Tile.ne_reset_of_phase {T : Tile} (h : T.phase ≠ .idle) : T ≠ Tile.reset := by
  rintro rfl; exact h rfl

end Sys2Proof.Machine
end

