-- ==== Sys2Proof/Laws/Issue.lean ====
section
/-! SUPPORT. What an issuing word does, once for all words: its sources, the tile in which it takes effect, the count of
issued words, and the effect of a word on its own tile (Safety's `Executed`). -/

namespace Sys2Proof.Machine

/-! ### Reading sources -/

theorem Tile.takeS_kept (T : Tile) (f : Front) (r : Reg) : (T.takeS f r).2 = { T with sq := (T.takeS f r).2.sq } := by
  unfold Tile.takeS
  split
  · rfl
  · split <;> rfl

theorem Tile.takeV_kept (T : Tile) (r : Reg) : (T.takeV r).2 = { T with vq := (T.takeV r).2.vq } := by
  unfold Tile.takeV
  split
  · rfl
  · split <;> rfl

theorem Tile.takeAllS_kept' (T : Tile) (f : Front) (rs : List Reg) : ∃ l, (T.takeAllS f rs).2 = { T with sq := l } := by
  induction rs generalizing T with
  | nil => exact ⟨T.sq, rfl⟩
  | cons r rs ih =>
    obtain ⟨l, h⟩ := ih (T.takeS f r).2
    have h2 := Tile.takeS_kept T f r
    generalize (T.takeS f r).2.sq = m at h2
    refine ⟨l, ?_⟩
    simp only [Tile.takeAllS]
    rw [h, h2]

theorem Tile.takeAllV_kept' (T : Tile) (rv : List Reg) : ∃ l, (T.takeAllV rv).2 = { T with vq := l } := by
  induction rv generalizing T with
  | nil => exact ⟨T.vq, rfl⟩
  | cons r rs ih =>
    obtain ⟨l, h⟩ := ih (T.takeV r).2
    have h2 := Tile.takeV_kept T r
    generalize (T.takeV r).2.vq = m at h2
    refine ⟨l, ?_⟩
    simp only [Tile.takeAllV]
    rw [h, h2]

theorem Tile.takeS_front (T : Tile) (f g : Front) (r : Reg) : (T.takeS f r).2.front g = T.front g := by
  rw [Tile.takeS_kept]; cases g <;> rfl

/-- A source takes the oldest entry of its port and no other. -/
theorem Tile.takeS_sport (T : Tile) (f : Front) (r : Reg) {q : Nat} (hq : q < 8) :
    (T.takeS f r).2.sport q = (T.sport q).drop (if r.toNat = q + 24 then 1 else 0) := by
  unfold Tile.takeS
  split
  · rename_i h; simp [show r.toNat ≠ q + 24 by omega]
  · rename_i h
    by_cases hr : r.toNat = q + 24
    · have he : r.toNat - 24 = q := by omega
      simp only [hr, if_true, show q + 24 - 24 = q by omega]
      split
      · rename_i h0; simp [h0]
      · rename_i e rest h1
        rw [Tile.sport_setSport _ _ hq, h1]; rfl
    · simp only [hr, if_false, List.drop_zero]
      split
      · rfl
      · rw [Tile.sport_setSport_other]; omega

theorem Tile.takeV_vport (T : Tile) (r : Reg) {q : Nat} (hq : q < 4) :
    (T.takeV r).2.vport q = (T.vport q).drop (if r.toNat = q + 28 then 1 else 0) := by
  unfold Tile.takeV
  split
  · rename_i h; simp [show r.toNat ≠ q + 28 by omega]
  · rename_i h
    by_cases hr : r.toNat = q + 28
    · simp only [hr, if_true, show q + 28 - 28 = q by omega]
      split
      · rename_i h0; simp [h0]
      · rename_i e rest h1
        rw [Tile.vport_setVport _ _ hq, h1]; rfl
    · simp only [hr, if_false, List.drop_zero]
      split
      · rfl
      · rw [Tile.vport_setVport_other]; omega

theorem countReg_cons (r : Reg) (rs : List Reg) (n : Nat) :
    countReg (r :: rs) n = (if r.toNat = n then 1 else 0) + countReg rs n := by
  unfold countReg
  by_cases h : r.toNat = n <;> simp [h, Nat.add_comm]

theorem Tile.takeAllS_sport (T : Tile) (f : Front) (rs : List Reg) {q : Nat} (hq : q < 8) :
    (T.takeAllS f rs).2.sport q = (T.sport q).drop (countReg rs (q + 24)) := by
  induction rs generalizing T with
  | nil => rfl
  | cons r rs ih => simp only [Tile.takeAllS]; rw [ih, Tile.takeS_sport _ _ _ hq, List.drop_drop, countReg_cons]

theorem Tile.takeAllV_vport (T : Tile) (rv : List Reg) {q : Nat} (hq : q < 4) :
    (T.takeAllV rv).2.vport q = (T.vport q).drop (countReg rv (q + 28)) := by
  induction rv generalizing T with
  | nil => rfl
  | cons r rs ih => simp only [Tile.takeAllV]; rw [ih, Tile.takeV_vport _ _ hq, List.drop_drop, countReg_cons]

theorem Tile.takeAllS_length (T : Tile) (f : Front) (rs : List Reg) : (T.takeAllS f rs).1.length = rs.length := by
  induction rs generalizing T with
  | nil => rfl
  | cons r rs ih => simp [Tile.takeAllS, ih]

theorem Tile.takeS_val (T : Tile) (f : Front) (r : Reg) :
    (T.takeS f r).1 = if r.toNat < 24 then (T.front f).reg r.toNat else ((T.sport (r.toNat - 24)).map QSlot.val).getD 0 0 := by
  unfold Tile.takeS
  split
  · rfl
  · split <;> rename_i h <;> simp [h]

theorem Tile.takeV_val (T : Tile) (r : Reg) :
    (T.takeV r).1 = if r.toNat < 28 then T.vreg r.toNat else ((T.vport (r.toNat - 28)).map QSlot.val).getD 0 0 := by
  unfold Tile.takeV
  split
  · rfl
  · split <;> rename_i h <;> simp [h]

/-- Source k of a list is read as `Tile.src` says: every port gives its entries in order. -/
theorem Tile.takeAllS_val (T : Tile) (f : Front) (rs : List Reg) (k : Nat) : (T.takeAllS f rs).1.getD k 0 = T.src f rs k := by
  induction rs generalizing T k with
  | nil => simp [Tile.takeAllS, Tile.src]
  | cons r rs ih =>
    cases k with
    | zero => simp [Tile.takeAllS, Tile.src, Tile.takeS_val, countReg]
    | succ k =>
      simp only [Tile.takeAllS, List.getD_cons_succ]
      rw [ih]
      simp only [Tile.src, List.getElem?_cons_succ, Tile.takeS_front, List.take_succ_cons, countReg_cons]
      cases h : rs[k]? with
      | none => rfl
      | some u =>
        dsimp only
        split
        · rfl
        · rename_i hu
          have h8 : u.toNat - 24 < 8 := by have := u.isLt; omega
          rw [Tile.takeS_sport _ _ _ h8, show u.toNat - 24 + 24 = u.toNat by omega]
          simp [List.getD_eq_getElem?_getD, List.getElem?_drop]

theorem Tile.takeAllV_val (T : Tile) (rv : List Reg) (k : Nat) : (T.takeAllV rv).1.getD k 0 = T.vsrc rv k := by
  induction rv generalizing T k with
  | nil => simp [Tile.takeAllV, Tile.vsrc]
  | cons r rs ih =>
    cases k with
    | zero => simp [Tile.takeAllV, Tile.vsrc, Tile.takeV_val, countReg]
    | succ k =>
      simp only [Tile.takeAllV, List.getD_cons_succ]
      rw [ih]
      simp only [Tile.vsrc, List.getElem?_cons_succ, List.take_succ_cons, countReg_cons]
      cases h : rs[k]? with
      | none => rfl
      | some u =>
        dsimp only
        split
        · rw [Tile.takeV_kept]; rfl
        · rename_i hu
          have h4 : u.toNat - 28 < 4 := by have := u.isLt; omega
          rw [Tile.takeV_vport _ _ h4, show u.toNat - 28 + 28 = u.toNat by omega]
          simp [List.getD_eq_getElem?_getD, List.getElem?_drop]

/-! ### Counting (R332 to R334) -/

/-- Only performance counters and their wraps differ. -/
structure OnlyCounters (s t : State) : Prop where
  rest   : t = { s with vfs := t.vfs, agenda := t.agenda }
  vfs    : ∀ v, t.vf v = { s.vf v with perf := (t.vf v).perf }
  agenda : ∃ l, t.agenda = s.agenda ++ l ∧ ∀ e ∈ l, ∃ v k, e = .counterWrap v k

theorem OnlyCounters.refl (s : State) : OnlyCounters s s := ⟨rfl, fun _ => rfl, [], by simp⟩

theorem OnlyCounters.trans {s t u : State} (h : OnlyCounters s t) (k : OnlyCounters t u) : OnlyCounters s u := by
  obtain ⟨h1, h2, l, h3, h4⟩ := h
  obtain ⟨k1, k2, m, k3, k4⟩ := k
  refine ⟨?_, fun v => ?_, l ++ m, by rw [k3, h3, List.append_assoc], ?_⟩
  · rw [k1, h1]
  · rw [k2 v, h2 v]
  · intro e he
    rcases List.mem_append.1 he with he | he
    · exact h4 e he
    · exact k4 e he

theorem bits_zero (w hi lo : Nat) : bits (0#w) hi lo = 0 := by simp [bits, fld]

theorem perfAddOne_only (s : State) (v code n k : Nat) (hc : code ≠ 0) : OnlyCounters s (perfAddOne s v code n k) := by
  unfold perfAddOne
  dsimp only
  split
  · rename_i h
    have hne : ∀ p, ({ s.vf v with perf := p } : Vf) ≠ Vf.reset := by
      intro p hp
      have hz : (s.vf v).cfg = 0#64 := congrArg Vf.cfg hp
      rw [hz, bits_zero] at h
      exact hc h.1.symm
    have hset : ∀ p, OnlyCounters s (s.setVf v { s.vf v with perf := p }) := by
      intro p
      refine ⟨rfl, fun u => ?_, [], by simp⟩
      by_cases hu : u = v
      · subst hu
        have : (s.setVf u { s.vf u with perf := p }).vf u = { s.vf u with perf := p } := Sparse.get_set_self _ _ (hne p)
        rw [this]
      · have : (s.setVf v { s.vf v with perf := p }).vf u = s.vf u := Sparse.get_set_other _ _ hu
        rw [this]
    split
    · exact (hset _).trans ⟨rfl, fun _ => rfl, _, rfl, by simp⟩
    · exact hset _
  · exact OnlyCounters.refl s

/-- Counting an event changes counters alone. -/
theorem count_only (s : State) (v code n : Nat) (hc : code ≠ 0) : OnlyCounters s (s.count v code n) := by
  unfold State.count
  split
  · exact OnlyCounters.refl s
  · simp only [List.foldl]
    exact (((perfAddOne_only s v code n 0 hc).trans (perfAddOne_only _ v code n 1 hc)).trans (perfAddOne_only _ v code n 2 hc)).trans
      (perfAddOne_only _ v code n 3 hc)

theorem OnlyCounters.tile {s t : State} (h : OnlyCounters s t) (u : Nat) : t.tile u = s.tile u := by rw [h.rest]; rfl
theorem OnlyCounters.focus {s t : State} (h : OnlyCounters s t) : t.focus = s.focus := by rw [h.rest]
theorem OnlyCounters.cur {s t : State} (h : OnlyCounters s t) : t.cur = s.cur := by rw [h.rest]; rfl

/-! ### The tile in which a word takes effect -/

theorem lastFor_append {α : Type} (l : List (Reg × α)) (d : Reg) (v : α) (r : Nat) :
    lastFor (l ++ [(d, v)]) r = if d.toNat = r then some v else lastFor l r := by
  induction l with
  | nil => simp [lastFor]
  | cons p l ih =>
    obtain ⟨e, u⟩ := p
    simp only [List.cons_append, lastFor, ih]
    by_cases h : d.toNat = r <;> simp [h]

theorem pushesFor_append {n : Nat} (l : List (Reg × BitVec n)) (d : Reg) (v : BitVec n) (r : Nat) :
    pushesFor (l ++ [(d, v)]) r = pushesFor l r ++ if d.toNat = r then [.filled v] else [] := by
  unfold pushesFor
  by_cases h : d.toNat = r <;> simp [h]

theorem reservesFor_append {n : Nat} (l : List (Reg × Nat)) (d : Reg) (i r : Nat) :
    (reservesFor (l ++ [(d, i)]) r : List (QSlot n)) = reservesFor l r ++ if d.toNat = r then [.pending i] else [] := by
  unfold reservesFor
  by_cases h : d.toNat = r <;> simp [h]

theorem interlocksOf_append (l : List (Reg × Nat)) (d : Reg) (i : Nat) :
    interlocksOf (l ++ [(d, i)]) = interlocksOf l ++ if d.toNat ≠ 0 ∧ d.toNat < 24 then [(d.toNat, i)] else [] := by
  unfold interlocksOf
  by_cases h : d.toNat ≠ 0 ∧ d.toNat < 24
  · simp [h.1, h.2]
  · rw [if_neg h, List.filter_append]
    have : (d.toNat != 0 && decide (d.toNat < 24)) = false := by
      simp only [Bool.and_eq_false_iff, bne_eq_false_iff_eq, decide_eq_false_iff_not]
      by_cases h0 : d.toNat = 0
      · exact Or.inl h0
      · exact Or.inr (fun hlt => h ⟨h0, hlt⟩)
    simp [this]

/-- Sources read, program counter advanced, hints dropped: nothing else (R17, R22, R28, R57). -/
theorem start_done (fm : Form) (T : Tile) (f : Front) : TileDone T (fm.start T f).2 f fm {} := by
  unfold Form.start
  obtain ⟨l, hl⟩ := T.takeAllS_kept' f fm.rs
  obtain ⟨m, hm⟩ := (T.takeAllS f fm.rs).2.takeAllV_kept' fm.rv
  have hsp := fun q (hq : q < 8) => T.takeAllS_sport f fm.rs hq
  have hvp := fun q (hq : q < 4) => (T.takeAllS f fm.rs).2.takeAllV_vport fm.rv hq
  dsimp only
  rw [hm, hl] at *
  have hsp' : ∀ q, q < 8 → ({ T with sq := l, vq := m } : Tile).sport q = (T.sport q).drop (countReg fm.rs (q + 24)) := hsp
  have hvp' : ∀ q, q < 4 → ({ T with sq := l, vq := m } : Tile).vport q = (T.vport q).drop (countReg fm.rv (q + 28)) := hvp
  constructor
  · cases f <;> cases fm.hintIgnored (T.front _).hints <;> rfl
  · cases f <;> cases fm.hintIgnored (T.front _).hints <;> rfl
  · rw [show (T.front f).pend ++ interlocksOf ({} : Effect).resv = (T.front f).pend from List.append_nil _]
    cases f <;> cases fm.hintIgnored (T.front _).hints <;> rfl
  · intro r _ _; cases f <;> cases fm.hintIgnored (T.front _).hints <;> rfl
  · intro q hq; simp [pushesFor, reservesFor, hsp' q hq]
  · intro r hr; simp [lastFor]; rfl
  · intro q hq; simp [pushesFor, reservesFor, hvp' q hq]
  · cases h : fm.hintIgnored (T.front f).hints <;> simp [Tile.warnIf, Tile.warnBit, warnOf]

theorem start_s (fm : Form) (T : Tile) (f : Front) (k : Nat) : (fm.start T f).1.s k = T.src f fm.rs k := T.takeAllS_val f fm.rs k

theorem start_v (fm : Form) (T : Tile) (f : Front) (k : Nat) : (fm.start T f).1.v k = T.vsrc fm.rv k := by
  have h := (T.takeAllS f fm.rs).2.takeAllV_val fm.rv k
  obtain ⟨l, hl⟩ := T.takeAllS_kept' f fm.rs
  unfold Form.start Issue.v
  dsimp only
  rw [h, hl]; rfl

theorem start_ipc (fm : Form) (T : Tile) (f : Front) : (fm.start T f).1.ipc = (T.front f).pc := rfl
theorem start_himm (fm : Form) (T : Tile) (f : Front) : (fm.start T f).1.himm = (T.front f).hints.himm := rfl
theorem start_hmod (fm : Form) (T : Tile) (f : Front) : (fm.start T f).1.hmod = (T.front f).hints.hmod := rfl

variable {T T' : Tile} {f : Front} {fm : Form} {x : Effect}

/-- A scalar result. -/
theorem TileDone.putS (h : TileDone T T' f fm x) (d : Reg) (v : Word) (hx : x.resv = []) :
    TileDone T (T'.putS f d v) f fm { x with dst := x.dst ++ [(d, v)] } := by
  obtain ⟨h1, h2, h3, h4, h5, h6, h7, h8⟩ := h
  unfold Tile.putS
  split
  · rename_i hd
    constructor
    · rw [h1]; cases f <;> rfl
    · simp [h2]
    · rw [Tile.front_modFront]
      have : ∀ F : FrontState, F.setReg d.toNat v = { F with regs := (F.setReg d.toNat v).regs } := by
        intro F; unfold FrontState.setReg; split <;> rfl
      rw [this, h3]
    · intro r h0 hr
      rw [Tile.front_modFront, lastFor_append]
      by_cases e : d.toNat = r
      · subst e; rw [FrontState.reg_setReg _ _ h0 hr]; simp
      · rw [FrontState.reg_setReg_other _ _ (Ne.symm e), h4 r h0 hr]; simp [e]
    · intro q hq
      rw [Tile.sport_modFront, h5 q hq, pushesFor_append]; simp [show d.toNat ≠ q + 24 by omega]
    · intro r hr; rw [Tile.vreg_modFront, h6 r hr]
    · intro q hq; rw [Tile.vport_modFront, h7 q hq]
    · simp [h8]
  · rename_i hd
    constructor
    · rw [h1]; cases f <;> rfl
    · simp [h2]
    · rw [Tile.front_setSport, h3]
    · intro r h0 hr
      rw [Tile.front_setSport, lastFor_append, h4 r h0 hr]
      simp [show d.toNat ≠ r by omega]
    · intro q hq
      rw [pushesFor_append]
      by_cases e : d.toNat = q + 24
      · have hq' : d.toNat - 24 = q := by omega
        rw [hq', Tile.sport_setSport _ _ hq, h5 q hq]; simp [e, hx, reservesFor]
      · rw [Tile.sport_setSport_other _ _ (by omega), h5 q hq]; simp [e]
    · intro r hr; rw [Tile.vreg_setSport, h6 r hr]
    · intro q hq; rw [Tile.vport_setSport, h7 q hq]
    · simp [h8]

/-- A vector result. -/
theorem TileDone.putV (h : TileDone T T' f fm x) (d : Reg) (v : Vec) (hx : x.vresv = []) :
    TileDone T (T'.putV d v) f fm { x with vdst := x.vdst ++ [(d, v)] } := by
  obtain ⟨h1, h2, h3, h4, h5, h6, h7, h8⟩ := h
  unfold Tile.putV
  split
  · rename_i hd
    constructor
    · rw [h1]; cases f <;> rfl
    · simp [h2]
    · rw [Tile.front_setVreg, h3]
    · intro r h0 hr; rw [Tile.front_setVreg, h4 r h0 hr]
    · intro q hq; rw [Tile.sport_setVreg, h5 q hq]
    · intro r hr
      rw [lastFor_append]
      by_cases e : d.toNat = r
      · subst e; rw [Tile.vreg_setVreg _ _ hr]; simp
      · rw [Tile.vreg_setVreg_other _ _ (Ne.symm e), h6 r hr]; simp [e]
    · intro q hq
      rw [Tile.vport_setVreg, h7 q hq, pushesFor_append]; simp [show d.toNat ≠ q + 28 by omega]
    · simp [h8]
  · rename_i hd
    constructor
    · rw [h1]; cases f <;> rfl
    · simp [h2]
    · rw [Tile.front_setVport, h3]
    · intro r h0 hr; rw [Tile.front_setVport, h4 r h0 hr]
    · intro q hq; rw [Tile.sport_setVport, h5 q hq]
    · intro r hr
      rw [Tile.vreg_setVport, lastFor_append, h6 r hr]; simp [show d.toNat ≠ r by omega]
    · intro q hq
      rw [pushesFor_append]
      by_cases e : d.toNat = q + 28
      · have hq' : d.toNat - 28 = q := by omega
        rw [hq', Tile.vport_setVport _ _ hq, h7 q hq]; simp [e, hx, reservesFor]
      · rw [Tile.vport_setVport_other _ _ (by omega), h7 q hq]; simp [e]
    · simp [h8]

/-- Sticky bits. -/
theorem TileDone.raise (h : TileDone T T' f fm x) (w : Warns) : TileDone T (T'.raise w) f fm { x with warns := x.warns ||| w } := by
  obtain ⟨h1, h2, h3, h4, h5, h6, h7, h8⟩ := h
  constructor
  · rw [h1]; cases f <;> rfl
  · simp [h2]
  · rw [Tile.front_raise, h3]
  · intro r h0 hr; rw [Tile.front_raise, h4 r h0 hr]
  · exact h5
  · exact h6
  · exact h7
  · simp [Tile.raise, h8, BitVec.or_assoc]

/-- A destination reserved for an operation. -/
theorem TileDone.reserveS (h : TileDone T T' f fm x) (d : Reg) (n : Nat)
    (hf : x.front = id) : TileDone T (T'.reserveS f d n).2 f fm { x with resv := x.resv ++ [(d, n)] } := by
  obtain ⟨h1, h2, h3, h4, h5, h6, h7, h8⟩ := h
  rw [hf] at h3
  unfold Tile.reserveS
  split
  · rename_i hd
    refine ⟨h1, h2, ?_, h4, fun q hq => ?_, h6, h7, h8⟩
    · rw [interlocksOf_append, hf, h3]; simp [hd]
    · rw [h5 q hq, reservesFor_append]; simp [show d.toNat ≠ q + 24 by omega]
  · split
    · rename_i h0 hd
      refine ⟨?_, by simp [h2], ?_, ?_, ?_, ?_, ?_, by simp [h8]⟩
      · rw [h1]; cases f <;> rfl
      · rw [Tile.front_modFront, interlocksOf_append, hf, h3]; simp [h0, hd]
      · intro r hr0 hr; rw [Tile.front_modFront, ← h4 r hr0 hr]; rfl
      · intro q hq; rw [Tile.sport_modFront, h5 q hq, reservesFor_append]; simp [show d.toNat ≠ q + 24 by omega]
      · intro r hr; rw [Tile.vreg_modFront, h6 r hr]
      · intro q hq; rw [Tile.vport_modFront, h7 q hq]
    · rename_i h0 hd
      refine ⟨?_, by simp [h2], ?_, ?_, ?_, ?_, ?_, by simp [h8]⟩
      · rw [h1]; cases f <;> rfl
      · rw [Tile.front_setSport, interlocksOf_append, hf, h3]; simp [hd]
      · intro r hr0 hr; rw [Tile.front_setSport, h4 r hr0 hr]
      · intro q hq
        rw [reservesFor_append]
        by_cases e : d.toNat = q + 24
        · have hq' : d.toNat - 24 = q := by omega
          rw [hq', Tile.sport_setSport _ _ hq, h5 q hq]; simp [e]
        · rw [Tile.sport_setSport_other _ _ (by omega), h5 q hq]; simp [e]
      · intro r hr; rw [Tile.vreg_setSport, h6 r hr]
      · intro q hq; rw [Tile.vport_setSport, h7 q hq]

/-- A slot of a vector port reserved for an operation. -/
theorem TileDone.reserveV (h : TileDone T T' f fm x) (d : Reg) (n : Nat) (hd : 28 ≤ d.toNat) :
    TileDone T (T'.reserveV d n).2 f fm { x with vresv := x.vresv ++ [(d, n)] } := by
  obtain ⟨h1, h2, h3, h4, h5, h6, h7, h8⟩ := h
  unfold Tile.reserveV
  refine ⟨?_, by simp [h2], ?_, ?_, ?_, ?_, ?_, by simp [h8]⟩
  · rw [h1]; cases f <;> rfl
  · rw [Tile.front_setVport, h3]
  · intro r hr0 hr; rw [Tile.front_setVport, h4 r hr0 hr]
  · intro q hq; rw [Tile.sport_setVport, h5 q hq]
  · intro r hr; rw [Tile.vreg_setVport, h6 r hr]
  · intro q hq
    rw [reservesFor_append]
    by_cases e : d.toNat = q + 28
    · have hq' : d.toNat - 28 = q := by omega
      rw [hq', Tile.vport_setVport _ _ hq, h7 q hq]; simp [e]
    · rw [Tile.vport_setVport_other _ _ (by omega), h7 q hq]; simp [e]

/-- Something else of the front changes. -/
theorem TileDone.onFront (h : TileDone T T' f fm x) (g : FrontState → FrontState) (hf : x.front = id)
    (hg : ∀ F R, g { F with regs := R } = { g F with regs := R }) (hr : ∀ F : FrontState, (g F).regs = F.regs) :
    TileDone T (T'.modFront f g) f fm { x with front := g } := by
  obtain ⟨h1, h2, h3, h4, h5, h6, h7, h8⟩ := h
  rw [hf] at h3
  refine ⟨?_, by simp [h2], ?_, ?_, ?_, ?_, ?_, by simp [h8]⟩
  · rw [h1]; cases f <;> rfl
  · rw [Tile.front_modFront, hr]
    conv_lhs => rw [h3]
    exact hg _ _
  · intro r hr0 hr1
    rw [Tile.front_modFront, ← h4 r hr0 hr1]
    simp only [FrontState.reg, hr]
  · intro q hq; rw [Tile.sport_modFront, h5 q hq]
  · intro r hr; rw [Tile.vreg_modFront, h6 r hr]
  · intro q hq; rw [Tile.vport_modFront, h7 q hq]

/-- Something else of the tile changes. -/
theorem TileDone.onBody (h : TileDone T T' f fm x) (g : Tile → Tile)
    (hg : ∀ U fa fx sq vq vregs warn, g { U with fa := fa, fx := fx, sq := sq, vq := vq, vregs := vregs, warn := warn } =
      { g U with fa := fa, fx := fx, sq := sq, vq := vq, vregs := vregs, warn := warn }) :
    TileDone T (g T') f fm { x with body := fun U => g (x.body U) } := by
  obtain ⟨h1, h2, h3, h4, h5, h6, h7, h8⟩ := h
  have hk : g T' = { g (x.body T) with fa := T'.fa, fx := T'.fx, sq := T'.sq, vq := T'.vq, vregs := T'.vregs, warn := T'.warn } := by
    conv_lhs => rw [h1]
    exact hg _ _ _ _ _ _ _
  have hfr : ∀ u, (g T').front u = T'.front u := by intro u; rw [hk]; cases u <;> rfl
  refine ⟨?_, by rw [hfr, h2], ?_, ?_, ?_, ?_, ?_, ?_⟩
  · rw [hk]
  · rw [hfr, h3]
  · intro r hr0 hr; rw [hfr, h4 r hr0 hr]
  · intro q hq; rw [← h5 q hq, hk]; rfl
  · intro r hr; rw [← h6 r hr, hk]; rfl
  · intro q hq; rw [← h7 q hq, hk]; rfl
  · rw [hk]; exact h8

/-! ### Issue -/

variable {s : State}

theorem Ready.ne_reset (h : Ready s fm) : s.cur ≠ Tile.reset := by
  apply Tile.ne_reset_of_phase
  have := h.runs
  simp only [Tile.runs, Bool.and_eq_true, beq_iff_eq] at this
  rw [this.1.1.1]; decide

theorem TileDone.ne_reset (h : TileDone T T' f fm x) (hb : (x.body T).phase ≠ .idle) : T' ≠ Tile.reset := by
  apply Tile.ne_reset_of_phase
  rw [h.kept]; exact hb

theorem Ready.phase (h : Ready s fm) : s.cur.phase = .running := by
  have := h.runs
  simp only [Tile.runs, Bool.and_eq_true, beq_iff_eq] at this
  exact this.1.1.1

/-- A word that may issue does what its entry says on the state in which its sources are read. -/
theorem issue_ready (h : Ready s fm) (body : State → Issue → Verdict) :
    issue s fm body = match body (s.begun fm) (s.operands fm) with
      | .done s' => .next (s.counted s')
      | .trap code v => .next (preciseTrap s code v)
      | .wait => .next (holdFront s .other)
      | .waitAfter g => .next (holdFront (g s) .other) := by
  obtain ⟨h1, h2, h3⟩ := h
  unfold State.cur at h1 h2 h3
  simp only [issue, h1, h2, h3, State.begun, State.operands, State.counted, State.cur, Bool.not_true, Bool.false_eq_true, if_false]
    <;> (generalize body _ _ = v; cases v <;> rfl)

theorem begun_cur (h : Ready s fm) : (s.begun fm).cur = (fm.start s.cur s.focus.2).2 := by
  have hp : ((({} : Effect).body s.cur).phase ≠ .idle) := by rw [show ({} : Effect).body s.cur = s.cur from rfl, h.phase]; decide
  exact State.tile_setTile s s.focus.1 ((start_done fm s.cur s.focus.2).ne_reset hp)

theorem counted_only (s t : State) : OnlyCounters t (s.counted t) := count_only t _ _ 1 (by cases s.focus.2 <;> decide)

/-- A word whose entry's effect is known on the state before it is counted. -/
theorem done_executed (h : Ready s fm) {body : State → Issue → Verdict} {u : State}
    (hu : body (s.begun fm) (s.operands fm) = .done u)
    (hr : u = { s with tiles := u.tiles, nextId := s.nextId + x.ids, txns := s.txns ++ x.txns, agenda := s.agenda ++ x.posts })
    (ht : ∀ v, v ≠ s.focus.1 → u.tile v = s.tile v) (hd : TileDone s.cur u.cur s.focus.2 fm x) :
    ∃ t, issue s fm body = .next t ∧ Executed s t fm x := by
  refine ⟨s.counted u, by rw [issue_ready h, hu], ?_⟩
  have ho := counted_only s u
  refine ⟨⟨?_, fun v hv => ?_, fun v => ?_, ?_⟩, ?_⟩
  · have h0 := ho.rest
    have h1 := congrArg State.tiles h0
    generalize s.counted u = w at *
    rw [hr] at h0
    exact h1 ▸ h0
  · rw [ho.tile, ht v hv]
  · have hv : u.vf v = s.vf v := by rw [hr]; rfl
    rw [ho.vfs, hv]
  · obtain ⟨l, hl, hc⟩ := ho.agenda
    have ha : u.agenda = s.agenda ++ x.posts := by rw [hr]
    exact ⟨l, by rw [hl, ha], hc⟩
  · rw [ho.cur]; exact hd

/-- A word that works on its own tile alone: it answers a next state, in which its effect has been made and nothing else
has changed. -/
theorem issueTile_executed (h : Ready s fm) (body : Tile → Front → Issue → Tile)
    (hd : TileDone s.cur (body (fm.start s.cur s.focus.2).2 s.focus.2 (fm.start s.cur s.focus.2).1) s.focus.2 fm x)
    (hb : (x.body s.cur).phase ≠ .idle) (hi : x.ids = 0 := by rfl) (ht : x.txns = [] := by rfl) (hp : x.posts = [] := by rfl) :
    ∃ t, issueTile s fm body = .next t ∧ Executed s t fm x := by
  refine ⟨s.counted ((s.begun fm).modTile s.focus.1 (fun T => body T s.focus.2 (s.operands fm))),
    by unfold issueTile; rw [issue_ready h]; rfl, ?_⟩
  have hc := begun_cur h
  have ho := counted_only s ((s.begun fm).modTile s.focus.1
    (fun T => body T s.focus.2 (s.operands fm)))
  have hcur : ((s.begun fm).modTile s.focus.1 (fun T => body T s.focus.2 (s.operands fm))).cur =
      body (fm.start s.cur s.focus.2).2 s.focus.2 (fm.start s.cur s.focus.2).1 := by
    unfold State.modTile
    have hbeg : (s.begun fm).tile s.focus.1 = (fm.start s.cur s.focus.2).2 := hc
    rw [hbeg]
    exact State.tile_setTile _ _ (hd.ne_reset hb)
  refine ⟨⟨?_, fun u hu => ?_, ?_, ?_⟩, ?_⟩
  · have hr := ho.rest
    have h1 := congrArg State.tiles hr
    rw [hi, ht, List.append_nil]
    exact h1 ▸ hr
  · rw [ho.tile]
    unfold State.modTile
    rw [State.tile_setTile_other _ _ hu]
    exact State.tile_setTile_other s _ hu
  · exact ho.vfs
  · rw [hp, List.append_nil]; exact ho.agenda
  · rw [ho.cur, hcur]; exact hd

/-- A word that computes one scalar. -/
theorem issueS_executed (fm : Form) (d : Reg) (val : Tile → Front → Issue → Word) (h : Ready s { fm with ws := [d] }) :
    ∃ t, issueS s fm d val = .next t ∧ Executed s t { fm with ws := [d] } { dst := [(d, val (Form.start { fm with ws := [d] } s.cur s.focus.2).2
      s.focus.2 (Form.start { fm with ws := [d] } s.cur s.focus.2).1)] } :=
  issueTile_executed h _ ((start_done _ _ _).putS d _ rfl) (by rw [show (({ dst := _ } : Effect).body s.cur) = s.cur from rfl, h.phase]; decide)

end Sys2Proof.Machine
end

