-- ==== Sys2Proof/Tests/Slice0.lean ====
section
/-! SUPPORT. Tests of this row: words of every constructor and what they decode to, ill-formed terms that are refused, worked examples of
the spec, one step each, and for every statement a concrete state and operands that meet its hypotheses together. -/

namespace Sys2Proof.Tests

set_option Elab.async false

open Sys2Proof Sys2Proof.Machine


/-- A small strand: running, alone in its task. -/
def strand : Tile := { Tile.reset with phase := .running, tiles := 1 }

/-- The state with one strand on tile u and the front f in focus. -/
def onTile (u : Nat) (f : Front) (T : Tile) : State := { State.reset with focus := (u, f), tiles := [(u, T)] }

/-- A front that holds the given values in its registers. -/
def withRegs (F : FrontState) (l : List (Nat × Word)) : FrontState :=
  { F with regs := l.foldl (fun v p => v.setIfInBounds p.1 p.2) F.regs }

/-- A strand on tile 0 whose fronts both hold the given values in their registers. -/
def regState (f : Front) (l : List (Nat × Word)) : State :=
  onTile 0 f { strand with fa := withRegs strand.fa l, fx := withRegs strand.fx l }

/-- The same with hints pending on both fronts. -/
def hintState (f : Front) (h : Hints) (l : List (Nat × Word)) : State :=
  onTile 0 f { strand with fa := { withRegs strand.fa l with hints := h }, fx := { withRegs strand.fx l with hints := h } }

/-- The state after one instruction. -/
def after (i : Instr) (s : State) : State := match exec i s with | .next t => t | _ => s

/-- A scalar register of the front in focus. -/
def sreg (s : State) (r : Nat) : Word := (s.cur.front s.focus.2).reg r

/-- Whether the word may issue, as a test. -/
def readyNow (s : State) (fm : Form) : Bool :=
  s.cur.runs s.focus.2 && (fm.gate s.cur s.focus.1 s.focus.2).isNone && fm.hold s.cur s.focus.2 == .none

theorem ready_of_readyNow {s : State} {fm : Form} (h : readyNow s fm = true) : Ready s fm := by
  simp only [readyNow, Bool.and_eq_true, Option.isNone_iff_eq_none, beq_iff_eq] at h
  exact ⟨h.1.1, h.1.2, h.2⟩

/-! ### Decoding: a word of every constructor, its major opcode and its fields written out by R54, R56, R60, R61 and R63 -/

/-- The word decodes to the instruction, whose word it is, and the instruction is well formed. -/
def decodesTo (w : Nat) (i : Instr) : Bool := (match decodeWord w with | .ok j => j == i | .error _ => false) && encodeWord i == w && i.wf

theorem test_decode_scalar_1 : ([
    (wordBits 0x01 [(21, 21), (26, 16), (5, 11)], .add 21 26 5 .w8),
    (wordBits 0x01 [(11, 21), (5, 16), (17, 11), (3, 9), (1, 0)], .sub 11 5 17 .w64),
    (wordBits 0x01 [(6, 21), (17, 16), (21, 11), (2, 9), (2, 0)], .andd 6 17 21 .w32),
    (wordBits 0x01 [(25, 21), (21, 16), (11, 11), (1, 9), (3, 0)], .orr 25 21 11 .w16),
    (wordBits 0x01 [(13, 21), (11, 16), (6, 11), (4, 0)], .xorr 13 11 6 .w8),
    (wordBits 0x01 [(19, 21), (6, 16), (25, 11), (3, 9), (5, 0)], .andn 19 6 25 .w64),
    (wordBits 0x01 [(10, 21), (25, 16), (13, 11), (2, 9), (6, 0)], .sll 10 25 13 .w32),
    (wordBits 0x01 [(26, 21), (13, 16), (19, 11), (1, 9), (7, 0)], .srl 26 13 19 .w16),
    (wordBits 0x01 [(5, 21), (19, 16), (10, 11), (8, 0)], .sra 5 19 10 .w8),
    (wordBits 0x01 [(17, 21), (10, 16), (26, 11), (3, 9), (9, 0)], .slt 17 10 26 .w64),
    (wordBits 0x01 [(21, 21), (26, 16), (5, 11), (2, 9), (10, 0)], .sltu 21 26 5 .w32),
    (wordBits 0x01 [(11, 21), (5, 16), (17, 11), (1, 9), (11, 0)], .minn 11 5 17 .w16),
    (wordBits 0x01 [(6, 21), (17, 16), (21, 11), (12, 0)], .maxx 6 17 21 .w8),
    (wordBits 0x01 [(25, 21), (21, 16), (11, 11), (3, 9), (13, 0)], .minu 25 21 11 .w64),
    (wordBits 0x01 [(13, 21), (11, 16), (6, 11), (2, 9), (14, 0)], .maxu 13 11 6 .w32),
    (wordBits 0x02 [(19, 21), (6, 16), (25, 11), (1, 9)], .mul 19 6 25 .w16)] : List (Nat × Instr)).all (fun p => decodesTo p.1 p.2) = true := by decide

theorem test_decode_scalar_2 : ([
    (wordBits 0x02 [(10, 21), (25, 16), (13, 11), (1, 0)], .mulh 10 25 13 .w8),
    (wordBits 0x02 [(26, 21), (13, 16), (19, 11), (3, 9), (2, 0)], .mulhu 26 13 19 .w64),
    (wordBits 0x02 [(5, 21), (19, 16), (10, 11), (2, 9), (3, 0)], .div 5 19 10 .w32),
    (wordBits 0x02 [(17, 21), (10, 16), (26, 11), (1, 9), (4, 0)], .divu 17 10 26 .w16),
    (wordBits 0x02 [(21, 21), (26, 16), (5, 11), (5, 0)], .rem 21 26 5 .w8),
    (wordBits 0x02 [(11, 21), (5, 16), (17, 11), (3, 9), (6, 0)], .remu 11 5 17 .w64),
    (wordBits 0x03 [(6, 21), (17, 16), (2, 9)], .clz 6 17 .w32),
    (wordBits 0x03 [(25, 21), (21, 16), (1, 9), (1, 0)], .ffs 25 21 .w16),
    (wordBits 0x03 [(13, 21), (11, 16), (2, 0)], .popc 13 11 .w8),
    (wordBits 0x03 [(19, 21), (6, 16), (3, 9), (3, 0)], .brev 19 6 .w64),
    (wordBits 0x03 [(10, 21), (25, 16), (13, 11), (2, 9), (4, 0)], .bext 10 25 13 .w32),
    (wordBits 0x03 [(5, 21), (13, 16), (19, 11), (1, 9), (5, 0)], .bins 5 13 19 .w16),
    (wordBits 0x03 [(5, 21), (19, 16), (10, 11), (6, 0)], .sext 5 19 10 .w8),
    (wordBits 0x04 [(17, 21), (10, 16), (0xf24, 0)], .addi 17 10 0xf24),
    (wordBits 0x05 [(21, 21), (26, 16), (0x6479, 0)], .andi 21 26 0x6479),
    (wordBits 0x06 [(11, 21), (5, 16), (0xb9ce, 0)], .ori 11 5 0xb9ce)] : List (Nat × Instr)).all (fun p => decodesTo p.1 p.2) = true := by decide

theorem test_decode_scalar_3 : ([
    (wordBits 0x07 [(6, 21), (17, 16), (0xf23, 0)], .xori 6 17 0xf23),
    (wordBits 0x08 [(25, 21), (21, 16), (0x6478, 0)], .slti 25 21 0x6478),
    (wordBits 0x09 [(13, 21), (11, 16), (0xb9cd, 0)], .sethi 13 11 0xb9cd),
    (wordBits 0x0A [(19, 21), (6, 16), (20, 0)], .slli 19 6 20),
    (wordBits 0x0A [(10, 21), (25, 16), (0x100, 6), (0x29, 0)], .srli 10 25 0x29),
    (wordBits 0x0A [(26, 21), (13, 16), (0x200, 6), (0x3e, 0)], .srai 26 13 0x3e),
    (wordBits 0x0D [(5, 21), (19, 16), (10, 11), (26, 6)], .sel 5 19 10 26),
    (wordBits 0x0E [(17, 21), (10, 16), (26, 11), (1, 8)], .fadd 17 10 26 .fp16),
    (wordBits 0x0E [(21, 21), (26, 16), (5, 11), (1, 8), (1, 0)], .fsub 21 26 5 .fp16),
    (wordBits 0x0E [(11, 21), (5, 16), (17, 11), (1, 8), (2, 0)], .fmul 11 5 17 .fp16),
    (wordBits 0x0E [(6, 21), (17, 16), (21, 11), (1, 8), (3, 0)], .fmin 6 17 21 .fp16),
    (wordBits 0x0E [(25, 21), (21, 16), (11, 11), (1, 8), (4, 0)], .fmax 25 21 11 .fp16),
    (wordBits 0x0E [(13, 21), (11, 16), (6, 11), (1, 8), (16, 0)], .fcmpEq 13 11 6 .fp16),
    (wordBits 0x0E [(19, 21), (6, 16), (25, 11), (1, 8), (17, 0)], .fcmpNe 19 6 25 .fp16),
    (wordBits 0x0E [(10, 21), (25, 16), (13, 11), (1, 8), (18, 0)], .fcmpLt 10 25 13 .fp16),
    (wordBits 0x0E [(26, 21), (13, 16), (19, 11), (1, 8), (19, 0)], .fcmpLe 26 13 19 .fp16)] : List (Nat × Instr)).all (fun p => decodesTo p.1 p.2) = true := by decide

theorem test_decode_scalar_4 : ([
    (wordBits 0x0E [(5, 21), (19, 16), (10, 11), (1, 8), (20, 0)], .fcmpUn 5 19 10 .fp16),
    (wordBits 0x0F [(17, 21), (10, 16), (26, 11), (5, 6), (1, 4)], .ffma 17 10 26 5 .fp16),
    (wordBits 0x0F [(21, 21), (26, 16), (17, 11), (3, 6), (1, 0)], .fcvt 21 26 17 3 false)] : List (Nat × Instr)).all (fun p => decodesTo p.1 p.2) = true := by decide

theorem test_decode_control : ([
    (wordBits 0x10 [(5, 21), (17, 16), (1, 13), (0x550, 0)], .br 5 17 .ne 0x550),
    (wordBits 0x11 [(0x2aabaa5, 0)], .jal 0x2aabaa5),
    (wordBits 0x12 [(25, 21), (21, 16), (0xf1c, 0)], .jalr 25 21 0xf1c),
    (wordBits 0x13 [], .nop),
    (wordBits 0x13 [(1, 0)], .endStrand)] : List (Nat × Instr)).all (fun p => decodesTo p.1 p.2) = true := by decide

theorem test_decode_memory : ([
    (wordBits 0x14 [(10, 21), (13, 16), (4, 10), (0x3f9, 0)], .lds 10 13 .s8 0x3f9),
    (wordBits 0x15 [(26, 21), (19, 16), (3, 10), (0x14e, 0)], .sts 26 19 .w64 0x14e),
    (wordBits 0x16 [(5, 21), (10, 16), (7, 13), (5, 10), (1, 8), (1, 6), (0x23, 0)], .ld 5 10 7 .pod .w16 false true 0x23),
    (wordBits 0x17 [(17, 21), (26, 16), (4, 13), (2, 10), (0x38, 0)], .st 17 26 4 .rect .w8 false 0x38),
    (wordBits 0x18 [(21, 21), (26, 16), (5, 11), (2, 7), (1, 3), (5, 0)], .amo 21 26 5 .or false 1 .pod),
    (wordBits 0x19 [(11, 21), (5, 16), (17, 11), (1, 6), (6, 3), (2, 0)], .cas 11 5 17 true 6 .rect),
    (wordBits 0x1A [(17, 16), (21, 11), (9, 7), (3, 3), (5, 0)], .red 17 21 .fadd false 3 .pod),
    (wordBits 0x1B [(2, 8), (4, 5)], .fence 0 2 .module),
    (wordBits 0x1B [(1, 21), (11, 16), (4, 5)], .promote 11 .module),
    (wordBits 0x1C [(22, 21), (6, 16), (25, 11), (13, 6)], .hash 22 6 25 13),
    (wordBits 0x1D [(14, 21), (4, 16), (13, 11)], .claim 14 4 13),
    (wordBits 0x1D [(26, 21), (13, 16), (19, 11), (0x40, 0)], .cfulfil 26 13 19),
    (wordBits 0x1D [(5, 21), (19, 16), (0x80, 0)], .cabandon 5 19),
    (wordBits 0x1D [(17, 21), (10, 16), (26, 11), (0xc0, 0)], .cpin 17 10 26),
    (wordBits 0x1D [(21, 21), (26, 16), (5, 11), (0x100, 0)], .cunpin 21 26 5)] : List (Nat × Instr)).all (fun p => decodesTo p.1 p.2) = true := by decide

theorem test_decode_ports : ([
    (wordBits 0x1E [(11, 21), (30, 16), (2, 11)], .qstat 11 30 2),
    (wordBits 0x1E [(6, 21), (25, 16), (3, 11), (1, 0)], .qdrain 6 25 3),
    (wordBits 0x1F [(21, 16), (11, 11)], .signal 21 11),
    (wordBits 0x1F [(13, 21), (1, 0)], .waitch 13),
    (wordBits 0x1F [(6, 16), (2, 0)], .block 6),
    (wordBits 0x1F [(25, 16), (3, 0)], .unblock 25)] : List (Nat × Instr)).all (fun p => decodesTo p.1 p.2) = true := by decide

theorem test_decode_vector_arithmetic_1 : ([
    (wordBits 0x20 [(26, 21), (13, 16), (19, 11), (6, 8), (3, 6)], .vadd 26 13 19 6 .w64),
    (wordBits 0x20 [(5, 21), (19, 16), (10, 11), (3, 8), (2, 6), (1, 0)], .vsub 5 19 10 3 .w32),
    (wordBits 0x20 [(17, 21), (10, 16), (26, 11), (1, 6), (2, 0)], .vmul 17 10 26 0 .w16),
    (wordBits 0x20 [(21, 21), (26, 16), (5, 11), (5, 8), (3, 0)], .vmulh 21 26 5 5 .w8),
    (wordBits 0x20 [(11, 21), (5, 16), (17, 11), (2, 8), (3, 6), (4, 0)], .vmin 11 5 17 2 .w64),
    (wordBits 0x20 [(6, 21), (17, 16), (21, 11), (7, 8), (2, 6), (5, 0)], .vmax 6 17 21 7 .w32),
    (wordBits 0x20 [(25, 21), (21, 16), (4, 8), (1, 6), (6, 0)], .vabs 25 21 4 .w16),
    (wordBits 0x20 [(13, 21), (11, 16), (1, 8), (7, 0)], .vneg 13 11 1 .w8),
    (wordBits 0x21 [(19, 21), (6, 16), (25, 11), (6, 8), (3, 6)], .vand 19 6 25 6 .w64),
    (wordBits 0x21 [(10, 21), (25, 16), (13, 11), (3, 8), (2, 6), (1, 0)], .vor 10 25 13 3 .w32),
    (wordBits 0x21 [(26, 21), (13, 16), (19, 11), (1, 6), (2, 0)], .vxor 26 13 19 0 .w16),
    (wordBits 0x21 [(5, 21), (19, 16), (10, 11), (5, 8), (3, 0)], .vsll 5 19 10 5 .w8),
    (wordBits 0x21 [(17, 21), (10, 16), (26, 11), (2, 8), (3, 6), (4, 0)], .vsrl 17 10 26 2 .w64),
    (wordBits 0x21 [(21, 21), (26, 16), (5, 11), (7, 8), (2, 6), (5, 0)], .vsra 21 26 5 7 .w32),
    (wordBits 0x21 [(11, 21), (5, 16), (4, 8), (1, 6), (6, 0)], .vclz 11 5 4 .w16),
    (wordBits 0x21 [(6, 21), (17, 16), (1, 8), (7, 0)], .vffs 6 17 1 .w8)] : List (Nat × Instr)).all (fun p => decodesTo p.1 p.2) = true := by decide

theorem test_decode_vector_arithmetic_2 : ([
    (wordBits 0x21 [(25, 21), (21, 16), (6, 8), (3, 6), (8, 0)], .vpopc 25 21 6 .w64),
    (wordBits 0x22 [(13, 21), (11, 16), (6, 11), (3, 8), (2, 6)], .vaddF 13 11 6 3 .w32 false),
    (wordBits 0x22 [(19, 21), (6, 16), (25, 11), (1, 6), (1, 5), (1, 0)], .vsubF 19 6 25 0 .w16 true),
    (wordBits 0x22 [(10, 21), (25, 16), (13, 11), (5, 8), (2, 0)], .vmulF 10 25 13 5 .w8 false),
    (wordBits 0x22 [(26, 21), (13, 16), (19, 11), (2, 8), (3, 6), (1, 5), (3, 0)], .vminF 26 13 19 2 .w64 true),
    (wordBits 0x22 [(5, 21), (19, 16), (10, 11), (7, 8), (2, 6), (4, 0)], .vmaxF 5 19 10 7 .w32 false),
    (wordBits 0x22 [(17, 21), (10, 16), (4, 8), (1, 6), (1, 5), (5, 0)], .vabsF 17 10 4 .w16 true),
    (wordBits 0x22 [(21, 21), (26, 16), (1, 8), (6, 0)], .vnegF 21 26 1 .w8 false),
    (wordBits 0x22 [(11, 21), (5, 16), (17, 11), (6, 8), (3, 6), (1, 5), (7, 0)], .vfma 11 5 17 6 .w64 true),
    (wordBits 0x22 [(6, 21), (17, 16), (21, 11), (3, 8), (2, 6), (8, 0)], .vfms 6 17 21 3 .w32 false)] : List (Nat × Instr)).all (fun p => decodesTo p.1 p.2) = true := by decide

theorem test_decode_vector_other_1 : ([
    (wordBits 0x23 [(21, 16), (11, 11), (2, 8), (1, 6), (1, 5), (1, 4), (3, 0)], .vcmp 0 21 11 2 .w16 true true .le),
    (wordBits 0x24 [(13, 21), (11, 16), (6, 11), (5, 8)], .vsel 13 11 6 5 .w8),
    (wordBits 0x24 [(19, 21), (6, 16), (2, 8), (3, 6), (1, 0)], .vbcast 19 6 2 .w64),
    (wordBits 0x24 [(10, 21), (25, 16), (13, 11), (2, 6), (2, 0)], .vextr 10 25 13 .w32),
    (wordBits 0x24 [(26, 21), (4, 8), (1, 6), (3, 0)], .viota 26 4 .w16),
    (wordBits 0x24 [(5, 21), (19, 16), (10, 11), (1, 8), (4, 0)], .vperm 5 19 10 1 .w8),
    (wordBits 0x24 [(17, 21), (10, 16), (26, 11), (6, 8), (3, 6), (5, 0)], .vscl 17 10 26 6 .w64),
    (wordBits 0x25 [(21, 21), (26, 16), (17, 11), (3, 6), (3, 2)], .vcvt 21 26 17 3 false 3),
    (wordBits 0x26 [(11, 21), (5, 16), (1, 6), (1, 5), (1, 4), (1, 0)], .vred 11 5 0 .w16 true true .min),
    (wordBits 0x26 [(6, 21), (17, 16), (5, 8), (1, 3), (4, 0)], .vscan 6 17 5 .w8 false false .or),
    (wordBits 0x27 [(25, 21), (21, 16), (2, 8), (3, 6)], .vexp2 25 21 2 .w64),
    (wordBits 0x27 [(13, 21), (11, 16), (7, 8), (2, 6), (1, 0)], .vlog2 13 11 7 .w32),
    (wordBits 0x27 [(19, 21), (6, 16), (4, 8), (1, 6), (2, 0)], .vrcp 19 6 4 .w16),
    (wordBits 0x27 [(10, 21), (25, 16), (1, 8), (3, 0)], .vrsq 10 25 1 .w8),
    (wordBits 0x27 [(26, 21), (13, 16), (6, 8), (3, 6), (4, 0)], .vtanh 26 13 6 .w64),
    (wordBits 0x28 [(1, 16), (6, 11)], .kand 0 1 6)] : List (Nat × Instr)).all (fun p => decodesTo p.1 p.2) = true := by decide

theorem test_decode_vector_other_2 : ([
    (wordBits 0x28 [(5, 21), (6, 16), (3, 11), (1, 0)], .kor 5 6 3),
    (wordBits 0x28 [(2, 21), (3, 16), (2, 0)], .knot 2 3),
    (wordBits 0x28 [(11, 21), (3, 0)], .kpopc 11 0)] : List (Nat × Instr)).all (fun p => decodesTo p.1 p.2) = true := by decide

theorem test_decode_vector_memory : ([
    (wordBits 0x2E [(29, 21), (21, 16), (0x23, 0)], .vlds 29 21 0x23),
    (wordBits 0x2E [(28, 21), (11, 16), (1, 8), (1, 6), (0x38, 0)], .vldt 28 11 .w16 0x38),
    (wordBits 0x2E [(29, 21), (6, 16), (1, 13), (5, 10), (1, 9), (1, 8), (13, 0)], .vld 29 6 1 .pod true 13),
    (wordBits 0x2F [(31, 21), (25, 16), (0x22, 0)], .vsts 31 25 0x22),
    (wordBits 0x2F [(30, 21), (13, 16), (3, 13), (5, 10), (1, 9), (1, 8), (0x37, 0)], .vst 30 13 3 .pod true 0x37)] : List (Nat × Instr)).all (fun p => decodesTo p.1 p.2) = true := by decide

theorem test_decode_matrix : ([
    (wordBits 0x30 [(1, 23), (6, 20), (4, 14), (5, 10), (2, 7), (2, 5), (7, 0)], .mma 1 6 0 4 5 .s32x32 .sp48 7),
    (wordBits 0x31 [(6, 23), (3, 20), (1, 18), (9, 14), (10, 10), (2, 5), (4, 0)], .mmaArm 6 3 1 9 10 .s64x128 .sp48 4),
    (wordBits 0x32 [(2, 4)], .mdis 2),
    (wordBits 0x32 [(0x8000, 6), (3, 4)], .mzero 3),
    (wordBits 0x32 [(2, 21), (5, 16), (17, 11), (12, 6), (1, 3), (4, 0)], .mflush 5 17 12 0 true .s8x8),
    (wordBits 0x32 [(3, 21), (17, 16), (21, 11), (16, 6), (1, 4), (2, 0)], .mload 17 21 16 1 .s32x32),
    (wordBits 0x32 [(4, 21), (21, 16), (11, 11), (1, 8), (1, 7), (1, 6), (2, 4), (4, 0)], .msca 21 11 0 true true true 2 .s8x8),
    (wordBits 0x33 [(7, 21), (11, 16)], .rset 7 11),
    (wordBits 0x33 [(4, 21), (6, 16), (1, 0)], .rpush 4 6),
    (wordBits 0x33 [(10, 21), (1, 16), (13, 11), (2, 0)], .rstat 10 1 13),
    (wordBits 0x34 [(2, 21), (13, 16)], .cset 2 13),
    (wordBits 0x34 [(3, 21), (1, 0)], .cgo 3),
    (wordBits 0x34 [(17, 21), (26, 11), (2, 0)], .cstat 17 0 26),
    (wordBits 0x35 [(21, 21), (26, 16), (5, 11)], .tswap 21 26 5)] : List (Nat × Instr)).all (fun p => decodesTo p.1 p.2) = true := by decide

theorem test_decode_engine : ([
    (wordBits 0x36 [(5, 16), (17, 11)], .copy 5 17),
    (wordBits 0x36 [(17, 16), (21, 11), (1, 0)], .copyc 17 21),
    (wordBits 0x36 [(21, 16), (11, 11), (2, 0)], .mcast 21 11),
    (wordBits 0x37 [(13, 21), (11, 16)], .sopen 13 11),
    (wordBits 0x37 [(6, 16), (1, 0)], .sclose 6),
    (wordBits 0x37 [(10, 21), (25, 16), (13, 11), (2, 0)], .scfg 10 25 13),
    (wordBits 0x38 [(13, 16), (19, 11)], .binit 13 19),
    (wordBits 0x38 [(19, 16), (10, 11), (1, 0)], .bexpect 19 10),
    (wordBits 0x38 [(10, 16), (2, 0)], .barrive 10),
    (wordBits 0x38 [(21, 21), (26, 16), (5, 11), (3, 0)], .bwait 21 26 5),
    (wordBits 0x38 [(11, 21), (5, 16), (4, 0)], .btest 11 5),
    (wordBits 0x39 [(6, 21), (17, 16)], .fcfg 6 17),
    (wordBits 0x39 [(21, 16), (1, 0)], .frun 21),
    (wordBits 0x39 [(13, 21), (2, 0)], .fstat 13)] : List (Nat × Instr)).all (fun p => decodesTo p.1 p.2) = true := by decide

theorem test_decode_tasks : ([
    (wordBits 0x3B [(19, 21), (6, 16)], .instantiate 19 6),
    (wordBits 0x3B [(10, 21), (25, 16), (1, 0)], .decr 10 25),
    (wordBits 0x3B [(26, 21), (16, 0)], .gcancelJob 26),
    (wordBits 0x3B [(5, 21), (19, 16), (17, 0)], .gcancelPhase 5 19),
    (wordBits 0x3B [(17, 21), (10, 16), (18, 0)], .gcancelGraph 17 10),
    (wordBits 0x3B [(21, 21), (26, 16), (19, 0)], .gcancelTask 21 26),
    (wordBits 0x3C [(11, 21), (9, 16), (17, 11)], .fwpush 11 9 17),
    (wordBits 0x3C [(6, 21), (15, 16), (21, 11), (0x40, 0)], .fwpop 6 15 21),
    (wordBits 0x3C [(25, 21), (0x80, 0)], .carrive 25),
    (wordBits 0x3C [(11, 16), (0xc0, 0)], .cwait 11),
    (wordBits 0x3C [(19, 21), (6, 16), (25, 11), (4, 6), (6, 3), (2, 1)], .ldx 19 6 25 6 .w32),
    (wordBits 0x3C [(10, 21), (25, 16), (13, 11), (5, 6), (3, 3), (1, 1)], .stx 10 25 13 3 .w16)] : List (Nat × Instr)).all (fun p => decodesTo p.1 p.2) = true := by decide

theorem test_decode_system : ([
    (wordBits 0x3D [(0xfaf, 0)], .trap 0xfaf),
    (wordBits 0x3D [(0x1000, 0)], .eret),
    (wordBits 0x3D [(17, 21), (2, 12), (0x4f, 0)], .csrr 17 0x4f),
    (wordBits 0x3D [(26, 16), (3, 12), (0x23, 0)], .csrw 26 0x23),
    (wordBits 0x3D [(11, 21), (5, 16), (4, 12), (1, 0)], .csrx 11 5 1),
    (wordBits 0x3D [(6, 21), (0x5000, 0)], .freeze 6),
    (wordBits 0x3D [(25, 21), (21, 16), (6, 12), (1, 10), (0x3ad, 0)], .scrub 25 21 .m2 0x3ad),
    (wordBits 0x3D [(13, 21), (11, 16), (7, 12), (1, 10), (0x102, 0)], .invpg 13 11 .m2 0x102),
    (wordBits 0x3D [(19, 21), (6, 16), (0x8000, 0)], .waysetCw 19 6),
    (wordBits 0x3D [(10, 21), (25, 16), (0x8100, 0)], .waysetShare 10 25),
    (wordBits 0x3D [(26, 21), (13, 16), (0x9000, 0)], .lehrArm 26 13),
    (wordBits 0x3D [(5, 21), (0x9100, 0)], .lehrStat 5),
    (wordBits 0x3D [(17, 21), (0x9200, 0)], .lehrDisarm 17),
    (wordBits 0x3D [(21, 21), (26, 16), (0x500, 5), (16, 0)], .jcfg 21 26 16),
    (wordBits 0x3D [(5, 16), (0x2c00, 2), (1, 0)], .perfsel 5 1)] : List (Nat × Instr)).all (fun p => decodesTo p.1 p.2) = true := by decide

theorem test_decode_hint : ([
    (wordBits 0x3F [(0xff4, 0)], .himm 0xff4),
    (wordBits 0x3F [(1, 22), (0x156549, 0)], .hmod 0x156549),
    (wordBits 0x3F [(0x100000, 3), (6, 0)], .hpri 6)] : List (Nat × Instr)).all (fun p => decodesTo p.1 p.2) = true := by decide

/-! ### The example words of the spec (files 04 to 08, 18, 22) -/

theorem test_words_scalar : ([
    (0x1020_0004, .addi 1 0 4), (0x1042_0004, .addi 2 2 4), (0x1021_FFFF, .addi 1 1 0xFFFF), (0x0463_C600, .add 3 3 24 .w64),
    (0x0464_2E00, .add 3 4 5 .w64), (0x0783_0600, .add 28 3 0 .w64), (0x0822_0403, .div 1 2 0 .w32), (0x0822_0404, .divu 1 2 0 .w32),
    (0x0C85_3604, .bext 4 5 6 .w64), (0x0CC5_0602, .popc 6 5 .w64), (0x0CE5_0600, .clz 7 5 .w64), (0x1464_00FF, .andi 3 4 0xFF),
    (0x24A5_59E2, .sethi 5 5 0x59E2), (0x2843_000C, .slli 2 3 12), (0x3422_1900, .sel 1 2 3 4), (0x3822_1A02, .fmul 1 2 3 .bf16),
    (0x3822_1812, .fcmpLt 1 2 3 .fp32), (0x3C43_3821, .fcvt 2 3 7 0 true)] : List (Nat × Instr)).all (fun p => decodesTo p.1 p.2) = true := by decide

theorem test_words_control_and_memory : ([
    (0x4020_3FFD, .br 1 0 .ne 0x1FFD), (0x4400_0004, .jal 4), (0x4817_0000, .jalr 0 23 0), (0x4C00_0000, .nop), (0x4C00_0001, .endStrand),
    (0x5302_0800, .lds 24 2 .u32 0), (0x50A6_1802, .lds 5 6 .s32 2), (0x5782_0800, .sts 28 2 .w32 0), (0x5780_0C01, .sts 28 0 .w64 1),
    (0x58A6_3242, .ld 5 6 1 .module .w32 false true 2), (0x7838_1800, .qstat 1 24 3), (0x785C_1001, .qdrain 2 28 2),
    (0x7C04_2800, .signal 4 5), (0x7CC0_0001, .waitch 6), (0x7C04_0002, .block 4), (0x7C04_0003, .unblock 4),
    (0xFC00_0001, .himm 1), (0xFC00_01AB, .himm 0x1AB)] : List (Nat × Instr)).all (fun p => decodesTo p.1 p.2) = true := by decide

theorem test_words_vector : ([
    (0x8022_1880, .vadd 1 2 3 0 .w32), (0x8422_1883, .vsll 1 2 3 0 .w32), (0x8422_00C8, .vpopc 1 2 0 .w64), (0x8885_3187, .vfma 4 5 6 1 .w32 false),
    (0x8822_1860, .vaddF 1 2 3 0 .w16 true), (0x8C43_2092, .vcmp 2 3 4 0 .w32 false true .lt), (0x8C61_1004, .vcmp 3 1 2 0 .w8 false false .ltu),
    (0x9022_1A80, .vsel 1 2 3 2 .w32), (0x9085_0041, .vbcast 4 5 0 .w16), (0x90C7_4082, .vextr 6 7 8 .w32), (0x9120_0083, .viota 9 0 .w32),
    (0x9022_1804, .vperm 1 2 3 0 .w8), (0x9022_1885, .vscl 1 2 3 0 .w32), (0x98A6_0190, .vred 5 6 1 .w32 false true .add),
    (0x98E6_0198, .vscan 7 6 1 .w32 false true .add), (0x9C22_0080, .vexp2 1 2 0 .w32), (0x9C22_0382, .vrcp 1 2 3 .w32),
    (0xA022_1800, .kand 1 2 3), (0xA085_0002, .knot 4 5), (0xA061_0003, .kpopc 3 1), (0xBB82_0000, .vlds 28 2 0), (0xBBA3_0180, .vldt 29 3 .w32 0),
    (0xBFC4_0001, .vsts 30 4 1)] : List (Nat × Instr)).all (fun p => decodesTo p.1 p.2) = true := by decide

theorem test_words_matrix_and_system : ([
    (0xCC24_0000, .rset 1 4), (0xCC25_0001, .rpush 1 5), (0xCCC1_3802, .rstat 6 1 7), (0xC018_CC00, .mma 0 1 2 3 3 .s64x128 .dense 0),
    (0xC134_CC20, .mma 2 3 1 3 3 .s64x128 .sp24 0), (0xC530_8800, .mmaArm 2 3 0 2 2 .s64x128 .dense 0), (0xD028_0000, .cset 1 8),
    (0xD020_0001, .cgo 1), (0xD121_5002, .cstat 9 1 10), (0xC800_0010, .mdis 1), (0xC820_0030, .mzero 3),
    (0xC844_2888, .mflush 4 5 2 0 true .s64x128), (0xC864_2810, .mload 4 5 0 1 .s64x128), (0xC886_3A00, .msca 6 7 1 false false false 0 .s64x128),
    (0xD56C_6800, .tswap 11 12 13), (0xF680_2023, .csrr 20 0x23), (0x1294_0004, .addi 20 20 4), (0xF414_3023, .csrw 20 0x23),
    (0xF400_1000, .eret), (0xF400_0025, .trap 0x25), (0xF4A0_2002, .csrr 5 2)] : List (Nat × Instr)).all (fun p => decodesTo p.1 p.2) = true := by
  decide

/-- Words that R56, R60, R61, R63 and R64 leave unassigned: reserved majors, functions, field values and nonzero reserved bits. -/
theorem test_words_unassigned : ([0, 0x00001C00, 0x2C000000, 0x30000000, 0xE8000000, 0xF8000000, 0x0464_2E0F, 0x0800_0007, 0x0C00_0007,
    0x2800_C000, 0x3822_1B02, 0x3C43_7001, 0x4000_E000, 0x4C00_0002, 0x4C20_0000, 0x5000_1C00, 0x5400_1000, 0x5800_1800, 0x6800_0400,
    0x6C40_0000, 0x6C20_0000, 0x7020_0000, 0x7420_0000, 0x7838_1000, 0x7C00_0004, 0x8000_0008, 0x8C00_0007, 0x9000_0006, 0x9800_0006,
    0xA000_0004, 0xB800_2000, 0xBC00_0100, 0xC000_0018, 0xC003_8000, 0xC000_0280, 0xC8A0_0000, 0xF010_0800, 0xF400_2003, 0xF400_3010,
    0xF400_A011, 0xF400_C000, 0xFCC0_0000, 0xFC80_0008] : List Nat).all
    (fun w => match decodeWord w with | .ok _ => false | .error _ => true) = true := by decide

/-! ### Well-formed terms: one that each check of `Instr.wf` refuses -/

theorem test_wf_conversion_code : (Instr.fcvt 1 2 14 0 false).wf = false ∧ (Instr.vcvt 1 2 0 21 false 0).wf = false ∧ (Instr.fcvt 1 2 20 13 false).wf = true := by decide
theorem test_wf_format : (Instr.mma 0 1 0 14 0 .s64x128 .dense 0).wf = false ∧ (Instr.mmaArm 0 1 0 0 15 .s64x128 .dense 0).wf = false := by decide
theorem test_wf_accumulator_code : (Instr.mflush 1 2 18 0 false .s64x128).wf = false ∧ (Instr.mload 1 2 20 0 .s64x128).wf = false ∧ (Instr.mload 1 2 17 0 .s64x128).wf = true := by decide
theorem test_wf_even_registers : (Instr.hash 1 2 3 4).wf = false ∧ (Instr.claim 3 2 4).wf = false ∧ (Instr.claim 2 3 4).wf = false := by decide
theorem test_wf_ports : (Instr.qstat 1 23 3).wf = false ∧ (Instr.qdrain 1 27 2).wf = false ∧ (Instr.qstat 1 28 1).wf = false := by decide
theorem test_wf_special_registers : (Instr.csrr 1 0x003).wf = false ∧ (Instr.csrw 1 0x021).wf = false ∧ (Instr.csrx 1 2 0x034).wf = false := by decide
theorem test_wf_atomics : (Instr.red 1 2 .swap false 0 .die).wf = false := by decide
theorem test_wf_fence_and_promote : (Instr.fence 1 0xFF .die).wf = false ∧ (Instr.promote 1 .tile).wf = false := by decide
theorem test_wf_pipe_and_jack : (Instr.fwpush 1 16 2).wf = false ∧ (Instr.fwpop 1 31 2).wf = false ∧ (Instr.jcfg 1 2 17).wf = false := by decide


/-! ### One step each: the worked examples of the spec and the corners of its tables -/

/-- R58: the example of HIMM with ADDI. -/
theorem test_addi_with_himm : sreg (after (.addi 2 0 0x2345) (hintState .a { himm := some 1 } [])) 2 = 0x12345 := by decide
/-- File 05: LI s7, −100000. -/
theorem test_addi_negative : sreg (after (.addi 7 0 0x7960) (hintState .a { himm := some 0x3FFFFE } [])) 7 = -100000 := by decide
/-- R84: the four-word build of file 06 writes bits 63:26 and keeps bits 25:0. -/
theorem test_sethi_with_himm : sreg (after (.sethi 5 5 0x59E2) (hintState .x { himm := some 0x48D1 } [(5, 0x1ABCDEF)])) 5 = 0x0123456789ABCDEF := by
  decide
theorem test_sethi : sreg (after (.sethi 5 5 0x59E2) (regState .x [(5, 0x1ABCDEF)])) 5 = 0x59E2000001ABCDEF := by decide
/-- R80, R81: the Ext column, and wrapping. -/
theorem test_add_wraps : sreg (after (.add 1 2 3 .w32) (regState .a [(2, 0x7FFFFFFF), (3, 1)])) 1 = 0xFFFFFFFF80000000 := by decide
theorem test_sltu : sreg (after (.sltu 1 2 3 .w8) (regState .a [(2, 0x101), (3, 0xFF02)])) 1 = 1 := by decide
theorem test_sra_amount : sreg (after (.sra 1 2 3 .w16) (regState .a [(2, 0x8000), (3, 17)])) 1 = 0xFFFFFFFFFFFFC000 := by decide
theorem test_sub_from_s0 : sreg (after (.sub 1 0 1 .w64) (regState .a [(1, 5)])) 1 = -5 := by decide
/-- R49 and the examples of file 06. -/
theorem test_div_by_zero : sreg (after (.div 1 2 0 .w32) (regState .a [(2, 7)])) 1 = 0xFFFFFFFFFFFFFFFF := by decide
theorem test_divu_by_zero : sreg (after (.divu 1 2 0 .w32) (regState .a [(2, 7)])) 1 = 0xFFFFFFFF := by decide
theorem test_div_most_negative : sreg (after (.div 1 2 3 .w8) (regState .a [(2, 0x80), (3, 0xFF)])) 1 = 0xFFFFFFFFFFFFFF80 := by decide
theorem test_rem_sign : sreg (after (.rem 1 2 3 .w64) (regState .a [(2, -7), (3, 2)])) 1 = -1 := by decide
theorem test_mulh : sreg (after (.mulh 1 2 3 .w64) (regState .a [(2, -1), (3, 1)])) 1 = -1 := by decide
theorem test_mulhu : sreg (after (.mulhu 1 2 3 .w32) (regState .a [(2, 0xFFFFFFFF), (3, 0xFFFFFFFF)])) 1 = 0xFFFFFFFE := by decide
/-- R83 and its example. -/
theorem test_bext : sreg (after (.bext 4 5 6 .w64) (regState .a [(5, 0x0123456789ABCDEF), (6, 0x810)])) 4 = 0xAB := by decide
theorem test_bins : sreg (after (.bins 4 5 6 .w64) (regState .a [(4, 0xFFFF), (5, 0), (6, 0x404)])) 4 = 0xFF0F := by decide
theorem test_clz : sreg (after (.clz 7 5 .w64) (regState .x [(5, 0x0123456789ABCDEF)])) 7 = 7 := by decide
theorem test_popc : sreg (after (.popc 6 5 .w64) (regState .x [(5, 0x0123456789ABCDEF)])) 6 = 32 := by decide
theorem test_sext : sreg (after (.sext 4 5 6 .w64) (regState .a [(5, 0x80), (6, 7)])) 4 = 0xFFFFFFFFFFFFFF80 := by decide
/-- R86. -/
theorem test_sel : sreg (after (.sel 1 2 3 4) (regState .a [(2, 5), (3, 6), (4, 0)])) 1 = 6 := by decide
/-- R42: a NaN result is the canonical NaN of its format; R88: +0 equals −0. -/
theorem test_fadd_nan : sreg (after (.fadd 1 2 3 .fp32) (regState .x [(2, 0x7F800000), (3, 0xFF800000)])) 1 = 0x7FC00000 := by decide
theorem test_fmul_bf16 : sreg (after (.fmul 1 2 3 .bf16) (regState .x [(2, 0x3FC0), (3, 0x4000)])) 1 = 0x4040 := by decide
theorem test_fcmp_zero : sreg (after (.fcmpEq 1 2 3 .fp16) (regState .x [(2, 0x8000), (3, 0)])) 1 = 1 := by decide
/-- R89: 0 × ∞ is the canonical NaN even with a NaN addend. -/
theorem test_ffma_zero_infinity : sreg (after (.ffma 1 2 3 4 .fp16) (regState .x [(2, 0), (3, 0x7C00), (4, 0x7E01)])) 1 = 0x7E00 := by decide
/-- The example under R90: 7.0 to F4E2 under SAT is 6 with warn.sat. -/
theorem test_fcvt_saturates : let t := after (.fcvt 2 3 7 0 true) (regState .a [(3, 0x40E00000)]); sreg t 2 = 7 ∧ t.cur.warn ≠ 0 := by decide
/-- The table of conversions under R43, one row in each of the five modes: −5.0 to F4E2. -/
theorem test_fcvt_modes : ([0, 1, 2, 3, 4] : List Nat).map (fun m =>
    sreg (after (.fcvt 2 3 7 0 false) (onTile 0 .a { strand with
      fa := { withRegs strand.fa [(3, 0xC0A00000)] with rmode := BitVec.ofNat 3 m } })) 2) = [0xE, 0xE, 0xE, 0xF, 0xF] := by decide
/-- R91 and its example: a branch at 0x14 to 0x8. -/
theorem test_br_taken : (after (.br 1 0 .ne 0x1FFD) (onTile 0 .a { strand with fa := { withRegs strand.fa [(1, 3)] with pc := 0x14 } })).pc = 8 := by
  decide
theorem test_br_not_taken : (after (.br 1 0 .ne 0x1FFD) (onTile 0 .a { strand with fa := { strand.fa with pc := 0x14 } })).pc = 0x18 := by decide
/-- R55: a JAL at 0xFFFC links 0x0000. -/
theorem test_jal_link : let t := after (.jal 4) (onTile 0 .x { strand with fx := { strand.fx with pc := 0xFFFC } }); sreg t 23 = 0 ∧ t.pc = 0xC := by decide
theorem test_jalr_return : let t := after (.jalr 0 23 0) (regState .x [(23, 0x54)]); t.pc = 0x54 ∧ sreg t 0 = 0 := by decide
/-- R92: JALR to a misaligned target traps with the target as tval; with no handler the task is aborted (R313). -/
theorem test_jalr_misaligned : (after (.jalr 0 23 0) (onTile 0 .x { strand with
    tvec := 0x1_0100_0080, fx := withRegs strand.fx [(23, 0x56)] })).cur.tval = 0x56 := by decide
theorem test_end : let t := after .endStrand (regState .a []); t.cur.fa.ended = true ∧ t.cur.fx.ended = false := by decide
theorem test_nop : (after .nop (regState .a [])).pc = 4 := by decide
/-- R57: a second HIMM replaces the first and sets warn.hint. -/
theorem test_himm_again : let t := after (.himm 5) (hintState .a { himm := some 1 } []); t.hints.himm = some 5 ∧ t.cur.warn ≠ 0 := by decide
/-- R94, little-endian (R11): the high byte of a stored word stands at the highest address. -/
theorem test_sts_bytes : let t := after (.sts 1 2 .w32 1) (regState .a [(1, 0x01020304), (2, 0x10)]);
    memGet t.cur.spad 0x14 = 4 ∧ memGet t.cur.spad 0x17 = 1 ∧ memGet t.cur.spad 0x18 = 0 := by decide
theorem test_lds_reserves : let t := after (.lds 24 2 .u32 0) (regState .a []); (t.cur.sport 0).length = 1 ∧ t.cur.fills.length = 1 := by decide
theorem test_lds_out_of_range : (after (.lds 3 2 .u8 0) (onTile 0 .a { strand with
    tvec := 0x1_0100_0080, fa := withRegs strand.fa [(2, 0x110000)] })).cur.tcause.toNat % 256 = 7 := by decide
/-- The arrival of a value ends the interlock of its register (R23). -/
theorem test_load_arrives : let T := (after (.localLoadFill 0 0) (after (.lds 5 0 .u32 0) (onTile 0 .a { strand with spad := [⟨1, 0x12⟩] }))).tile 0;
    T.fa.reg 5 = 0x1200 ∧ T.fa.pend = [] := by decide
/-- R96, R97. -/
theorem test_qstat : sreg (after (.qstat 1 24 3) (onTile 0 .x { strand with
    fa := { strand.fa with ended := true }, sq := strand.sq.set 0 [.filled 7, .pending 3] })) 1 = 0x8000 + 14 * 1024 + 32 + 1 := by decide
theorem test_qdrain : let t := after (.qdrain 2 28 2) (onTile 0 .x { strand with vq := strand.vq.set 0 [.filled 7, .filled 8] });
    sreg t 2 = 2 ∧ t.cur.vport 0 = [] := by decide
/-- R28: a pop takes the oldest entry. -/
theorem test_pop : let t := after (.add 3 3 24 .w64) (onTile 0 .x { strand with sq := strand.sq.set 0 [.filled 7, .filled 8], fx := withRegs strand.fx [(3, 1)] });
    sreg t 3 = 8 ∧ t.cur.sport 0 = [.filled 8] := by decide
/-- R309: a trap saves both program counters and sends both fronts to the handler. -/
theorem test_trap : let t := after (.trap 0x25) (onTile 0 .x { strand with
      tvec := 0x1_0100_0080, fa := { strand.fa with pc := 0x20 }, fx := { strand.fx with pc := 0x44 } });
    t.cur.epca = 0x20 ∧ t.cur.epcx = 0x44 ∧ t.cur.fa.pc = 0x80 ∧ t.cur.fx.pc = 0x100 ∧ t.cur.slv = true ∧ t.cur.tval = 0x25 := by decide
theorem test_trap_cause : (after (.trap 0x25) (onTile 0 .x { strand with tvec := 0x1_0100_0080, fx := { strand.fx with pc := 0x44 } })).cur.tcause =
    0x0000_0044_0000_0110 := by decide
/-- R25: LD issued on the X-front. -/
theorem test_wrong_front : (after (.ld 5 6 1 .module .w32 false true 2) (onTile 0 .x { strand with tvec := 0x1_0100_0080 })).cur.tval = 0x58A63242 := by
  decide
/-- R337: the second front's ERET returns both. -/
theorem test_eret : let t := after .eret (onTile 0 .x { strand with slv := true, epca := 0x20, epcx := 0x48, fa := { strand.fa with inEret := true } });
    t.cur.slv = false ∧ t.cur.fa.pc = 0x20 ∧ t.cur.fx.pc = 0x48 ∧ t.cur.fa.inEret = false := by decide
/-- R335: a write of tvec at user level takes the privilege trap. -/
theorem test_privilege : (after (.csrw 1 0x020) (onTile 0 .a { strand with tvec := 0x1_0100_0080 })).cur.tcause.toNat % 256 = 3 := by decide
theorem test_csrx : let t := after (.csrx 1 2 0x000) (onTile 0 .a { strand with fa := { withRegs strand.fa [(2, 5)] with rmode := 2 } });
    sreg t 1 = 2 ∧ t.rmode = 5 := by decide
/-- R45: a draw in SR moves sgen by the golden ratio. -/
theorem test_draw : (after (.fadd 1 2 3 .fp32) (onTile 0 .x { strand with fx := { strand.fx with rmode := 5, sgen := 1 } })).cur.fx.sgen =
    0x9E3779B97F4A7C16 := by decide


/-! ### Witnesses: for every statement, a concrete state and operands that meet the hypotheses of each of its clauses

The witnesses for a table of words are given for every row. -/

/-- Lets a test over a table give the hypothesis of each row. -/
theorem all_ready {α : Type} {l : List α} {s : State} {g : α → Form} (h : l.all (fun p => readyNow s (g p)) = true) :
    ∀ p ∈ l, Ready s (g p) := fun p hp => ready_of_readyNow (List.all_eq_true.mp h p hp)

/-- A strand whose scalar ports for each front hold two entries. -/
def portTile : Tile := { strand with
  sq := Vector.ofFn (fun _ => [.filled 3, .filled 9]), vq := Vector.ofFn (fun _ => [.filled 3, .filled 9]) }

theorem test_met_AluWordsComplete : ∀ p ∈ aluTable, Ready (regState .a [(2, 5)]) { instr := p.1 1 2 3 .w64, rs := [2, 3], ws := [1] } :=
  all_ready (by decide)
theorem test_met_AluWordsComplete_ports : ∀ p ∈ aluTable,
    Ready (onTile 159 .x portTile) { instr := p.1 28 24 24 .w8, rs := [24, 24], ws := [28] } := all_ready (by decide)
theorem test_met_MultiplyDivideWordsComplete : ∀ p ∈ mulTable,
    Ready (regState .x [(2, 5)]) { instr := p.1 0 2 0 .w32, rs := [2, 0], ws := [0] } := all_ready (by decide)
theorem test_met_BitWordsComplete : ∀ p ∈ bitTable, Ready (regState .a [(2, 5)]) { instr := p.1 23 2 .w16, rs := [2], ws := [23] } :=
  all_ready (by decide)
theorem test_met_BitWordsComplete_fields : Ready (regState .a []) { instr := .bext 1 2 3 .w64, rs := [2, 3], ws := [1] } ∧
    Ready (regState .a []) { instr := .bins 1 2 3 .w64, rs := [2, 3, 1], ws := [1] } ∧
    Ready (regState .x []) { instr := .sext 1 2 3 .w8, rs := [2, 3], ws := [1] } :=
  ⟨ready_of_readyNow (by decide), ready_of_readyNow (by decide), ready_of_readyNow (by decide)⟩
theorem test_met_ImmediateWordsComplete : ∀ p ∈ immTable,
    Ready (hintState .a { himm := some 1 } []) { instr := p.1 1 2 0xFFFF, rs := [2], ws := [1], himm := true } := all_ready (by decide)
theorem test_met_ShiftAndSelectWordsComplete : ∀ p ∈ shiftTable, Ready (regState .a []) { instr := p.1 1 2 63, rs := [2], ws := [1] } :=
  all_ready (by decide)
theorem test_met_ShiftAndSelectWordsComplete_sel : Ready (regState .x []) { instr := .sel 1 2 3 4, rs := [2, 3, 4], ws := [1] } :=
  ready_of_readyNow (by decide)
theorem test_met_FloatWordsComplete : (∀ p ∈ roundTable, Ready (regState .x []) { instr := p.1 1 2 3 .fp32, rs := [2, 3], ws := [1] }) ∧
    (∀ p ∈ chooseTable, Ready (regState .x []) { instr := p.1 1 2 3 .fp16, rs := [2, 3], ws := [1] }) ∧
    (∀ p ∈ compareTable, Ready (regState .a []) { instr := p.1 1 2 3 .bf16, rs := [2, 3], ws := [1] }) ∧
    Ready (regState .a []) { instr := .ffma 1 2 3 4 .fp32, rs := [2, 3, 4], ws := [1] } :=
  ⟨all_ready (by decide), all_ready (by decide), all_ready (by decide), ready_of_readyNow (by decide)⟩
/-- 1.0 and 2.0 are numbers of FP32; 0x7FC00000 is a NaN of it and 1.0 is none. -/
theorem test_met_FloatComparisonsAreByValue : fmtFP32 ∈ floatFormats ∧ (0x3F800000 : Nat) < 2 ^ fmtFP32.width ∧ (0x40000000 : Nat) < 2 ^ fmtFP32.width ∧
    fmtFP32.num 0x3F800000 = some 1 ∧ fmtFP32.num 0x40000000 = some 2 ∧
    (fmtFP32.decode 0x7FC00000).isNan = true ∧ (fmtFP32.decode 0x3F800000).isNan = false := by
  refine ⟨by decide, by decide, by decide, ?_, ?_, by decide, by decide⟩
  · rw [show fmtFP32.num 0x3F800000 = FVal.toRat (.fin false 8388608 1 (-23)) from congrArg FVal.toRat (by decide)]
    norm_num [FVal.toRat]
  · rw [show fmtFP32.num 0x40000000 = FVal.toRat (.fin false 8388608 1 (-22)) from congrArg FVal.toRat (by decide)]
    norm_num [FVal.toRat]
theorem f4e2_numbers : fmtF4E2.num (fmtF4E2.largest false) = some 6 ∧ fmtF4E2.num 2 = some 1 ∧ fmtF4E2.num 3 = some (3 / 2) := by
  refine ⟨?_, ?_, ?_⟩
  · rw [show fmtF4E2.num (fmtF4E2.largest false) = FVal.toRat (.fin false 3 1 1) from congrArg FVal.toRat (by decide)]
    norm_num [FVal.toRat]
  · rw [show fmtF4E2.num 2 = FVal.toRat (.fin false 2 1 (-1)) from congrArg FVal.toRat (by decide)]
    norm_num [FVal.toRat]
  · rw [show fmtF4E2.num 3 = FVal.toRat (.fin false 3 1 (-1)) from congrArg FVal.toRat (by decide)]
    norm_num [FVal.toRat]
/-- 5/4 lies between the neighbours 1 and 3/2 of F4E2, as near to one as to the other, so that it meets the hypotheses of every mode and
of both tie clauses: RNE takes 1 and leaves 3/2, RNA takes 3/2 and leaves 1 (the table under R43). -/
theorem test_met_RoundingIsCorrect : fmtF4E2 ∈ floatFormats ∧ (FVal.fin false 5 4 0).toRat = some (5 / 4) ∧
    fmtF4E2.num (fmtF4E2.largest false) = some 6 ∧ |(5 / 4 : ℚ)| ≤ 6 ∧
    fmtF4E2.round { mode := 0, seed := 0, i := 0 } false (.fin false 5 4 0) = 2 ∧
    fmtF4E2.round { mode := 4, seed := 0, i := 0 } false (.fin false 5 4 0) = 3 ∧
    fmtF4E2.num 2 = some 1 ∧ fmtF4E2.num 3 = some (3 / 2) ∧ |(5 / 4 : ℚ) - 1| = |(5 / 4 : ℚ) - 3 / 2| :=
  ⟨by decide, by norm_num [FVal.toRat], f4e2_numbers.1, by norm_num [abs_le], by decide, by decide, f4e2_numbers.2.1, f4e2_numbers.2.2, by norm_num [abs_of_nonneg, abs_of_neg]⟩

theorem test_met_ConvertWordCompletes : Ready (regState .a []) { instr := .fcvt 1 2 7 0 true, rs := [2], ws := [1] } ∧
    Ready (onTile 3 .x portTile) { instr := .fcvt 28 24 20 13 false, rs := [24], ws := [28] } :=
  ⟨ready_of_readyNow (by decide), ready_of_readyNow (by decide)⟩

theorem test_met_ControlWordsComplete : Ready (regState .a []) { instr := .br 1 2 .geu 0x1FFF, rs := if BrCond.geu = .al then [] else [1, 2], himm := true } ∧
    Ready (regState .a []) { instr := .br 1 24 .al 0, rs := if BrCond.al = .al then [] else [1, 24], himm := true } ∧
    Ready (regState .x []) { instr := .nop } ∧ Ready (regState .x []) { instr := .endStrand } ∧
    Ready (regState .a []) { instr := .jal 0x3FFFFFF, ws := [23], himm := true } :=
  ⟨ready_of_readyNow (by decide), ready_of_readyNow (by decide), ready_of_readyNow (by decide), ready_of_readyNow (by decide),
   ready_of_readyNow (by decide)⟩
/-- JALR: a word of the code store, the last one, just past it, misaligned and negative. -/
theorem test_met_ControlWordsComplete_jalr : Ready (regState .a [(2, 0x10000)]) { instr := .jalr 1 2 0xFFFC, rs := [2], ws := [1], himm := true } ∧
    jalrTarget (regState .a [(2, 0x10000)]) 2 0xFFFC = 0xFFFC ∧ jalrTarget (regState .a [(2, 0x10000)]) 2 0 = 0x10000 ∧
    jalrTarget (regState .a [(2, 6)]) 2 0 % 4 ≠ 0 ∧ jalrTarget (regState .a []) 2 0xFFFC < 0 :=
  ⟨ready_of_readyNow (by decide), by decide, by decide, by decide, by decide⟩
theorem test_met_HintWordsComplete : Ready (hintState .a { himm := some 1 } []) { instr := .himm 2 } ∧
    Ready (regState .x []) { instr := .hmod 1 } ∧ Ready (regState .a []) { instr := .hpri 7 } :=
  ⟨ready_of_readyNow (by decide), ready_of_readyNow (by decide), ready_of_readyNow (by decide)⟩

/-- LDS: the last bytes of the code store in bounds, past it, misaligned, negative. -/
theorem test_met_LocalLoadCompletes : let s := regState .a [(2, 0x110000)];
    Ready s { instr := .lds 3 2 .d64 0x3FF, rs := [2], ws := [3], himm := true, hpri := true } ∧
    localAddr s [2] 0x3FF 8 = 0x10FFF8 ∧ s.localHeld s.focus.2 0x10FFF8 8 false = false ∧ (0x110000 : Int) < localAddr s [2] 0 8 + 8 ∧
    localAddr (regState .a [(2, 1)]) [2] 0 2 % 2 ≠ 0 ∧ localAddr (regState .a []) [2] 0x3FF 1 < 0 :=
  ⟨ready_of_readyNow (by decide), by decide, by decide, by decide, by decide, by decide⟩
theorem test_met_LocalStoreCompletes : let s := regState .x [(2, 0x100000)];
    Ready s { instr := .sts 3 2 .w64 0x3FF, rs := [2, 3], himm := true, hpri := true } ∧
    localAddr s [2, 3] 0x3FF 8 = 0xFFFF8 ∧ s.localHeld s.focus.2 0xFFFF8 8 true = false ∧ Memory.wf s.cur.spad = true ∧
    (0x100000 : Int) < localAddr s [2, 3] 0 8 + 8 ∧
    localAddr (regState .x [(2, 4)]) [2, 3] 0 8 % 8 ≠ 0 ∧ localAddr (regState .x []) [2, 3] 0x3FF 1 < 0 :=
  ⟨ready_of_readyNow (by decide), by decide, by decide, by decide, by decide, by decide, by decide⟩
/-- A value on its way to a register, to a scalar port and to a vector port. -/
theorem test_met_LoadedValueArrives :
    let T := { strand with fills := [{ id := 4, front := .a, dest := .sreg 23, val := 9 }, { id := 5, front := .x, dest := .sport 7, val := 9 },
                 { id := 6, front := .a, dest := .vport 3, val := 9 }] };
    ((onTile 2 .a T).tile 2).fills.find? (fun y => y.id == 4) = some { id := 4, front := .a, dest := .sreg 23, val := 9 } ∧
    ((onTile 2 .a T).tile 2).fills.find? (fun y => y.id == 5) = some { id := 5, front := .x, dest := .sport 7, val := 9 } ∧
    ((onTile 2 .a T).tile 2).fills.find? (fun y => y.id == 6) = some { id := 6, front := .a, dest := .vport 3, val := 9 } ∧
    ((onTile 2 .a T).tile 2).phase ≠ .idle := by decide +kernel
theorem test_met_QueuePortsComplete : Ready (regState .x []) { instr := .qstat 1 31 3, ws := [1] } ∧
    Ready (regState .a []) { instr := .qstat 1 28 2, ws := [1] } ∧
    Ready (onTile 0 .x portTile) { instr := .qdrain 1 24 3, ws := [1] } ∧ pendingIn ((onTile 0 .x portTile).cur.sport 0) = 0 ∧
    Ready (onTile 0 .a portTile) { instr := .qdrain 23 31 3, ws := [23] } ∧ pendingIn ((onTile 0 .a portTile).cur.sport 7) = 0 ∧
    Ready (onTile 0 .x portTile) { instr := .qdrain 1 28 2, ws := [1] } ∧ pendingIn ((onTile 0 .x portTile).cur.vport 0) = 0 :=
  ⟨ready_of_readyNow (by decide), ready_of_readyNow (by decide), ready_of_readyNow (by decide), by decide, ready_of_readyNow (by decide),
   by decide, ready_of_readyNow (by decide), by decide⟩
theorem test_met_QueuePortsComplete_wrong_front : let s := onTile 0 .a portTile;
    s.cur.runs s.focus.2 = true ∧ ({ instr := .qdrain 1 24 3, ws := [1] } : Form).gate s.cur s.focus.1 s.focus.2 = none ∧
    ({ instr := .qdrain 1 28 2, ws := [1] } : Form).gate s.cur s.focus.1 s.focus.2 = none := by decide

/-- A strand with a trap handler at 0x80 and 0x100. -/
def handled : Tile := { strand with tvec := 0x1_0100_0080 }

theorem test_met_TrapsAreTaken : let s := onTile 0 .a handled; let u := onTile 0 .x { strand with slv := true };
    s.cur.phase ≠ .idle ∧ s.cur.slv = false ∧ s.cur.tvec.getLsbD 32 = true ∧ u.cur.slv = true ∧ u.cur.phase ≠ .idle ∧
    (regState .a []).cur.slv = false ∧ (regState .a []).cur.tvec.getLsbD 32 = false := by decide
theorem test_met_TrapWordsTrap : (regState .x []).cur.runs .x = true ∧ Ready (regState .a []) { instr := .trap 0xFFF } :=
  ⟨by decide, ready_of_readyNow (by decide)⟩
/-- A memory word on the X-front, a fibre word on the X-front of an F-tile, a vector word on the A-front; ERET and CSRW at user level. -/
theorem test_met_FrontAndPrivilegeTraps : let s := regState .x [];
    let i : Instr := .ld 1 2 0 .die .w64 false false 0;
    i.isWord = true ∧ i.wf = true ∧ s.cur.runs s.focus.2 = true ∧ isJack s.focus.1 = false ∧ frontAllows (encodeWord i) s.focus.2 = false ∧
    frontAllows (encodeWord (.fstat 1)) .x = false ∧ isF 3 = true ∧ frontAllows (encodeWord (.vadd 1 2 3 0 .w8)) .a = false ∧
    serviceWord .eret = true ∧ s.cur.slv = false ∧ frontAllows (encodeWord .eret) .x = true ∧ Instr.wf (.csrw 1 0x020) = true ∧
    serviceWord (.csrw 1 0x020) = true := by decide
theorem test_met_EmptyPortBlocks : let s := regState .x [];
    s.cur.runs s.focus.2 = true ∧ isJack s.focus.1 = false ∧ srcSOk s.focus.2 27 = true ∧ srcSOk s.focus.2 1 = true ∧ dstSOk s.focus.2 28 = true ∧
    (s.cur.front s.focus.2).pend = [] ∧ s.cur.sport (27 - 24) = [] ∧
    ∀ q : Fin 8, (s.cur.sport q).all (fun e => !e.isPending) = true := by decide
theorem test_met_EretReturns : let s := onTile 0 .a { handled with slv := true };
    let u := onTile 0 .x { handled with slv := true, fa := { strand.fa with inEret := true } };
    let v := onTile 0 .x { handled with slv := true, fa := { strand.fa with inEret := true }, held := [{ cause := 0x20, front := .a, ipc := 8, val := 1 }] };
    Ready s { instr := .eret, svc := true } ∧ Ready u { instr := .eret, svc := true } ∧ Ready v { instr := .eret, svc := true } ∧
    (s.cur.front s.focus.2.other).inEret = false ∧ (u.cur.front u.focus.2.other).inEret = true ∧ u.cur.held = [] ∧
    (v.cur.front v.focus.2.other).inEret = true ∧ v.cur.tvec.getLsbD 32 = true :=
  ⟨ready_of_readyNow (by decide), ready_of_readyNow (by decide), ready_of_readyNow (by decide), by decide, by decide, by decide, by decide, by decide⟩
theorem test_met_CsrReadCompletes : ∀ p ∈ csrTable, Ready (onTile 5 .x strand) { instr := .csrr 1 (BitVec.ofNat 12 p.1), ws := [1] } :=
  all_ready (by decide)
theorem test_met_CsrWritesComplete : let s := onTile 0 .a { handled with slv := true };
    csrListed 0x020 = true ∧ csrReadOnly 0x020 = false ∧ Sparse.wfFrom Vf.reset 0 s.vfs = true ∧
    Ready s { instr := .csrw 1 0x020, svc := csrSWrite 0x020, rs := [1] } ∧
    Ready s { instr := .csrx 2 1 0x04F, svc := csrSWrite 0x04F, rs := [1], ws := [2] } ∧
    Ready (regState .x []) { instr := .csrw 1 0x000, svc := csrSWrite 0x000, rs := [1] } ∧
    Ready (regState .x []) { instr := .csrx 2 1 0x030, svc := csrSWrite 0x030, rs := [1], ws := [2] } :=
  ⟨by decide, by decide, by decide, ready_of_readyNow (by decide), ready_of_readyNow (by decide), ready_of_readyNow (by decide),
   ready_of_readyNow (by decide)⟩
theorem test_met_FreezeCompletes : Ready (regState .a []) { instr := .freeze 1, onX := false, ws := [1] } := ready_of_readyNow (by decide)
/-- SCRUB: the last unit of the address space, past it, and misaligned. -/
theorem test_met_ScrubAndPerfselComplete : let s := regState .a [(2, 0x00FFFFFFFFFF0000), (3, 0x0100000000000000), (4, 1)];
    Ready s { instr := .scrub 1 2 .k64 0, onX := false, rs := [2], ws := [1] } ∧
    Ready s { instr := .scrub 1 3 .k64 0, onX := false, rs := [3], ws := [1] } ∧
    Ready s { instr := .scrub 1 4 .g1 1023, onX := false, rs := [4], ws := [1] } ∧
    (s.src [2] 0).toNat % unitBytes .k64 = 0 ∧ fenced s s.focus.1 0 = false ∧ 2 ^ 56 ≤ (s.src [3] 0).toNat ∧
    (s.src [4] 0).toNat % unitBytes .g1 ≠ 0 ∧ Ready s { instr := .perfsel 2 3, onX := false, rs := [2] } ∧ Sparse.wfFrom Vf.reset 0 s.vfs = true :=
  ⟨ready_of_readyNow (by decide), ready_of_readyNow (by decide), ready_of_readyNow (by decide), by decide, by decide, by decide, by decide,
   ready_of_readyNow (by decide), by decide⟩

/-- A service-level strand of a context with the sys bit (context 3, live, of VF 0). -/
def capable' (T : Tile) : State :=
  { onTile 0 .a { T with slv := true, ctx := 3 } with ctxs := [(3, { Ctx.reset with live := true, sys := true })] }

theorem test_met_CapabilityIsNeeded : let s := onTile 0 .a { handled with slv := true };
    hasSys s = false ∧ Ready s { instr := .invpg 1 2 .k64 0, onX := false, svc := true, rs := [2], ws := [1] } ∧
    Ready s { instr := .waysetCw 1 2, onX := false, svc := true, rs := [2], ws := [1] } ∧
    Ready s { instr := .waysetShare 1 2, onX := false, svc := true, rs := [2], ws := [1] } ∧
    Ready s { instr := .lehrArm 1 2, onX := false, svc := true, rs := [2], ws := [1] } ∧
    Ready s { instr := .lehrStat 1, onX := false, svc := true, ws := [1] } ∧
    Ready s { instr := .lehrDisarm 1, onX := false, svc := true, ws := [1] } ∧
    Ready s { instr := .jcfg 1 2 16, onX := false, svc := true, rs := [2], ws := [1] } :=
  ⟨by decide, ready_of_readyNow (by decide), ready_of_readyNow (by decide), ready_of_readyNow (by decide), ready_of_readyNow (by decide),
   ready_of_readyNow (by decide), ready_of_readyNow (by decide), ready_of_readyNow (by decide)⟩
/-- INVPG of one unit of context 3. -/
theorem test_met_CapableWordsComplete_invpg : let s := capable' { strand with fa := withRegs strand.fa [(2, 0x0000_0000_0020_0003)] };
    hasSys s = true ∧ Ready s { instr := .invpg 1 2 .m2 1023, onX := false, svc := true, rs := [2], ws := [1] } ∧
    bits (s.src [2] 0) 63 56 = 0 ∧ bits (s.src [2] 0) 15 10 = 0 ∧ bits (s.src [2] 0) 55 16 * 2 ^ 16 % unitBytes .m2 = 0 ∧
    (s.ctx (bits (s.src [2] 0) 9 0)).live = true ∧ (s.ctx (bits (s.src [2] 0) 9 0)).vf = s.cur.vf :=
  ⟨by decide, ready_of_readyNow (by decide), by decide, by decide, by decide, by decide, by decide⟩
/-- A carve-out of 8 ways on die 1, and a way share of ways 0 to 7 for VF 31. -/
theorem test_met_CapableWordsComplete_wayset : let s := capable' { strand with fa := withRegs strand.fa [(2, 0x108), (3, 0x1F00FF)] };
    Ready s { instr := .waysetCw 1 2, onX := false, svc := true, rs := [2], ws := [1] } ∧ bits (s.src [2] 0) 63 9 = 0 ∧
    bits (s.src [2] 0) 7 4 = 0 ∧ bits (s.src [2] 0) 3 0 ≤ 8 ∧
    (∀ v : Fin 32, areaFits (s.vf v).part (bits (s.src [2] 0) 8 8) (bits (s.src [2] 0) 3 0) = true) ∧
    otherOwns s s.cur.vf (carveMask (bits (s.src [2] 0) 3 0) - carveMask (s.die (bits (s.src [2] 0) 8 8)).cw) = false ∧
    Ready s { instr := .waysetShare 1 3, onX := false, svc := true, rs := [3], ws := [1] } ∧ bits (s.src [3] 0) 63 21 = 0 ∧
    otherOwns s (bits (s.src [3] 0) 20 16) (bits (s.src [3] 0) 15 0) = false ∧
    bits (s.src [3] 0) 15 0 &&& carveMask (max s.die0.cw s.die1.cw) = 0 :=
  ⟨ready_of_readyNow (by decide), by decide, by decide, by decide, by decide, by decide, ready_of_readyNow (by decide), by decide, by decide, by decide⟩
/-- A descriptor of one block for the lehr; the engine idle, and armed. -/
theorem test_met_CapableWordsComplete_lehr :
    let s := capable' { strand with fa := withRegs strand.fa [(2, 0x40)], spad := [(0x65, 0xC0), (0x68, 1)] };
    Ready s { instr := .lehrArm 1 2, onX := false, svc := true, rs := [2], ws := [1] } ∧ spadCause (s.src [2] 0).toNat 64 64 = none ∧
    s.cur.sbClash [(0x40, 64)] false = false ∧ s.lehr.st ≠ .armed ∧ s.lehr.st ≠ .opened ∧
    lehrBad (BitVec.ofNat 512 (memNat s.cur.spad (s.src [2] 0).toNat 64)) s.cur.ctx.toNat = false ∧
    Ready s { instr := .lehrStat 1, onX := false, svc := true, ws := [1] } ∧
    Ready s { instr := .lehrDisarm 1, onX := false, svc := true, ws := [1] } ∧ s.lehr.st = .idle ∧
    Ready { s with lehr := { s.lehr with st := .armed } } { instr := .lehrDisarm 1, onX := false, svc := true, ws := [1] } :=
  ⟨ready_of_readyNow (by decide), by decide, by decide, by decide, by decide, by decide +kernel, ready_of_readyNow (by decide),
   ready_of_readyNow (by decide), by decide, ready_of_readyNow (by decide)⟩
/-- An image for jack 16 that switches at cycle 4096, with no adder and no code. -/
theorem test_met_CapableWordsComplete_jcfg :
    let s := capable' { strand with fa := withRegs strand.fa [(2, 0x400)], spad := [(0x439, 0x10)] };
    Ready s { instr := .jcfg 1 2 16, onX := false, svc := true, rs := [2], ws := [1] } ∧ spadCause (s.src [2] 0).toNat 1024 64 = none ∧
    s.cur.sbClash [(0x400, 1024)] false = false ∧ (s.jack 16).pend = none ∧
    JackImage.bad (BitVec.ofNat 8192 (memNat s.cur.spad (s.src [2] 0).toNat 1024)) s.cyc.toNat = false :=
  ⟨ready_of_readyNow (by decide), by decide, by decide, by decide, by decide +kernel⟩

theorem test_met_VectorIntegerWordsComplete :
    (∀ p ∈ vec2Table, Ready (onTile 0 .x portTile)
      { instr := p.1 30 28 28 7 .w8, onA := false, rv := [28, 28], wv := [30], hmod := if p.2.1 then 1 else 0 }) ∧
    (∀ p ∈ vec1Table, Ready (hintState .x { hmod := some 1 } []) { instr := p.1 0 27 0 .w64, onA := false, rv := [27], wv := [0] }) :=
  ⟨all_ready (by decide), all_ready (by decide)⟩
theorem test_met_VectorFloatWordsComplete :
    (∀ p ∈ vecF2Table, Ready (regState .x []) { instr := p.1 1 2 3 0 .w16 true, onA := false, rv := [2, 3], wv := [1] }) ∧
    (∀ p ∈ vecF1Table, Ready (regState .x []) { instr := p.1 1 2 3 .w64 false, onA := false, rv := [2], wv := [1] }) ∧
    (∀ p ∈ vecF3Table, Ready (regState .x []) { instr := p.1 1 2 3 0 .w32 false, onA := false, rv := [2, 3, 1], wv := [1] }) ∧
    Ready (hintState .x { hmod := some 1 } []) { instr := .vscl 1 2 3 0 .w16, onA := false, rv := [2, 3], wv := [1], hmod := 1 } ∧
    (∀ p ∈ specialTable, Ready (regState .x []) { instr := p.1 1 2 0 .w32, onA := false, rv := [2], wv := [1] }) :=
  ⟨all_ready (by decide), all_ready (by decide), all_ready (by decide), ready_of_readyNow (by decide), all_ready (by decide)⟩
theorem test_met_VectorMoveAndMaskWordsComplete : let s := regState .x [];
    Ready s { instr := .vcmp 7 2 3 1 .w8 false false .ltu, onA := false, rv := [2, 3], hmod := 1 } ∧
    Ready s { instr := .vcmp 0 2 3 1 .w32 false true .un, onA := false, rv := [2, 3], hmod := 1 } ∧
    Ready s { instr := .vsel 1 2 3 4 .w16, onA := false, rv := [2, 3], wv := [1] } ∧
    Ready s { instr := .vbcast 1 2 0 .w64, onA := false, rs := [2], wv := [1] } ∧ Ready s { instr := .viota 1 0 .w8, onA := false, wv := [1] } ∧
    Ready s { instr := .vperm 1 2 3 0 .w8, onA := false, rv := [2, 3], wv := [1] } ∧
    Ready s { instr := .vextr 1 2 3 .w32, onA := false, rv := [2], rs := [3], ws := [1], hmod := 1 } ∧
    Instr.wf (.vcvt 1 2 7 0 true 1) = true ∧ Ready s { instr := .vcvt 1 2 7 0 true 1, onA := false, rv := [2], wv := [1] } ∧
    Ready s { instr := .kand 1 2 3, onA := false } ∧ Ready s { instr := .kor 0 2 3, onA := false } ∧ Ready s { instr := .knot 1 2, onA := false } ∧
    Ready s { instr := .kpopc 1 2, onA := false, ws := [1] } :=
  ⟨ready_of_readyNow (by decide), ready_of_readyNow (by decide), ready_of_readyNow (by decide), ready_of_readyNow (by decide),
   ready_of_readyNow (by decide), ready_of_readyNow (by decide), ready_of_readyNow (by decide), by decide, ready_of_readyNow (by decide),
   ready_of_readyNow (by decide), ready_of_readyNow (by decide), ready_of_readyNow (by decide), ready_of_readyNow (by decide)⟩
theorem test_met_ReductionsAndScansComplete : let s := regState .x [];
    Ready s { instr := .vred 1 2 3 .w32 false true .add, onA := false, rv := [2], wv := [1] } ∧
    Ready s { instr := .vscan 1 2 3 .w16 true true .max, onA := false, rv := [2], wv := [1] } ∧
    Ready s { instr := .vred 1 2 3 .w8 true false .xor, onA := false, rv := [2], wv := [1] } ∧
    Ready s { instr := .vscan 1 2 3 .w64 false false .min, onA := false, rv := [2], wv := [1] } :=
  ⟨ready_of_readyNow (by decide), ready_of_readyNow (by decide), ready_of_readyNow (by decide), ready_of_readyNow (by decide)⟩
/-- The last row in bounds, one past it, one misaligned; a pitch, and the pitch of zero that VLDT refuses. -/
theorem test_met_ScratchpadVectorWordsComplete : let s := regState .a [(2, 0x110000), (3, 0x1000FF), (4, 0x100000), (5, 2)];
    Ready s { instr := .vlds 29 2 0x3F, onX := false, rs := [2], wv := [29], himm := true, hpri := true } ∧ vlocalAddr s [2] 0x3F = 0x10FF00 ∧
    s.localHeld s.focus.2 0x10FF00 256 false = false ∧ (0x110000 : Int) < vlocalAddr s [2] 0 + 256 ∧ vlocalAddr s [5] 0 % 4 ≠ 0 ∧
    Ready s { instr := .vldt 28 5 .w16 0, onX := false, rs := [5], wv := [28], himm := true, hmod := 0xFFFF, hpri := true } ∧
    s.localHeld s.focus.2 2 32514 false = false ∧
    Ready (hintState .a { hmod := some 0 } []) { instr := .vldt 28 5 .w32 0, onX := false, rs := [5], wv := [28], himm := true, hmod := 0xFFFF, hpri := true } ∧
    Ready (onTile 0 .a { portTile with fa := withRegs strand.fa [(2, 0x100000)] }) { instr := .vsts 31 2 0x3F, onX := false, rs := [2], rv := [31], himm := true, hpri := true } ∧
    vlocalAddr s [4] 0x3F = 0xFFF00 ∧ s.localHeld s.focus.2 0xFFF00 256 true = false ∧ (0x100000 : Int) < vlocalAddr s [4] 0 + 256 :=
  ⟨ready_of_readyNow (by decide), by decide, by decide, by decide, by decide, ready_of_readyNow (by decide), by decide, ready_of_readyNow (by decide),
   ready_of_readyNow (by decide), by decide, by decide, by decide⟩

/-- A strand of context 4 with addresses in s5 to s7: global, in the tile window of the own tile, and past the space. -/
def globalTile : Tile := { portTile with ctx := 4, fa := withRegs strand.fa [(5, 0x12340), (6, 0x00FF_0000_0000_2300), (7, 0x0100_0000_0000_0000)] }

theorem maySend_of {s : State} {x n align cls places : Nat}
    (h : ((globalCause s x n align).isNone && !fenced s s.focus.1 cls && placesFree s s.focus.1 places) = true) : MaySend s x n align cls places := by
  simp only [Bool.and_eq_true, Option.isNone_iff_eq_none, Bool.not_eq_true'] at h
  exact ⟨h.1.1, h.1.2, h.2⟩

theorem test_met_GlobalAccessesSetOut : let s := onTile 7 .a globalTile;
    Ready s { instr := .ld 1 5 2 .module .w64 true true 0x3F, onX := false, rs := [5], ws := [1], himm := true, hpri := true } ∧
    MaySend s (globalAddr s [5] 0x3F 8).toNat 8 8 2 1 ∧ MaySend s (globalAddr s [6] 0 8).toNat 8 8 2 1 ∧
    Ready s { instr := .st 1 5 7 .rect .w8 true 0, onX := false, rs := [5, 1], himm := true, hpri := true } ∧
    MaySend s (globalAddr s [5, 1] 0 1).toNat 1 1 7 1 ∧
    Ready s { instr := .vld 28 5 0 .tile false 0, onX := false, rs := [5], wv := [28], himm := true, hpri := true } ∧
    MaySend s (globalAddr s [5] 0 256).toNat 256 4 0 (vectorPlaces (globalAddr s [5] 0 256).toNat) ∧
    Ready s { instr := .vst 30 6 0 .pod true 0, onX := false, rs := [6], rv := [30], himm := true, hpri := true } ∧
    MaySend s (globalAddr s [6] 0 256).toNat 256 4 0 (vectorPlaces (globalAddr s [6] 0 256).toNat) :=
  ⟨ready_of_readyNow (by decide), maySend_of (by decide), maySend_of (by decide), ready_of_readyNow (by decide), maySend_of (by decide),
   ready_of_readyNow (by decide), maySend_of (by decide), ready_of_readyNow (by decide), maySend_of (by decide)⟩
/-- An address past the space, a misaligned one; an access of a class that a FENCE holds; a rectangle with a reserved bit. -/
theorem test_met_GlobalAccessesTrapOrWait : let s := onTile 7 .a globalTile;
    let u : State := { s with
      fences := [{ tile := 7, mask := 1, before := 5 }], txns := [{ sentTxn s (.ld 0 8 false) 1 0 3 0 .none with id := 4 }] };
    Ready s { instr := .ld 1 7 0 .die .w64 false false 0, onX := false, rs := [7], ws := [1], himm := true, hpri := true } ∧
    2 ^ 56 ≤ (globalAddr s [7] 0 8).toNat ∧ (globalAddr s [5] 1 1).toNat % 8 ≠ 0 ∧
    Ready u { instr := .ld 1 5 0 .die .w64 false false 0, onX := false, rs := [5], ws := [1], himm := true, hpri := true } ∧
    globalCause u (globalAddr u [5] 0 8).toNat 8 8 = none ∧ fenced u u.focus.1 0 = true ∧
    Ready s { instr := .fence 7 0xFF .rect, onX := false, rs := [7] } ∧ rectBad s.focus.1 (s.src [7] 0) = true :=
  ⟨ready_of_readyNow (by decide), by decide, by decide, ready_of_readyNow (by decide), by decide, by decide, ready_of_readyNow (by decide), by decide⟩
theorem test_met_AtomicsSetOut : let s := onTile 7 .a globalTile;
    let u : State := { s with llc := [{ ctx := 4, line := 0x12300, pa := 0, way := 0, dirty := false, data := [], poison := false }] };
    Ready s { instr := .amo 1 5 2 .fadd true 1 .rect, onX := false, rs := [5, 2], ws := [1], hmod := 3, hpri := true } ∧
    MaySend s (s.src [5, 2] 0).toNat 8 8 1 1 ∧
    Ready s { instr := .cas 1 5 2 false 1 .module, onX := false, rs := [5, 2, 1], ws := [1], hmod := 3, hpri := true } ∧
    MaySend s (s.src [5, 2, 1] 0).toNat 4 4 1 1 ∧
    Ready s { instr := .red 5 2 .maxu true 0 .tile, onX := false, rs := [5, 2], hmod := 2, hpri := true } ∧ performedAt .tile < 2 ∧
    MaySend s (s.src [5, 2] 0).toNat 8 8 0 1 ∧
    Ready u { instr := .red 5 2 .add false 0 .die, onX := false, rs := [5, 2], hmod := 2, hpri := true } ∧ MaySend u (u.src [5, 2] 0).toNat 4 4 0 1 ∧
    MayGather u (u.src [5, 2] 0).toNat 0 .die false 4 ((u.src [5, 2] 1).toNat % 2 ^ 32) .add :=
  ⟨ready_of_readyNow (by decide), maySend_of (by decide), ready_of_readyNow (by decide), maySend_of (by decide), ready_of_readyNow (by decide),
   by decide, maySend_of (by decide), ready_of_readyNow (by decide), maySend_of (by decide),
   by decide, rfl, by decide, by decide, by decide, by decide, by decide⟩
theorem test_met_FencePromoteHashComplete : let s := onTile 7 .a globalTile;
    Ready s { instr := .fence 0 0xFF .die, onX := false, rs := if Scope.die = .rect then [0] else [] } ∧
    Ready (onTile 0 .a strand) { instr := .fence 1 1 .rect, onX := false, rs := if Scope.rect = .rect then [1] else [] } ∧
    rectBad 0 0 = false ∧ s.cur.gather = [] ∧ s.fences = [] ∧
    Ready s { instr := .promote 5 .module, onX := false, rs := [5], hpri := true } ∧ globalCause s (s.src [5] 0).toNat 1 1 = none ∧
    placesFree s s.focus.1 1 = true ∧ globalCause s (s.src [6] 0).toNat 1 1 = none ∧ (s.src [6] 0).toNat / 2 ^ 48 = 0xFF ∧
    (s.src [6] 0).toNat / 2 ^ 20 % 2 ^ 8 = 0 ∧
    Ready s { instr := .hash 10 1 2 3, onX := false, rs := [1, 2, 3], ws := [10, 11] } :=
  ⟨ready_of_readyNow (by decide), ready_of_readyNow (by decide), by decide, by decide, by decide, ready_of_readyNow (by decide), by decide, by decide,
   by decide, by decide, by decide, ready_of_readyNow (by decide)⟩

/-- A line of context 4 and an access to it under way. -/
def lineState (k : TxnKind) (d : Dest) (r : Resp) : State :=
  let s := onTile 7 .a globalTile
  { s with
    llc := [{ ctx := 4, line := 0x12300, pa := 0, way := 0, dirty := false, data := List.replicate 128 7, poison := false }]
    txns := [{ sentTxn s k 1 2 3 5 d with id := 4, resp := r }] }

theorem atHome_of {s : State} {id : Nat} {x : Txn} (h : (s.txn? id == some x && x.resp == .pending && !(s.tile x.tile).frozen && !x.mustWait s &&
    !x.rel && s.tiles.all (fun p => p.2.gather == [])) = true) : AtHome s id x := by
  simp only [Bool.and_eq_true, beq_iff_eq, Bool.not_eq_true', List.all_eq_true] at h
  exact ⟨h.1.1.1.1.1, h.1.1.1.1.2, h.1.1.1.2, h.1.1.2, h.1.2, h.2⟩
theorem serves_of {s : State} {ctx va n : Nat} {l : Line} (h : (s.line? ctx (va / 128 * 128) == some l && decide (va % 128 + n ≤ 128) &&
    l.data.length == 128 && !s.dieDown (homeSlice s va / 64) && !l.poison && s.pin? ctx (va / 128 * 128) == none && s.lehr.st == .idle) = true) :
    Serves s ctx va n l := by
  simp only [Bool.and_eq_true, beq_iff_eq, Bool.not_eq_true', decide_eq_true_eq] at h
  exact ⟨h.1.1.1.1.1.1, h.1.1.1.1.1.2, h.1.1.1.1.2, h.1.1.1.2, h.1.1.2, h.1.2, h.2⟩

/-- The line and the access of `lineState`. -/
def lineOf (s : State) : Line := (s.llc.head?).getD { ctx := 0, line := 0, pa := 0, way := 0, dirty := false, data := [], poison := true }
def accessOf (s : State) (k : TxnKind) (d : Dest) (r : Resp) : Txn := { sentTxn s k 1 2 3 5 d with id := 4, resp := r }

/-- The last bytes of a line for each kind of access. -/
theorem test_met_HomeServesALine : ∀ k ∈ ([.ld 0x12378 8 true, .st 0x1237F 1 0x80, .amo 0x1237C 4 .max 9 true, .cas 0x12378 8 0 1] : List TxnKind),
    AtHome (lineState k (.sreg 4) .pending) 4 (accessOf (onTile 7 .a globalTile) k (.sreg 4) .pending) := by
  intro k hk
  simp only [List.mem_cons, List.not_mem_nil, or_false] at hk
  obtain rfl | rfl | rfl | rfl := hk <;> exact atHome_of (by decide)
theorem test_met_HomeServesALine_line : let s := lineState (.ld 0x12378 8 true) (.sreg 4) .pending;
    Serves s 4 0x12378 8 (lineOf s) ∧ Serves s 4 0x1237F 1 (lineOf s) ∧ Serves s 4 0x1237C 4 (lineOf s) :=
  ⟨serves_of (by decide +kernel), serves_of (by decide +kernel), serves_of (by decide +kernel)⟩
theorem test_met_AnswersArrive : ∀ r ∈ ([.data 9, .retry, .gone, .pageFault 0x12300, .error 0x20, .poisoned] : List Resp),
    let k : TxnKind := .ld 0x12300 8 false;
    (lineState k (.sreg 23) r).txn? 4 = some (accessOf (onTile 7 .a globalTile) k (.sreg 23) r) ∧
    ((lineState k (.sreg 23) r).tile 7).frozen = false ∧ ((lineState k (.sreg 23) r).tile 7).phase = .running := by decide +kernel
/-- A promotion request to a tile with nothing gathered, and a gathered line of one operand. -/
theorem test_met_AnswersArrive_others : let k : TxnKind := .promote 0x12300 (some (7, 4));
    let g : GatherLine := { ctx := 4, line := 0x12300, op := .add, size := 4, mode := 0, ops := [(4, 1)], seed := 0, scope := 3, cls := 0, ipc := 0, user := true };
    (lineState k .none .pending).txn? 4 = some (accessOf (onTile 7 .a globalTile) k .none .pending) ∧
    canReleaseAt (lineState k .none .pending) 7 4 = true ∧
    ((onTile 7 .a { globalTile with gather := [g] }).tile 7).gather[0]? = some g := by decide

/-- A strand that claims: the digest in s2 and s3, the name word in s4, and a status word of an entry of die 0 in s5. -/
def claimTile : Tile := { strand with ctx := 4, fa := withRegs strand.fa [(2, 0x1234), (4, 0x0000_0003_0001_0007), (5, 0), (8, 2), (9, 0x8000_0000_0000_0000), (10, 1)] }
def claimState : State := onTile 7 .a claimTile
/-- The entry of the lowest way of the set of its name. -/
def claimKey0 : Nat := ((claimSet claimState (claimNameOf claimState [2, 3, 4])).head?).getD 0
/-- That entry holds the name, in a state. -/
def claimHeld (st : ClaimSt) : State :=
  claimState.setClaim claimKey0 { Claim.reset with dg := 0x1234, fid := 7, ver := 1, ctx := 4, st := st, mtile := 7, mslot := 0, tkt := 5, handle := 0x77, pins := 1 }

theorem test_met_ClaimCompletes : let s := claimState;
    let fm : Form := { instr := .claim 6 2 4, onX := false, rs := [2, 3, 4], ws := [6, 7], hpri := true };
    let n := claimNameOf s [2, 3, 4];
    Ready s fm ∧ bits (s.src [2, 3, 4] 2) 63 60 = 0 ∧ bits (s.src [2, 3, 4] 2) 43 41 = 0 ∧ placesFree s s.focus.1 1 = true ∧
    s.dieDown (claimHome s n).1 = false ∧ claimFind s n (claimSet s n) = none ∧
    (claimSet s n).find? (fun k => (s.claim k).st == .free) = some claimKey0 ∧ s.cur.freeCslot = some 0 ∧
    Ready s { fm with instr := .claim 6 2 9, rs := [2, 3, 9] } ∧ bits (s.src [2, 3, 9] 2) 63 60 ≠ 0 :=
  ⟨ready_of_readyNow (by decide), by decide, by decide, by decide, by decide +kernel, by decide +kernel, by decide +kernel, by decide,
   ready_of_readyNow (by decide), by decide⟩
theorem test_met_ClaimCompletes_held :
    let fm : Form := { instr := .claim 6 2 4, onX := false, rs := [2, 3, 4], ws := [6, 7], hpri := true };
    let r := claimHeld .ready; let m := claimHeld .making;
    Ready r fm ∧ Ready m fm ∧ claimFind r (claimNameOf r [2, 3, 4]) (claimSet r (claimNameOf r [2, 3, 4])) = some claimKey0 ∧
    (r.claim claimKey0).st = .ready ∧
    claimFind m (claimNameOf m [2, 3, 4]) (claimSet m (claimNameOf m [2, 3, 4])) = some claimKey0 ∧ (m.claim claimKey0).st = .making ∧
    m.cur.freeCslot = some 0 ∧ (m.claim claimKey0).wl.length < 15 :=
  ⟨ready_of_readyNow (by decide +kernel), ready_of_readyNow (by decide +kernel), by decide +kernel, by decide +kernel, by decide +kernel,
   by decide +kernel, by decide, by decide +kernel⟩

/-- A status word of entry 0 of die 0 in s5 (code 0) and s8 (code 2); its make is the tile's slot 3, with ticket 5. -/
def makeState (wl : List Waiter) (tkt : BitVec 32) : State :=
  let s := onTile 7 .a { claimTile with
    cslots := claimTile.cslots.set 3 (some { make := true, die := 0, key := 0, tkt := tkt, chan := 1, recd := 0x100, lease := 0 })
    fa := withRegs claimTile.fa [(5, tkt.setWidth 64 <<< 32)] }
  s.setClaim 0 { Claim.reset with ctx := 4, st := .making, mtile := 7, mslot := 3, tkt := tkt, wl := wl }
def readyState (pins : Nat) : State := claimState.setClaim 0 { Claim.reset with ctx := 4, st := .ready, tkt := 5, handle := 0x77, pins := pins }

theorem test_met_ClaimEntriesChangeHands_make : let s := makeState [] 5; let w := makeState [{ pin := true, tile := 9, slot := 2, lease := 0 }] 5;
    let o := makeState [] 6;
    Ready s (claimForm (.cfulfil 1 5 2) 1 [5, 2]) ∧ namesEntry (s.src [5, 2] 0) 0 ∧ placesFree s s.focus.1 1 = true ∧ canRelease s s.focus.1 = true ∧
    makeMatches s s.focus.1 (s.src [5, 2] 0) = true ∧ makeMatches w w.focus.1 (w.src [5, 2] 0) = true ∧
    makeMatches (o.setClaim 0 Claim.reset) 7 (o.src [5, 2] 0) = false ∧
    ¬ namesEntry (s.src [8, 2] 0) 0 ∧ Ready s (claimForm (.cabandon 1 5) 1 [5]) ∧ Ready w (claimForm (.cabandon 1 5) 1 [5]) ∧
    (s.claim 0).wl = [] ∧ (s.claim 0).tkt ≠ 0 ∧ (w.claim 0).wl = [{ pin := true, tile := 9, slot := 2, lease := 0 }] :=
  ⟨ready_of_readyNow (by decide), by unfold namesEntry; decide, by decide, by decide, by decide +kernel, by decide +kernel, by decide +kernel,
   by unfold namesEntry; decide, ready_of_readyNow (by decide), ready_of_readyNow (by decide), by decide, by decide, by decide⟩
theorem test_met_ClaimEntriesChangeHands_pins :
    Ready (readyState 1) (claimForm (.cpin 1 8 2) 1 [8, 2]) ∧ namesEntry ((readyState 1).src [8, 2] 0) 2 ∧
    readyMatches (readyState 1) 7 ((readyState 1).src [8, 2] 0) 0x77 = true ∧
    readyMatches (readyState 1) 7 ((readyState 1).src [8, 2] 0) 0x76 = false ∧ (readyState 65535).claim 0 ≠ Claim.reset ∧
    ((readyState 1).claim 0).pins < 65535 ∧ 65535 ≤ ((readyState 65535).claim 0).pins ∧ ((readyState 0).claim 0).pins = 0 ∧
    Ready (readyState 0) (claimForm (.cunpin 1 8 2) 1 [8, 2]) ∧ ¬ namesEntry ((readyState 1).src [5, 2] 0) 2 :=
  ⟨ready_of_readyNow (by decide), by unfold namesEntry; decide, by decide +kernel, by decide +kernel, by decide +kernel, by decide, by decide,
   by decide, ready_of_readyNow (by decide), by unfold namesEntry; decide⟩
/-- A result on its way to a slot whose channel is open, and a lease that has passed. -/
theorem test_met_ClaimEntriesChangeHands_events :
    let c : ClaimSlot := { make := false, die := 0, key := 0, tkt := 5, chan := 15, recd := 0x100, lease := 0 };
    let T := { claimTile with
      inst := 0, tidx := 0, cslots := claimTile.cslots.set 3 (some c)
      chans := claimTile.chans.set 15 { xe := 0, ae := 0, val := true, cpri := 0, blk := false, payloads := [] } };
    let x : Txn := { sentTxn (onTile 7 .a T) (.claimResult 3 0 0) 0 0 3 0 .none with id := 4 };
    let s : State := { onTile 7 .a T with txns := [x] };
    s.txn? 4 = some x ∧ (s.tile x.tile).phase ≠ .idle ∧ (s.tile x.tile).inst = x.inst ∧ (s.tile x.tile).tidx = x.tidx ∧
    (s.tile x.tile).cslot 3 = some c ∧ (s.tile x.tile).frozen = false ∧ (s.tile x.tile).sbClash [(c.recd * 16, 16)] true = false ∧
    ((s.tile x.tile).chan c.chan).val = true ∧ ((s.tile x.tile).chan c.chan).payloads.length < 4 ∧ c.chan < 16 := by decide
theorem test_met_ClaimEntriesChangeHands_lease :
    let s : State := { claimState with cyc := 0x100000000000 }.setClaim 0 { Claim.reset with
      st := .making, lease := 1, wl := [{ pin := true, tile := 9, slot := 2, lease := 0 }] };
    leasePassed s (s.claim 0) = true ∧ (s.claim 0).wl = [{ pin := true, tile := 9, slot := 2, lease := 0 }] := by decide +kernel

/-- A task of two strands on tiles 0 and 1: strand 0 produces pipe 2 for the gang's record 1, which consumes it, and consumes pipe 3. -/
def noOp : OpDesc := { mode := 0, sen := false, sl := 0, len := 0, dst := 0, va := 0 }
def pairRec : Rec := {
  ctx := 0, inst := 3, tidx := 0, gang := 1, st := .running, pri := 0, chk := false, kind := 0, ev := false, dep := 0, opend := 0, tiles := 2
  aent := 0, xent := 0, nsx := 0, sxva := 0, succ := [], op0 := { noOp with mode := 3, va := 0x2801 }
  op1 := { noOp with mode := 3, len := 4, dst := 0x4000, va := 0x3000 }, op2 := noOp, seed := 0, arg1 := 0, arg0 := 0, slen := 0, sva := 0
  cm1 := 0, cva := 0, left := 2, place := [0, 1], crect := 0, aborts := 0, parkKind := 0, started := 0, joined := 0, spill := none, reserve := false }
def pairTile (rank : Word) (l : List (Nat × Word)) : Tile := { strand with
  tiles := 2, inst := 3, rank := rank, fa := withRegs strand.fa l
  chans := strand.chans.set 2 { xe := 0, ae := 0, val := true, cpri := 3, blk := false, payloads := [{ data := 8 }] }
  pipes := [(3, { head := 0, filled := 512, held := 0 })] }
def pairState (l : List (Nat × Word)) : State :=
  { State.reset with
    focus := (0, .a), tiles := [(0, pairTile 0 l), (1, pairTile 1 []), (2, pairTile 0 [])]
    die0 := { State.reset.die0 with recs := [pairRec,
      { pairRec with tidx := 1, place := [2, 3], op0 := { noOp with mode := 3, len := 4, dst := 0x8000, va := 0x2000 } }] } }

/-- Words that name rank 1 and rank 0 of the own task, and one that names rank 2, which it has not. -/
def memberRegs : List (Nat × Word) := [(2, 0x12), (3, 0x02), (4, 0x22), (5, 0x10), (6, 0x100), (7, 0x1000), (8, 0)]

theorem test_met_ParallelWordsComplete_members : let s := pairState memberRegs;
    Ready s { instr := .signal 2 1, onX := false, rs := [2, 1] } ∧ memberBad s (s.src [2, 1] 0) = false ∧ signalsOut s s.focus.1 < 4 ∧
    Ready s { instr := .signal 4 1, onX := false, rs := [4, 1] } ∧ memberBad s (s.src [4, 1] 0) = true ∧
    Ready s { instr := .block 3, onX := false, rs := [3] } ∧ memberBad s (s.src [3] 0) = false ∧ peerOf s (s.src [3] 0) = ownPeer ∧
    Ready s { instr := .unblock 2, onX := false, rs := [2] } ∧ peerOf s (s.src [2] 0) ≠ ownPeer :=
  ⟨ready_of_readyNow (by decide), by decide, by decide, ready_of_readyNow (by decide), by decide, ready_of_readyNow (by decide), by decide, by decide,
   ready_of_readyNow (by decide), by decide⟩
theorem test_met_ParallelWordsComplete_channels : let s := pairState memberRegs; let o := hintState .a { hmod := some 1 } [];
    Ready s { instr := .waitch 1, onX := false, ws := [1], hmod := 1 } ∧ TakesChannel s.cur 2 ∧ (s.cur.chan 2).payloads = [{ data := 8 }] ∧
    Ready o { instr := .waitch 1, onX := false, ws := [1], hmod := 1 } ∧ (∀ c : Fin 16, (o.cur.chan c).eligible = false) ∧
    o.hints.modBit 0 = true ∧ Ready (regState .a []) { instr := .waitch 1, onX := false, ws := [1], hmod := 1 } ∧
    (regState .a []).hints.modBit 0 = false :=
  ⟨ready_of_readyNow (by decide), ⟨by decide, by decide, fun k hk _ => by interval_cases k <;> first | (right; exact ⟨by decide, by decide⟩) | (left; decide)⟩,
   by decide, ready_of_readyNow (by decide), by decide, by decide, ready_of_readyNow (by decide), by decide⟩
theorem test_met_ParallelWordsComplete_push : let s := pairState memberRegs; let o := pairRec.op0;
    Ready s { instr := .fwpush 7 2 6, onX := false, rs := [6, 7] } ∧ pipeEndOf s 2 1 = some o ∧ (s.src [6, 7] 0).toNat = 256 ∧
    (s.src [6, 7] 1).toNat = 4096 ∧ (consumerEnd s 0 o 2).map (fun e => e.len) = some 4 ∧
    peerAt s 0 3 (o.va % 2 ^ 11 * 256 + s.cur.rank.toNat) = .at 2 ∧ s.cur.sbClash [(4096, 256)] false = false ∧
    Ready s { instr := .fwpush 7 2 8, onX := false, rs := [8, 7] } ∧ (s.src [8, 7] 0).toNat = 0 :=
  ⟨ready_of_readyNow (by decide), by decide, by decide, by decide, by decide, by decide, by decide, ready_of_readyNow (by decide), by decide⟩
theorem test_met_ParallelWordsComplete_pop : let s := pairState memberRegs; let c := pairRec.op1;
    ((s.tile 2).pipe 2).filled + ((s.tile 2).pipe 2).held + pushing s 0 2 = 0 ∧
    Ready s { instr := .fwpop 1 3 6, onX := false, rs := [6], ws := [1] } ∧ pipeEndOf s 3 0 = some c ∧ c.len = 4 ∧ (s.cur.pipe 3).filled = 512 :=
  ⟨by decide, ready_of_readyNow (by decide), by decide, by decide, by decide⟩
theorem test_met_ParallelWordsComplete_others : let s := pairState memberRegs;
    let u : State := { s with tiles := [(0, { pairTile 0 memberRegs with arrivals := 1, seen := [(1, 1)] })] };
    Ready s { instr := .carrive 1, onX := false, ws := [1] } ∧ Ready s { instr := .cwait 8, onX := false, rs := [8] } ∧ s.cur.arrivals ≤ (s.src [8] 0).toNat ∧
    Ready u { instr := .cwait 8, onX := false, rs := [8] } ∧ (u.src [8] 0).toNat < u.cur.arrivals ∧
    (∀ r : Fin 2, (r : Nat) ≠ u.cur.rank.toNat → (u.src [8] 0).toNat < Sparse.get 0 u.cur.seen r) ∧
    Ready s { instr := .ldx 1 7 5 0 .w64, onX := false, rs := [7, 5], ws := [1] } ∧ memberBad s (s.src [7, 5] 1) = false ∧
    (s.src [7, 5] 1).toNat % 16 = 0 ∧ (s.src [7, 5] 0).toNat % 8 = 0 ∧ fenced s s.focus.1 0 = false ∧ placesFree s s.focus.1 1 = true ∧
    Ready s { instr := .stx 1 7 5 0 .w16, onX := false, rs := [7, 5, 1] } :=
  ⟨ready_of_readyNow (by decide), ready_of_readyNow (by decide), by decide, ready_of_readyNow (by decide), by decide, by decide,
   ready_of_readyNow (by decide), by decide, by decide, by decide, by decide, by decide, ready_of_readyNow (by decide)⟩

/-- A message of strand 0 of the pair on its way, whose strand 1 runs on tile 1. -/
def messageOf (k : TxnKind) : Txn := { sentTxn (pairState []) k 0 0 1 0 .none with id := 4 }
def messageState (k : TxnKind) : State := { pairState [] with txns := [messageOf k] }
theorem inTurn_of {s : State} {id : Nat} {x : Txn}
    (h : (s.txn? id == some x && x.resp == .pending && !(s.tile x.tile).frozen && canReleaseAt s x.tile id) = true) : InTurn s id x := by
  simp only [Bool.and_eq_true, beq_iff_eq, Bool.not_eq_true'] at h
  exact ⟨h.1.1.1, h.1.1.2, h.1.2, h.2⟩
theorem test_met_MessagesArrive : ∀ k ∈ ([.signal 1 2 9, .block 1 15 true, .arrive 0, .stx 1 0xFFFFF 1 9, .ldx 1 0xFFFF8 8 false] : List TxnKind),
    InTurn (messageState k) 4 (messageOf k) := by
  intro k hk
  simp only [List.mem_cons, List.not_mem_nil, or_false] at hk
  obtain rfl | rfl | rfl | rfl | rfl := hk <;> exact inTurn_of (by decide)
theorem test_met_MessagesArrive_peer : let s := messageState (.signal 1 2 9); let x := messageOf (.signal 1 2 9);
    (s.tile x.tile).gather = [] ∧ (∀ y ∈ s.txns, y.tile = x.tile → ¬ y.id < 4) ∧ peerAt s x.tile x.inst 1 = .at 1 ∧ (s.tile 1).frozen = false ∧
    (s.tile 1).phase ≠ .idle ∧ ((s.tile 1).chan 2).val = true ∧ ((s.tile 1).chan 2).payloads.length < 4 ∧ ((s.tile 1).chan 3).val = false ∧
    s.rec? (dieOf x.tile) x.inst x.tidx = some pairRec ∧ pairRec.place.Nodup ∧ (messageOf (.stx 1 0xFFFFF 1 9)).mustWait s = false ∧
    peerAt s x.tile x.inst (1 * 256 + 1) = .notYet ∧ (messageOf (.ldx 257 0 8 false)).kind.peer = some (257, 0) :=
  ⟨by decide, by decide, by decide +kernel, by decide, by decide, by decide, by decide, by decide, by decide, by decide, by decide, by decide +kernel, by decide⟩

/-! The matrix unit. -/

/-- Rings 1 and 2 with slots of 256 bytes, one filled. -/
def ringTile : Tile :=
  (strand.setRing 1 { Ring.reset with base := 0, slot := 256, count := 2, head := 1, filled := 1 }).setRing 2
    { Ring.reset with base := 512, slot := 256, count := 2, head := 0, filled := 2 }
def matrixRegs : List (Nat × Word) :=
  [(2, 0x1000), (3, 0x200), (4, 0xFFF00), (5, 0x0000_0000_0010_0000), (6, 2), (7, 3), (8, 0x0000_3F00_0010_0100), (9, 1), (10, 0x100), (11, 0x1002)]
def matrixState (f : Front) (u : Nat) : State := onTile u f { ringTile with fa := withRegs strand.fa matrixRegs, fx := withRegs strand.fx matrixRegs }

theorem test_met_MatrixWordsComplete_mma : let s := matrixState .x 0;
    Ready s (matrixForm (.mma 1 2 3 8 8 .s8x8 .dense 0) (accOk s.focus.1 3) []) ∧ Ready s (matrixForm (.mmaArm 0 1 0 8 8 .s64x128 .dense 7) (accOk s.focus.1 0) []) ∧
    mmaSetupOk (s.cur.ring 1) (s.cur.ring 2) 8 8 .s8x8 .dense = true ∧ s.cur.mq.length < 8 ∧
    mmaSetupOk (s.cur.ring 0) (s.cur.ring 1) 8 8 .s64x128 .dense = false ∧
    Ready s (matrixForm (.mdis 3) (accOk s.focus.1 3) []) ∧ Ready (matrixState .x 3) (matrixForm (.mzero 1) (accOk 3 1) []) :=
  ⟨ready_of_readyNow (by decide), ready_of_readyNow (by decide), by decide, by decide, by decide, ready_of_readyNow (by decide), ready_of_readyNow (by decide)⟩
/-- A flush in bounds, one past the scratchpad, one misaligned; a load; a scale. -/
theorem test_met_MatrixWordsComplete_flush : let s := matrixState .x 0;
    Ready s (matrixForm (.mflush 2 3 0 3 true .s64x128) (regionOk s.focus.1 3 .s64x128) [2, 3]) ∧
    (s.src [2, 3] 0).toNat + 63 * (s.src [2, 3] 1).toNat + 512 ≤ 0x100000 ∧ (s.src [2, 3] 0).toNat % 4 = 0 ∧ (s.src [2, 3] 1).toNat % 4 = 0 ∧
    512 ≤ (s.src [2, 3] 1).toNat ∧ 0x100000 < (s.src [4, 3] 0).toNat + 63 * (s.src [4, 3] 1).toNat + 512 ∧ (s.src [11, 3] 0).toNat % 4 ≠ 0 ∧
    Ready s (matrixForm (.mload 2 3 2 0 .s8x8) (regionOk s.focus.1 0 .s8x8) [2, 3]) ∧
    Ready s (matrixForm (.msca 2 3 1 false false false 0 .s8x8) (regionOk s.focus.1 0 .s8x8 && accOk s.focus.1 1) [2, 3]) ∧
    scaleCause false (scaleVecs .s8x8 false false false 0x1000 0x200) = none :=
  ⟨ready_of_readyNow (by decide), by decide, by decide, by decide, by decide, by decide, by decide, ready_of_readyNow (by decide),
   ready_of_readyNow (by decide), by decide⟩
/-- A ring set up, one past the scratchpad; a push of what fits, and of too much; a count that is met, and one past the ring. -/
theorem test_met_MatrixWordsComplete_rings : let s := matrixState .a 0;
    Ready s { instr := .rset 7 8, onX := false, rs := [8] } ∧ bits (s.src [8] 0) 19 0 + (bits (s.src [8] 0) 45 40 + 1) * (bits (s.src [8] 0) 31 20 * 256) ≤ 0x100000 ∧
    bits (s.src [8] 0) 19 0 % 256 = 0 ∧ bits (s.src [8] 0) 31 20 ≠ 0 ∧ s.cur.ringInUse 7 = false ∧
    Ready s { instr := .rset 7 5, onX := false, rs := [5] } ∧
    Ready (regState .a [(5, 0x0000_3F00_FFF0_0000)]) { instr := .rset 0 5, onX := false, rs := [5] } ∧
    0x100000 < bits (0x0000_3F00_FFF0_0000 : Word) 19 0 + (bits (0x0000_3F00_FFF0_0000 : Word) 45 40 + 1) * (bits (0x0000_3F00_FFF0_0000 : Word) 31 20 * 256) ∧
    Ready s { instr := .rpush 1 9, onX := false, rs := [9] } ∧ (s.cur.ring 1).slot ≠ 0 ∧ (s.src [9] 0).toNat ≤ (s.cur.ring 1).count ∧
    (s.cur.ring 1).filled + (s.src [9] 0).toNat ≤ (s.cur.ring 1).count ∧ s.cur.sbClash ((s.cur.ring 1).published 1) false = false ∧
    (s.cur.ring 0).slot = 0 ∧ Ready s { instr := .rstat 3 1 9, rs := [9], ws := [3] } ∧
    (s.src [9] 0).toNat ≤ (s.cur.ring 1).count - (s.cur.ring 1).filled ∧ (s.cur.ring 1).count < (s.src [7] 0).toNat :=
  ⟨ready_of_readyNow (by decide), by decide, by decide, by decide, by decide, ready_of_readyNow (by decide), ready_of_readyNow (by decide), by decide,
   ready_of_readyNow (by decide), by decide, by decide, by decide, by decide, by decide, ready_of_readyNow (by decide), by decide, by decide⟩
/-- The descriptor of the example under R141: lm1 = 1, bounds 3 and 2, fbase 0x0008_0000, stride1 0x4000, fen = 1. -/
def chainDesc : List Host.Cell := [(0x100, 2), (0x101, 0x40), (0x110, 3), (0x112, 2), (0x11A, 8), (0x12D, 0x40)]
def chainState (T : Tile) : State := onTile 0 .x { T with spad := chainDesc, fx := withRegs strand.fx matrixRegs }
/-- Its chain, ready, done, and running with three fires retired; a descriptor of zeros is faulty. -/
theorem test_met_MatrixWordsComplete_chains : let s := chainState ringTile;
    let u := chainState (ringTile.setChain 1 { Chain.reset with st := .ready }); let v := chainState (ringTile.setChain 1 { Chain.reset with st := .running, done := 3 });
    Ready s (matrixForm (.cset 1 10) true [10]) ∧ (s.src [10] 0).toNat + 64 ≤ 0x100000 ∧ (s.src [10] 0).toNat % 64 = 0 ∧
    (s.cur.chain 1).st ≠ .running ∧ s.cur.sbClash [(0x100, 64)] false = false ∧
    chainFaulty { Chain.reset with desc := BitVec.ofNat 512 (s.cur.localNat 0x100 64), st := .ready } 1 false = false ∧
    chainFaulty { Chain.reset with st := .ready } 1 false = true ∧
    Ready u (matrixForm (.cgo 1) true []) ∧ (u.cur.chain 1).st = .ready ∧
    Ready u { instr := .cstat 3 1 9, onA := false, rs := [9], ws := [3] } ∧ (u.cur.chain 1).st ≠ .running ∧
    Ready v { instr := .cstat 3 1 7, onA := false, rs := [7], ws := [3] } ∧ bits (v.src [7] 0) 31 0 ≤ (v.cur.chain 1).done :=
  ⟨ready_of_readyNow (by decide), by decide, by decide, by decide, by decide, by decide +kernel, by decide +kernel, ready_of_readyNow (by decide), by decide,
   ready_of_readyNow (by decide), by decide, ready_of_readyNow (by decide), by decide⟩
/-- TSWAP of 256 bytes on the mirror axis, and in a cluster of columns 0 to 3. -/
theorem test_met_MatrixWordsComplete_tswap : let s := matrixState .x 0;
    let u := onTile 0 .x { strand with crect := 0x0003_0000, fx := withRegs strand.fx matrixRegs };
    Ready s { instr := .tswap 1 2 10, onA := false, rs := [2, 10], ws := [1] } ∧ Ready u { instr := .tswap 1 2 10, onA := false, rs := [2, 10], ws := [1] } ∧
    (s.src [2, 10] 0).toNat % 256 = 0 ∧ (s.src [2, 10] 1).toNat % 256 = 0 ∧ (s.src [2, 10] 0).toNat + (s.src [2, 10] 1).toNat ≤ 0x100000 ∧
    mirrorOf 0 s.cur.crect = 0 ∧ mirrorOf 0 u.cur.crect ≠ 0 :=
  ⟨ready_of_readyNow (by decide), ready_of_readyNow (by decide), by decide, by decide, by decide, by decide, by decide⟩

/-- A dense fire of signed bytes on 8 × 8, and the same armed. -/
def byteFire (arm : Bool) : MmaOp := {
  ringA := 1, ringB := 2, acc := 1, fa := 8, fb := 8, shape := .s8x8, sp := .dense, ovw := true, neg := false, tb := false, arm := arm, null := false
  mode := 0, seed := 0 }
def queueState (l : List MCmd) : State := onTile 0 .x { ringTile with mq := l }
theorem test_met_MatrixStepsComplete_commands : Moves (queueState []) 0 ∧ ((queueState [.mzero 3]).tile 0).mq = [.mzero 3] ∧
    ((queueState [.mzero 3]).tile 0).fslot 3 = none ∧ ((queueState [.mdis 0]).tile 0).mq = [.mdis 0] ∧
    ((queueState [.mma (byteFire true)]).tile 0).mq = [.mma (byteFire true)] ∧ ((queueState []).tile 0).fslot 1 = none ∧
    ((queueState [.mflush 1 .s8x8 0x1000 32 0 true 0 0 7]).tile 0).mq = [.mflush 1 .s8x8 0x1000 32 0 true 0 0 7] ∧
    ((queueState [.mflush 1 .s8x8 0x1000 32 0 true 0 0 7]).tile 0).sbMust 7 = false ∧ Memory.wf ((queueState []).tile 0).spad = true ∧
    ((shapeOf .s8x8).2 * (ckind 0).width + 7) / 8 ≤ 32 := by unfold Moves; decide
theorem test_met_MatrixStepsComplete_fire : let T := (queueState [.mma (byteFire false)]).tile 0;
    T.mq = [.mma (byteFire false)] ∧ (∀ g ∈ ([1, 2] : List Nat), (T.ring g).claimed = 0 ∧ 0 < (T.ring g).filled ∧ (T.ring g).head < (T.ring g).count) ∧
    mmaDepth (shapeOf .s8x8).1 (ckind 8).width .dense (T.ring 1).slot = some (32, 32) ∧
    32 * (shapeOf .s8x8).2 * (ckind 8).width ≤ 8 * (T.ring 2).slot ∧
    T.sbClash [(T.ring 1).range (T.ring 1).head, (T.ring 2).range (T.ring 2).head] false = false ∧ Sparse.wfFrom 0 0 (T.acc 1).elems = true := by decide
/-- A running chain without markers' flushes whose slot is armed, a performed fire of it, and two mirror tiles that swap. -/
def movingTile (f : Option Fire) : Tile :=
  let c : Chain := { Chain.reset with desc := BitVec.ofNat 512 (2 ^ 128 * 3), st := .running }
  { ringTile.setChain 3 c with
    slots := ringTile.slots.set 0 (some { op := { byteFire true with acc := 0 }, t := 0, stop := false }), fires := f.toList }
def doneFire : Fire := {
  id := 9, op := { byteFire true with acc := 0 }, chain := some 3, first := true, last := false, isEnd := true, seed := 0, slots := none, faddr := 0
  sbIn := 0, sbOut := 0, performed := true }
theorem test_met_MatrixStepsComplete_chain : let T := movingTile none; let c := T.chain 3;
    c.st = .running ∧ c.stopped = false ∧ c.mode = 0 ∧ c.done = c.t ∧ c.pen = false ∧ c.fen = false ∧
    T.fslot c.fslotNo = some { op := { byteFire true with acc := 0 }, t := 0, stop := false } ∧
    (movingTile (some doneFire)).fires.find? (fun g => g.id == 9) = some doneFire := by decide +kernel
theorem test_met_MatrixStepsComplete_swap :
    let T : Tile := { strand with tiles := 8, crect := 0x0003_0000, tswaps := [{ id := 1, addr := 0, len := 256 }] };
    let s : State := { State.reset with tiles := [(0, T), (3, T)] };
    3 = mirrorOf 0 (s.tile 0).crect ∧ mirrorOf 3 (s.tile 3).crect = 0 ∧ (s.tile 3).inst = (s.tile 0).inst ∧ (s.tile 3).tidx = (s.tile 0).tidx ∧
    Moves s 0 ∧ Moves s 3 ∧ (s.tile 0).tswaps = [{ id := 1, addr := 0, len := 256 }] ∧ (s.tile 3).tswaps = [{ id := 1, addr := 0, len := 256 }] ∧
    (s.tile 0).sbMust 1 = false ∧ (s.tile 3).sbMust 1 = false := by unfold Moves; decide

/-! Engines and fibre units. -/

/-- A descriptor at 0x100: 16 bytes from 0x2000 to 0x3000 in one run; with member 1 for a multicast. At 0x200 a barrier object that expects
two arrivals. -/
def runDesc : List Host.Cell := [(0x101, 0x20), (0x107, 0x80), (0x109, 0x30), (0x10F, 0x80), (0x110, 16), (0x118, 1), (0x124, 1)]
/-- The same run as FP32 elements for COPYC. -/
def convDesc : List Host.Cell := [(0x101, 0x20), (0x107, 0x80), (0x109, 0x30), (0x10F, 0x80), (0x110, 16), (0x118, 4), (0x124, 4)]
def castDesc : List Host.Cell := runDesc ++ [(0x138, 2)]
def barCell : List Host.Cell := [(0x202, 2)]
def engineRegs : List (Nat × Word) := [(2, 0x100), (3, 0x200), (4, 2), (5, 0x10000), (6, 0x1000), (7, 0x21), (8, 0x2D)]
def engineState (m : List Host.Cell) : State := onTile 0 .a { strand with tiles := 2, ctx := 4, spad := m, fa := withRegs strand.fa engineRegs }
def descAt (s : State) : BitVec 512 := BitVec.ofNat 512 (memNat s.cur.spad 0x100 64)

theorem test_met_EngineWordsComplete_copies : let s := engineState runDesc; let m := engineState castDesc; let c := engineState convDesc;
    (∀ k ∈ ([0, 1] : List Nat), Ready s (engineForm (copyInstr k 2 3) [2, 3] [] true)) ∧ Ready m (engineForm (copyInstr 2 2 3) [2, 3] [] true) ∧
    (s.src [2, 3] 0).toNat = 0x100 ∧ (s.src [2, 3] 1).toNat = 0x200 ∧ s.localHeld s.focus.2 0x100 64 false = false ∧
    descCheck s s.cur (descAt s) 0 = .ok none 16 ∧ descCheck c c.cur (descAt c) 1 = .ok none 64 ∧ descCheck m m.cur (descAt m) 2 = .ok none 16 ∧
    descCheck m m.cur (descAt m) 0 = .cause 0x0F := by
  refine ⟨?_, ready_of_readyNow (by decide), by decide, by decide, by decide, by decide +kernel, by decide +kernel, by decide +kernel, by decide +kernel⟩
  intro k hk
  simp only [List.mem_cons, List.not_mem_nil, or_false] at hk
  obtain rfl | rfl := hk <;> exact ready_of_readyNow (by decide)
/-- Barrier words at an object in bounds; BINIT with a count of 2, of 0 and of 2^16; BWAIT for the phase that stands and for the other. -/
theorem test_met_EngineWordsComplete_barriers : let s := engineState barCell;
    Ready s (engineForm (.binit 3 4) [3, 4] [] false) ∧ (s.src [3, 4] 0).toNat + 16 ≤ 0x100000 ∧ (s.src [3, 4] 0).toNat % 16 = 0 ∧
    0 < (s.src [3, 4] 1).toNat ∧ (s.src [3, 4] 1).toNat < 2 ^ 16 ∧ s.localHeld s.focus.2 0x200 16 true = false ∧ 2 ^ 16 ≤ (s.src [3, 5] 1).toNat ∧
    Ready s (engineForm (.bexpect 3 6) [3, 6] [] false) ∧ (s.src [3, 6] 1).toNat < 2 ^ 29 ∧ BarFits (s.cur.bar 0x200) 0x1000 0 ∧
    Ready s (engineForm (.barrive 3) [3] [] false) ∧ BarFits (s.cur.bar 0x200) 0 1 ∧
    Ready s (engineForm (.bwait 1 3 0) [3, 0] [1] false) ∧ barPhase (s.cur.bar 0x200) = (s.src [3, 0] 1).getLsbD 0 ∧
    Ready s (engineForm (.bwait 1 3 7) [3, 7] [1] false) ∧ barPhase (s.cur.bar 0x200) ≠ (s.src [3, 7] 1).getLsbD 0 ∧
    Ready s (engineForm (.btest 1 3) [3] [1] false) :=
  ⟨ready_of_readyNow (by decide), by decide, by decide, by decide, by decide, by decide, by decide, ready_of_readyNow (by decide), by decide,
   by unfold BarFits; decide +kernel, ready_of_readyNow (by decide), by unfold BarFits; decide +kernel, ready_of_readyNow (by decide), by decide +kernel,
   ready_of_readyNow (by decide), by decide +kernel, ready_of_readyNow (by decide)⟩

/-- A slot image: FP32 elements pass through PE 0; held by slot 2 of context 4 in a state. -/
def passImage : List Host.Cell := [(0x1003, 0x40), (0x1006, 0xC0), (0x1007, 7), (0x104C, 1), (0x104F, 0x1C)]
def slotState (h : Option Handle) : State :=
  let s := engineState passImage
  { s.modTile 0 (fun T => T.setHandle 1 h) with
    mslots := [(2, { owner := .ctx 4, image := BitVec.ofNat 3584 (memNat passImage 0x1000 448), loaded := true })] }
theorem test_met_EngineWordsComplete_slots : let s := engineState passImage; let u := slotState none; let v := slotState (some { slot := 2, write := false });
    Ready s (engineForm (.scfg 1 6 4) [6, 4] [1] false) ∧ scfgReleases s 4 = false ∧ bits (s.src [6, 4] 1) 63 5 = 0 ∧
    (s.src [6, 4] 1).getLsbD 4 = false ∧ (s.src [6, 4] 0).toNat + 448 ≤ 0x100000 ∧ (s.src [6, 4] 0).toNat % 64 = 0 ∧
    s.cur.sbClash [(0x1000, 448)] false = false ∧ (s.mslot 2).owner = .free ∧ slotOpen s 2 = false ∧
    slotFault (BitVec.ofNat 3584 (memNat s.cur.spad 0x1000 448)) = none ∧
    Ready u (engineForm (.sopen 1 7) [7] [1] false) ∧ bits (u.src [7] 0) 63 8 = 0 ∧ bits (u.src [7] 0) 2 0 = 1 ∧ u.cur.handle 1 = none ∧
    (u.mslot (bits (u.src [7] 0) 7 4)).loaded = true ∧ (u.mslot 2).owner = .ctx u.cur.ctx.toNat ∧
    SlotImage.write (u.mslot 2).image = (u.src [7] 0).getLsbD 3 ∧ Ready v (engineForm (.sopen 1 7) [7] [1] false) ∧
    v.cur.handle 1 = some { slot := 2, write := false } ∧ Ready v (engineForm (.sclose 4) [4] [] false) ∧ bits (v.src [4] 0) 63 3 = 0 :=
  ⟨ready_of_readyNow (by decide), by decide, by decide, by decide, by decide, by decide, by decide, by decide, by decide, by decide +kernel,
   ready_of_readyNow (by decide +kernel), by decide +kernel, by decide +kernel, by decide +kernel, by decide +kernel, by decide +kernel,
   by decide +kernel, ready_of_readyNow (by decide +kernel), by decide +kernel, ready_of_readyNow (by decide +kernel), by decide +kernel⟩
/-- A completion of 16 bytes at an object with 16 pending, and the copy of the run above at its turn. -/
theorem test_met_EngineWordsComplete_events :
    let s := engineState runDesc;
    let x : Txn := { sentTxn s (.complete 0x200 16 1 false) 0 0 0 0 .none with id := 4 };
    let y : Txn := { sentTxn s (.copy (descAt s) false 0x200 4 none) 0 0 0 0 .none with id := 4 };
    ({ s with txns := [x] } : State).txn? 4 = some x ∧ (s.tile 0).frozen = false ∧ (s.tile 0).phase ≠ .idle ∧ Memory.wf (s.tile 0).spad = true ∧
    BarFits (BitVec.ofNat 128 (2 ^ 16 + 16 * 2 ^ 90)) (-16) 1 ∧ ({ s with txns := [y] } : State).txn? 4 = some y ∧
    Txn.mustWait { s with txns := [y] } y = false ∧ (s.tile 0).sbMust 4 = false ∧ fencedAt { s with txns := [y] } y = false ∧
    LocalRun (descAt s) 0x2000 0x3000 16 1 := by unfold BarFits LocalRun; decide +kernel

/-- An entry of a fibre image (R299). -/
def unitEntry (in0 in1 op p0 p1 p2 n : Nat) : BitVec 128 :=
  BitVec.ofNat 128 (2 ^ 127 + in0 * 2 ^ 120 + in1 * 2 ^ 113 + op * 2 ^ 109 + p0 * 2 ^ 84 + p1 * 2 ^ 64 + p2 * 2 ^ 44 + n * 2 ^ 24)
/-- Two root scanners over 4 dense elements, an intersecter of them, a reader, a value ALU and a writer. -/
def fibreCfg : List (BitVec 128) := (List.range 34).map (fun u =>
  if u < 2 then unitEntry 0x7E 0x7F 1 0 0 0 4 else if u = 8 then unitEntry 0 2 0 0 0 0 0 else if u = 22 then unitEntry 16 0x7F 0 0x4000 0 0 4
  else if u = 23 then unitEntry 17 0x7F 0 0x4000 0 0 4
  else if u = 26 then unitEntry 44 46 0 0 0 0 0 else if u = 30 then unitEntry 52 0x7F 0 0x5000 0x6000 0x7000 4 else 0)
/-- A unit whose inputs hold an element each, coordinate 3. -/
def fedUnit (a b : Token) : UnitState :=
  { unitStart 0 with in0 := { InPort.reset with q := [tokCoord 3, a] }, in1 := { InPort.reset with q := [tokCoord 3, b] }, go := true }
def fibreTile (st : FibreSt) : Tile := { strand with
  ctx := 4, spad := (List.range 34).foldl (fun m u => memPutNat m (0x8000 + 16 * u) 16 (fibreCfg.getD u 0).toNat) []
  fa := withRegs strand.fa [(2, 0x8000), (3, 0x200)]
  fibre := { strand.fibre with
    cfg := fibreCfg, st := st
    units := (List.range 34).map (fun u => if u < 26 then fedUnit (tokRef 1) (tokRef 2) else fedUnit (tokValue 5) (tokValue 6)) } }
theorem test_met_FibreUnitsRun_words : let s := onTile 3 .a (fibreTile .idle); let u := onTile 3 .a { strand with fa := withRegs strand.fa [(3, 0x200)] };
    Ready s (fibreForm s (.fcfg 1 2) [2] [1] false) ∧ (s.src [2] 0).toNat + 544 ≤ 0x100000 ∧ (s.src [2] 0).toNat % 64 = 0 ∧
    s.localHeld s.focus.2 0x8000 544 false = false ∧ s.cur.fibre.st ≠ .running ∧ fCheck (fibreImage s.cur 0x8000) = (0, 0) ∧
    Ready s (fibreForm s (.frun 3) [3] [] true) ∧ (s.src [3] 0).toNat + 16 ≤ 0x100000 ∧ (s.src [3] 0).toNat % 16 = 0 ∧ s.cur.fibre.cfg ≠ [] ∧
    (∀ k ∈ fUnits s.cur.fibre.cfg, fKind k ≠ .decoupler) ∧ Ready u (fibreForm u (.frun 3) [3] [] true) ∧ u.cur.fibre.cfg = [] ∧
    Ready s (fibreForm s (.fstat 1) [] [1] false) :=
  ⟨ready_of_readyNow (by decide +kernel), by decide +kernel, by decide +kernel, by decide +kernel, by decide, by decide +kernel,
   ready_of_readyNow (by decide +kernel), by decide +kernel, by decide +kernel, by decide +kernel, by decide +kernel, ready_of_readyNow (by decide), by decide,
   ready_of_readyNow (by decide +kernel)⟩
theorem unitReady_of {T : Tile} {u : Nat} {k : FKind} {o0 o1 : List Item} (h : (fKind u == k && FEntry.en (fEntry T.fibre.cfg u) &&
    !(T.fibre.unit u).fin && T.fibre.room (2 * u) o0 && T.fibre.room (2 * u + 1) o1) = true) : UnitReady T u k o0 o1 := by
  simp only [Bool.and_eq_true, beq_iff_eq, Bool.not_eq_true'] at h
  exact ⟨h.1.1.1.1, h.1.1.1.2, h.1.1.2, h.1.2, h.2⟩
theorem test_met_FibreUnitsRun_units : let T := fibreTile .running; let s := onTile 3 .a T;
    fibreMoves s 3 = true ∧ T.fibre.written = false ∧ UnitReady T 22 .reader [.elem 3 (memNat T.spad (0x4000 + 4) 4) true] [] ∧
    headOf T 22 0 = .item (.elem 3 1 false) 0 ∧ UnitReady T 8 .intersecter [.elem 3 1 false] [.elem 3 2 false] ∧
    headOf T 8 0 = .item (.elem 3 1 false) 0 ∧ headOf T 8 1 = .item (.elem 3 2 false) 0 ∧ UnitReady T 26 .alu [.elem 3 11 true] [] ∧
    FEntry.in1 (fEntry T.fibre.cfg 26) ≠ fNone ∧ headOf T 26 0 = .item (.elem 3 5 true) 0 ∧ headOf T 26 1 = .item (.elem 3 6 true) 0 ∧
    UnitReady T 30 .writer [] [] ∧ (T.fibre.unit 30).go = true ∧ (T.fibre.unit 30).elems < FEntry.n (fEntry T.fibre.cfg 30) ∧
    headOf T 30 0 = .item (.elem 3 5 true) 0 :=
  ⟨by decide +kernel, by decide +kernel, unitReady_of (by decide +kernel), by decide +kernel, unitReady_of (by decide +kernel), by decide +kernel,
   by decide +kernel, unitReady_of (by decide +kernel), by decide +kernel, by decide +kernel, by decide +kernel, unitReady_of (by decide +kernel),
   by decide +kernel, by decide +kernel, by decide +kernel⟩
/-- A token with a nonzero aux where a coordinate stands. -/
theorem test_met_FibreUnitsRun_fault : let T := fibreTile .running;
    let B := { T with tvec := 0x1_0100_0080, fibre := { T.fibre with units := T.fibre.units.set 22 { unitStart 0 with in0 := { InPort.reset with q := [tok 0 1 5] } } } };
    B.fibreFaultAt = some (1, 22, 0) ∧ B.slv = false ∧ B.tvec.getLsbD 32 = true ∧ fibreMoves (onTile 3 .a B) 3 = true := by decide +kernel

/-! Tasks and graphs. -/

/-- A line of context 4 that a slice holds: translation is not asked for it. -/
def lineWith (va n : Nat) : Line := { ctx := 4, line := va, pa := 0, way := 0, dirty := false, data := leBytes 128 n, poison := false }
/-- The template at 0x10000: one record that needs one tile; a packet for it, with watchdog 5, at 0x20000 and in the scratchpad at 0x1000. -/
def packetNat : Nat := 0x10000 + 5 * 2 ^ 112
def packetCells : List Host.Cell := [(0x1002, 1), (0x100E, 5)]
def graphRegs : List (Nat × Word) :=
  [(2, 0x1000), (3, 0x1008), (4, 0xFFFFF), (5, 3), (6, 2 ^ 28), (7, 4), (8, 2 ^ 27), (9, 0x100), (10, 0x10000), (11, 0x20003), (12, 2 ^ 16 + 3), (13, 1)]
def partWord : BitVec 128 := BitVec.ofNat 128 (3 * 2 ^ 88)
def graphState (C : Ctx) : State :=
  { onTile 0 .a { strand with ctx := 4, spad := packetCells, fa := withRegs strand.fa graphRegs } with
    llc := [lineWith 0x10000 (2 ^ 924), lineWith 0x20000 packetNat, lineWith 0x20080 0, lineWith 0x30000 0x8001_8002]
    ctxs := [(4, C)], vfs := [(0, { Vf.reset with part := partWord })] }
def liveCtx : Ctx := { Ctx.reset with live := true }

def intakeGives : State × Intake → Option (Nat × Bool) | (_, .done i b) => some (i, b) | _ => none
theorem done_of {a : State × Intake} {i : Nat} {b : Bool} (h : intakeGives a = some (i, b)) : ∃ u, a = (u, .done i b) := by
  obtain ⟨u, v⟩ := a
  cases v <;> simp only [intakeGives, reduceCtorEq, Option.some.injEq, Prod.mk.injEq] at h
  exact ⟨u, by rw [h.1, h.2]⟩
def readGives : State × VRead → Option (List Byte) | (_, .data b) => some b | _ => none
theorem data_of {a : State × VRead} {b : List Byte} (h : readGives a = some b) : ∃ u, a = (u, .data b) := by
  obtain ⟨u, v⟩ := a
  cases v <;> simp only [readGives, reduceCtorEq, Option.some.injEq] at h
  exact ⟨u, by rw [h]⟩

theorem test_met_TaskWordsComplete_inst : let s := graphState liveCtx; let fm := graphForm (.instantiate 1 2) [2] 1;
    Ready s fm ∧ (s.src [2] 0).toNat = 0x1000 ∧ s.cur.sbClash [(0x1000, 256)] false = false ∧ canRelease s s.focus.1 = true ∧
    (∃ u, intake (instSent s fm 1) 0 4 (memBytes s.cur.spad 0x1000 256) (some s.nextId) none = (u, .done 0 false)) ∧
    Ready s (graphForm (.instantiate 1 3) [3] 1) ∧ (s.src [3] 0).toNat % 16 ≠ 0 ∧ Ready s (graphForm (.instantiate 1 4) [4] 1) ∧
    0x100000 < (s.src [4] 0).toNat + 256 :=
  ⟨ready_of_readyNow (by decide +kernel), by decide, by decide, by decide, done_of (by decide +kernel), ready_of_readyNow (by decide +kernel), by decide,
   ready_of_readyNow (by decide +kernel), by decide⟩
/-- A packet with 17 rename entries is refused with err 1. -/
theorem test_met_TaskWordsComplete_refused : let s := { graphState liveCtx with
      tiles := [(0, { (graphState liveCtx).cur with spad := packetCells ++ [(0x100C, 0x88)] })] };
    Ready s (graphForm (.instantiate 1 2) [2] 1) ∧ (packetOf (memBytes s.cur.spad 0x1000 256)).nren = 17 ∧
    (packetOf (memBytes s.cur.spad 0x1000 256)).span = false ∧ s.txns = [] :=
  ⟨ready_of_readyNow (by decide +kernel), by decide +kernel, by decide +kernel, rfl⟩

/-- Graph 3 of context 4 with three records, and graph 4 of context 9. -/
def graph3 : Graph :=
  { ctx := 4, inst := 3, phase := 0, wdog := 5, left := 3, nrec := 3, span := false, gate := .opened, reply := none, src := none, spl := false, prog := 0 }
def rec0 : Rec := { pairRec with ctx := 4, gang := 0, op0 := noOp, op1 := noOp, op2 := noOp, tiles := 1, left := 1, place := [0], succ := [0x8001, 0x8002] }
def heldGraph : State :=
  { graphState { liveCtx with phases := [(0, (1, 1))], jobCnt := 1 } with
    die0 := { Die.reset with
      graphs := [graph3, { graph3 with ctx := 9, inst := 4 }]
      recs := [rec0, { rec0 with tidx := 1, gang := 1, st := .waiting, dep := 1, place := [] },
               { rec0 with tidx := 2, gang := 2, st := .waiting, dep := 2, place := [] }, { rec0 with tidx := 3, gang := 3, st := .cancelled, place := [] },
               { rec0 with inst := 4, ctx := 9, place := [] }] } }

theorem test_met_TaskWordsComplete_cancels : let s := heldGraph; let g := graphState { liveCtx with jobDone := true };
    Ready s (graphForm (.decr 1 5) [5] 1) ∧ bits (s.src [5] 0) 63 28 = 0 ∧ canRelease s s.focus.1 = true ∧ bits (s.src [6] 0) 63 28 ≠ 0 ∧
    Ready s (graphForm (.gcancelJob 1) [] 1) ∧ (s.ctx s.cur.ctx.toNat).jobDone = false ∧ Ready g (graphForm (.gcancelJob 1) [] 1) ∧
    (g.ctx g.cur.ctx.toNat).jobDone = true ∧ Ready s (graphForm (.gcancelPhase 1 0) [0] 1) ∧
    ((s.ctx s.cur.ctx.toNat).phase (bits (s.src [0] 0) 7 0)).1 = 1 ∧ ((g.ctx g.cur.ctx.toNat).phase 0).1 = 0 ∧ bits (s.src [9] 0) 63 8 ≠ 0 ∧
    Ready s (graphForm (.gcancelGraph 1 5) [5] 1) ∧ s.graph? 0 (bits (s.src [5] 0) 15 0) = some graph3 ∧
    bits (s.src [5] 0) 63 28 = 0 ∧ bits (s.src [5] 0) 26 16 = 0 ∧ Ready s (graphForm (.gcancelGraph 1 7) [7] 1) ∧
    (s.graph? 0 (bits (s.src [7] 0) 15 0)).map Graph.ctx = some 9 ∧ s.graph? 0 (bits (s.src [9] 0) 15 0) = none ∧
    bits (s.src [12] 0) 26 16 ≠ 0 ∧ Ready s (graphForm (.gcancelTask 1 5) [5] 1) ∧ s.rec? 0 (bits (s.src [5] 0) 15 0) 0 = some rec0 ∧
    rec0.ctx = s.cur.ctx.toNat ∧ rec0.st.over = false ∧ (s.rec? 0 3 3).map (fun r => r.st.over) = some true ∧ s.rec? 0 5 0 = none ∧
    (s.rec? 0 4 0).map Rec.ctx = some 9 :=
  ⟨ready_of_readyNow (by decide +kernel), by decide, by decide, by decide, ready_of_readyNow (by decide +kernel), by decide,
   ready_of_readyNow (by decide +kernel), by decide, ready_of_readyNow (by decide +kernel), by decide, by decide, by decide,
   ready_of_readyNow (by decide +kernel), by decide, by decide, by decide, ready_of_readyNow (by decide +kernel), by decide, by decide, by decide,
   ready_of_readyNow (by decide +kernel), by decide, by decide, by decide, by decide, by decide, by decide⟩

/-- A queue of context 4 with one packet at 0x20000. -/
def launchState (def4 : Int) : State :=
  { graphState liveCtx with
    die0 := { Die.reset with
      lq := [(2, { lqd := BitVec.ofNat 128 (4 * 2 ^ 112 + 3 * 2 ^ 104 + 2 * 2 ^ 100 + 0x20000), ri := 0, wi := 1, err := 0, st := 1 })]
      turn := 9, deficit := Sparse.set 0 [] 4 def4 } }
theorem test_met_GraphsAreTakenIn_packet : let s := launchState 5; let bs := leBytes 256 packetNat;
    (packetOf bs).span = false ∧ (∃ u, readVirt s 4 (packetOf bs).tva (128 * ((packetOf bs).nm1 + 1)) = (u, .data (leBytes 128 (2 ^ 924)))) ∧
    (∃ w, intake s 0 4 bs none none = (w, .done 0 false)) ∧ s.dieDown 0 = false ∧ s.die0.turn = 2 * 4 + 1 ∧ s.die0.waitingOf 4 = [2] ∧
    0 < Sparse.get 0 s.die0.deficit 4 ∧ (s.die0.queue 2).ctx = 4 ∧
    (∃ u, readVirt (s.modDie 0 (fun D => { D with lastq := 3 })) 4 (bits (s.die0.queue 2).lqd 55 0 + 256 * (s.die0.queue 2).ri) 256 = (u, .data bs) ∧
      ∃ w, intake u 0 4 bs none (some (2, 0)) = (w, .done 0 false)) ∧
    Sparse.get 0 (launchState 0).die0.deficit 4 ≤ 0 ∧ (graphState liveCtx).die0.waitingOf 4 = [] := by
  refine ⟨by decide +kernel, data_of (by decide +kernel), done_of (by decide +kernel), by decide, by decide, by decide +kernel, by decide, by decide +kernel,
    ?_, by decide, by decide⟩
  refine ⟨(readVirt ((launchState 5).modDie 0 (fun D => { D with lastq := 3 })) 4 0x20000 256).1, ?_, done_of (by decide +kernel)⟩
  obtain ⟨u, h⟩ := data_of (a := readVirt ((launchState 5).modDie 0 (fun D => { D with lastq := 3 })) 4 0x20000 256) (b := leBytes 256 packetNat)
    (by decide +kernel)
  rw [h]
  exact h
theorem test_met_GraphsAreTakenIn_decrements : let s := heldGraph; let m (j : Nat) : Decr := { ctx := 4, inst := 3, tidx := j, reply := none };
    s.graph? 0 (m 0).inst = some graph3 ∧ graph3.ctx = 4 ∧ (s.rec? 0 3 2).map (fun r => (r.st, r.spill, r.dep)) = some (.waiting, none, 2) ∧
    (s.rec? 0 3 1).map (fun r => (r.st, r.dep, r.gang, r.tidx)) = some (.waiting, 1, 1, 1) ∧
    ((s.die 0).recs.filter (fun q => q.inst == 3 && q.gang == 1)).length = 1 ∧ (s.rec? 0 3 3).map Rec.st = some .cancelled ∧
    (s.rec? 0 3 0).map Rec.st = some .running ∧ s.graph? 0 5 = none ∧ s.graph? 0 0x8000 = none ∧ 0x8000 + s.spanQ ≤ 0x8000 ∧ s.spanIn = [] ∧
    (s.die 0).predec = [] := by decide
theorem test_met_GraphsAreTakenIn_candidates :
    candidate 0 2 1 (fun _ => true) (fun p => p == 5) = some { x0 := 7, y0 := 2, w := 1, h := 1 } := by decide +kernel
theorem test_met_GraphsAreTakenIn_none : candidate 0 2 1 (fun _ => true) (fun _ => false) = none := by
  have h : ∀ r : Rect, r.fits 0 2 1 (fun _ => true) (fun _ => false) = false := fun r => by
    simp [Rect.fits, Rect.pages, List.range_succ]
  simp [candidate, h, firstRect]

def waitRec : Rec := { rec0 with st := .fetching, place := [] }
def waitUnit : RUnit := { pri := 0, inst := 3, tidx := 0, byp := 0 }
def waitState : State :=
  { graphState liveCtx with
    die0 := { Die.reset with
      graphs := [graph3], ready := [waitUnit]
      recs := [waitRec, { waitRec with tidx := 1, gang := 1, st := .waiting, spill := some 0 }] } }
theorem test_met_TasksRun_placement : waitState.die0.resident < 65472 ∧
    ((waitState.die0.recs.filter (fun q => q.live && q.spill.isSome)).find? (fun q => q.dep == 0)).isSome = true ∧
    waitState.dieDown 0 = false ∧ waitingUnits waitState 0 = [waitUnit] ∧ waitState.die0.resv = none ∧ waitState.rec? 0 3 0 = some waitRec ∧
    tryUnit waitState 0 waitUnit (fun _ => true) = some [(waitRec, { x0 := 0, y0 := 0, w := 1, h := 1 })] :=
  ⟨by decide +kernel, by decide +kernel, by decide +kernel, by decide +kernel, by decide +kernel, by decide +kernel, by decide +kernel⟩
def moveRec : Rec := { rec0 with st := .fetching, opend := 1, cva := 0x10000, slen := 0, op0 := { noOp with mode := 1, len := 1, dst := 0x800, va := 0x20000 } }
def moveXfer : Xfer := { id := 7, inst := 3, tidx := 0, rank := 0, what := .op 0, bytes := none }
def moveState : State :=
  { graphState liveCtx with
    tiles := [(0, { strand with phase := .placed, inst := 3 })], die0 := { Die.reset with graphs := [graph3], recs := [moveRec], xfers := [moveXfer] } }
theorem test_met_TasksRun_transfers :
    (moveState.die 0).xfers.find? (fun y => y.id == 7) = some moveXfer ∧ moveState.rec? 0 3 0 = some moveRec ∧ (moveState.tile 0).frozen = false ∧
    xferRange moveRec moveXfer = (0x20000, 256, 0x800) ∧ moveRec.opend ≤ 1 ∧
    ∃ u, readVirt moveState 4 0x20000 256 = (u, .data (leBytes 256 packetNat)) ∧ u.rec? 0 3 0 = some moveRec ∧ (u.tile 0).phase = .placed := by
  refine ⟨by decide, by decide, by decide, by decide, by decide, (readVirt moveState 4 0x20000 256).1, ?_, by decide +kernel, by decide +kernel⟩
  obtain ⟨u, h⟩ := data_of (a := readVirt moveState 4 0x20000 256) (b := leBytes 256 packetNat) (by decide +kernel)
  rw [h]
/-- A second record that broadcasts the same bytes, and a transfer whose unit has read them. -/
def moveTwo : State :=
  { graphState liveCtx with
    tiles := [(0, { strand with phase := .placed, inst := 3 }), (1, { strand with phase := .placed, inst := 3, tidx := 1 })]
    die0 := { Die.reset with
      graphs := [graph3], recs := [moveRec, { moveRec with tidx := 1, gang := 1, place := [1] }]
      xfers := [moveXfer, { moveXfer with id := 8, tidx := 1 }, { moveXfer with id := 9, tidx := 1, what := .code }] } }
theorem test_met_TasksRun_merged : let y : Xfer := { moveXfer with id := 8, tidx := 1 };
    xferUnit moveTwo 0 moveRec moveXfer = [7, 8] ∧ (moveTwo.die 0).xfers.length ≤ 160 ∧ ((moveTwo.die 0).xfers.map (·.id)).Nodup ∧
    moveTwo.rec? 0 y.inst y.tidx = some { moveRec with tidx := 1, gang := 1, place := [1] } ∧
    xferKey { moveRec with tidx := 1, gang := 1, place := [1] } y = xferKey moveRec moveXfer ∧
    xferKey moveRec { moveXfer with what := .code } ≠ xferKey moveRec moveXfer ∧
    (let r : Xfer := { moveXfer with bytes := some (leBytes 256 packetNat) };
     let s := { moveState with die0 := { moveState.die0 with xfers := [r] } };
     (s.die 0).xfers.find? (fun y => y.id == 7) = some r ∧ s.rec? 0 3 0 = some moveRec ∧ (s.tile 0).frozen = false ∧ (s.tile 0).phase = .placed) := by
  decide +kernel
theorem test_met_TasksRun_start : let q : Rec := { rec0 with st := .runnable, arg0 := 5, arg1 := 6, seed := 9 };
    let s := { graphState liveCtx with
      tiles := [(0, { strand with phase := .placed, inst := 3 })], die0 := { Die.reset with graphs := [graph3], recs := [q] } };
    s.rec? 0 3 0 = some q ∧ q.st = .runnable ∧ (s.vf 0).frozen = false ∧ (s.vf 0).sched = true ∧ s.dieDown 0 = false ∧ q.place.Nodup := by decide
/-- A strand whose fronts have both ended; in event mode with a payload in channel 2, and with none. -/
def endedTile (ev : Bool) (p : List Payload) : Tile :=
  let T : Tile := { strand with
    ctx := 4, inst := 3, events := ev, fa := { strand.fa with ended := true }, fx := { strand.fx with ended := true }
    chans := strand.chans.set 2 { xe := 0x80, ae := 0x40, val := true, cpri := 3, blk := false, payloads := p } }
  { T with sq := T.sq.set 1 [.filled 3] }
def endedState (ev : Bool) (p : List Payload) (st : Phase) : State := { heldGraph with tiles := [(0, { endedTile ev p with phase := st })] }
theorem test_met_TasksRun_retire : let s := endedState false [{ data := 8 }] .running; let e := endedState true [] .running;
    let w := endedState true [{ data := 8 }] .waiting; let v := endedState true [] .waiting;
    isJack 0 = false ∧ (s.tile 0).phase = .running ∧ AllDone s 0 ∧ (s.tile 0).events = false ∧ (s.tile 0).gather = [] ∧
    (∀ c ∈ (s.tile 0).cslots.toList, c = none) ∧ s.rec? (dieOf 0) (s.tile 0).inst (s.tile 0).tidx = some rec0 ∧ AllDone e 0 ∧
    (e.tile 0).events = true ∧ (∀ c : Fin 16, ((e.tile 0).chan c).eligible = false) ∧ AllDone w 0 ∧ TakesChannel (w.tile 0) 2 ∧
    ((w.tile 0).chan 2).payloads = [{ data := 8 }] ∧ v.rec? 0 3 0 = some rec0 ∧ signalTo v 0 3 0 = false ∧
    (∀ u ∈ rec0.place, (v.tile u).frozen = false ∧ (v.tile u).phase = .waiting) ∧ (∀ c : Fin 16, ((v.tile 0).chan c).eligible = false) :=
  ⟨by decide, by decide, by unfold AllDone; decide, by decide, by decide, by decide, by decide, by unfold AllDone; decide, by decide, by decide,
   by unfold AllDone; decide, ⟨by decide, by decide, fun k hk _ => by interval_cases k <;> first | (right; exact ⟨by decide, by decide⟩) | (left; decide)⟩,
   by decide, by decide, by decide, by decide, by decide⟩
theorem test_met_TasksRun_done : let q : Rec := { rec0 with left := 0 };
    let s := { endedState false [] .retired with die0 := { Die.reset with graphs := [graph3], recs := [q] }, cyc := 5 * 2 ^ 16 };
    s.rec? 0 3 0 = some q ∧ q.st = .running ∧ q.left = 0 ∧ q.nsx = 0 ∧ taskQuiet s q = true ∧ s.graph? 0 3 = some graph3 ∧ graph3.wdog ≠ 0 ∧
    (s.vf (s.ctx graph3.ctx).vf).frozen = false ∧ graph3.wdog * 2 ^ 16 ≤ (s.cyc - graph3.prog).toNat ∧
    ((s.die 0).recs.filter (fun r => r.inst == 3 && decide (1 ≤ r.st.code) && decide (r.st.code ≤ 4))) = [q] ∧ (s.die 0).frr = 0 ∧ (s.die 0).frBuf = [] := by
  decide
/-- Both fronts wait on ports of an empty queue. -/
theorem test_met_TasksRun_deadlock : let T : Tile := { strand with tvec := 0x1_0000_0100, fa := { strand.fa with wait := .ports [1] }, fx := { strand.fx with ended := true } };
    let s := onTile 0 .a T; (s.tile 0).deadlock.isSome = true ∧ (s.tile 0).slv = false ∧ (s.tile 0).tvec.getLsbD 32 = true := by decide

/-! Two dies, tenants, faults. -/

/-- Graph 3 on die 1 as well, in a share that spans the dies or not. -/
def dieState (span : Bool) (C : Ctx) : State :=
  { heldGraph with
    ctxs := [(4, C)], die1 := { Die.reset with graphs := [{ graph3 with span := span, gate := .waiting, left := 1 }], recs := [{ rec0 with place := [] }] } }
def joinMsg : BitVec 128 := message 1 0 4 0 0 3
theorem test_met_DiesExchangeMessages_gates : let s := dieState true liveCtx; let u := dieState false liveCtx;
    msgInst joinMsg = 3 ∧ msgCtx joinMsg = 4 ∧ (s.graph? 1 3).map Graph.span = some true ∧ (u.graph? 1 3).map Graph.span = some false ∧
    (u.ctx 4).joinOk 0 = true ∧ ((dieState false Ctx.reset).ctx 4).joinOk 0 = false ∧ s.dieDown 1 = false ∧
    ({ s with die1 := { s.die1 with stopped := true } } : State).dieDown 1 = true ∧
    ((dieState true { liveCtx with phases := [(0, (1, 1))] }).ctx 4).phase (msgTidx joinMsg) = (1, 0 + 1) ∧
    ((dieState true { liveCtx with phases := [(0, (2, 2))] }).ctx 4).phase (msgTidx joinMsg) = (2, 0 + 2) ∧
    ((dieState true { liveCtx with phases := [(0, (2, 1))], ended := true, jobCnt := 1 }).ctx 4).phase (msgTidx joinMsg) = (2, 1) ∧
    (∀ r ∈ s.die1.recs, r.inst = msgInst joinMsg → r.place = []) := by decide
def templateBytes : List Byte := leBytes 128 (2 ^ 924)
def spanPkt : SpanPkt := { q := 0, ctx := 4, inst := 0x8000, bytes := leBytes 256 (packetNat + 2 ^ 98), reply := none, spl := false }
def spanState : State := { graphState liveCtx with spanQ := 1, spanIn := [spanPkt] }
def extGives : State × Sum (List Nat) VRead → Option (List Nat) | (_, .inl l) => some l | _ => none
theorem ext_of {a : State × Sum (List Nat) VRead} {l : List Nat} (h : extGives a = some l) : a = (a.1, .inl l) := by
  obtain ⟨u, v⟩ := a
  cases v <;> simp only [extGives, reduceCtorEq, Option.some.injEq] at h
  rw [h]
theorem test_met_DiesExchangeMessages_span : let p := packetOf spanPkt.bytes;
    spanState.spanIn.find? (fun x => x.q == 0) = some spanPkt ∧ spanState.dieDown 1 = false ∧ (∀ o ∈ spanState.spanIn, 0 ≤ o.q) ∧
    spanState.die1.graphs.length < 256 ∧ ({ spanState with die1 := { Die.reset with stopped := true } } : State).dieDown 1 = true ∧
    (p.tva, 128 * (p.nm1 + 1)) = (0x10000, 128) ∧
    ∃ u, readVirt spanState 4 0x10000 128 = (u, .data (templateBytes)) ∧
      ∃ v, readExts u 4 (recsOf p 4 0x8000 (templateBytes)).2 [] = (v, .inl []) ∧ v.die1.hasRoom 1 = true := by
  refine ⟨by decide +kernel, by decide +kernel, by decide +kernel, by decide +kernel, by decide +kernel, by decide +kernel, (readVirt spanState 4 0x10000 128).1, ?_, _,
    ext_of (by decide +kernel), by decide +kernel⟩
  obtain ⟨u, h⟩ := data_of (a := readVirt spanState 4 0x10000 128) (b := templateBytes) (by decide +kernel)
  rw [h]

/-- A proxy pair of context 4: shadow at 0x40000, true ring at 0x50000, 16 entries, a push may wait 1024 cycles. -/
def pairReg : BitVec 512 :=
  [(511, 456, 0x40000), (455, 400, 0x50000), (399, 390, 4), (389, 385, 4), (384, 380, 10), (379, 378, 1)].foldl (fun r f => setBits r f.1 f.2.1 f.2.2)
    (BitVec.ofNat 512 0)
def proxyState (wi : Nat) (l : List Line) (held : List Nat) (cyc : Word) : State :=
  { graphState liveCtx with
    cyc := cyc, llc := [lineWith 0x40000 wi, lineWith 0x40080 0, lineWith 0x40100 0] ++ l
    die0 := { Die.reset with prox := [(2, { reg := pairReg, held := held, timed := false, since := 0 })] } }
/-- The lines of the true ring's first entry. -/
def trueRing : List Line := [lineWith 0x50000 0, lineWith 0x50080 0, lineWith 0x50100 0]
def wordGives : State × Option Nat → Option Nat := Prod.snd
theorem word_of {a : State × Option Nat} {n : Option Nat} (h : a.2 = n) : a = (a.1, n) := by rw [← h]
def ringReads (s : State) : State × Option Nat × Option Nat × Option Nat :=
  let a := ringWord s 4 0x40000
  let b := ringWord a.1 4 0x40010
  let c := ringWord b.1 4 0x50008
  (c.1, a.2, b.2, c.2)
theorem ringsRead_of {s : State} {P : Proxy} {wi fwd ri : Nat} (hp : P.ctx = 4 ∧ P.sva = 0x40000 ∧ P.tva = 0x50000)
    (h : (ringReads s).2 = (some wi, some fwd, some ri)) : RingsRead s (ringReads s).1 P wi fwd ri := by
  simp only [ringReads, Prod.mk.injEq] at h
  exact ⟨_, _, by rw [hp.1, hp.2.1]; exact word_of h.1, by rw [hp.1, hp.2.1]; exact word_of h.2.1, by rw [hp.1, hp.2.2]; exact word_of h.2.2⟩
def copied (s : State) : State × Option Nat := proxyCopy (ringReads s).1 (s.proxy 0 2) 0 1
theorem test_met_DiesExchangeMessages_proxy :
    let s := proxyState 0 trueRing [] 0; let o := proxyState 1 trueRing [] 0; let f := proxyState 1 [lineWith 0x50000 0] [] 0;
    (s.proxy 0 2).st = 1 ∧ s.pins = [] ∧ RingsRead s (ringReads s).1 (s.proxy 0 2) 0 0 0 ∧ RingsRead o (ringReads o).1 (o.proxy 0 2) 1 0 0 ∧
    min (1 - 0) (2 ^ (o.proxy 0 2).m - (0 - 0)) = 1 ∧ (copied o).2 = none ∧ (ringPut (copied o).1 4 0x50000 (leBytes 8 1)).2 = true ∧
    RingsRead f (ringReads f).1 (f.proxy 0 2) 1 0 0 ∧ (copied f).2.isSome = true ∧ (copied f).1.proxy 0 2 = f.proxy 0 2 :=
  ⟨by decide +kernel, by decide +kernel, ringsRead_of (by decide +kernel) (by decide +kernel), ringsRead_of (by decide +kernel) (by decide +kernel), by decide +kernel, by decide +kernel,
   by decide +kernel, ringsRead_of (by decide +kernel) (by decide +kernel), by decide +kernel, by decide +kernel⟩
theorem test_met_DiesExchangeMessages_timeout : let s := proxyState 0 [] [7] 5; let u := proxyState 0 [] [7] 1024;
    (s.proxy 0 2).st = 1 ∧ (s.proxy 0 2).held ≠ [] ∧ (s.proxy 0 2).timed = false ∧ (s.cyc - (s.proxy 0 2).since).toNat < 2 ^ (s.proxy 0 2).t ∧
    2 ^ (u.proxy 0 2).t ≤ (u.cyc - (u.proxy 0 2).since).toNat ∧ (u.die 0).frr = 0 ∧ (u.die 0).frBuf.length < 256 := by decide +kernel

theorem test_met_FaultsAndTenants_errors : let s := heldGraph; let c := { s with die0 := { s.die0 with recs := [{ rec0 with chk := true }] } };
    let w := claimState.setClaim 0 { Claim.reset with st := .ready, tkt := 5, wl := [{ pin := true, tile := 9, slot := 2, lease := 0 }] };
    s.memWf = true ∧ isJack 0 = false ∧ s.rec? (dieOf 0) (s.tile 0).inst (s.tile 0).tidx = s.rec? 0 0 0 ∧ s.rec? 0 3 0 = some rec0 ∧ (0 : Nat) ∈ rec0.place ∧
    rec0.chk = false ∧ (c.rec? 0 3 0).map Rec.chk = some true ∧ State.reset.llc = [] ∧ localTarget State.reset 0x1280 = some .hbm ∧ 0 / 2 ^ 21 % 2 = 0 ∧
    (w.claim 0).tkt ≠ 0 ∧ s.graph? 0 3 ≠ none ∧ (s.die 1).stopped = false := by decide
/-- Record 0 of graph 3 runs on tile 0. -/
def ranState (chk : Bool) : State :=
  let T := heldGraph.cur
  { heldGraph with tiles := [(0, { T with inst := 3, tidx := 0 })], die0 := { heldGraph.die0 with recs := [{ rec0 with chk := chk }] } }
theorem test_met_FaultsAndTenants_aborts : ∀ chk : Bool, (ranState chk).memWf = true ∧
    (ranState chk).rec? (dieOf 0) ((ranState chk).tile 0).inst ((ranState chk).tile 0).tidx = some { rec0 with chk := chk } ∧ (0 : Nat) ∈ rec0.place := by decide
theorem test_met_FaultsAndTenants_retransmit : let x : Txn := { sentTxn (ranState true) .reply 0 0 5 0 .none with id := 4 }; let y := { x with tries := 3 };
    ({ ranState true with txns := [x] } : State).txn? 4 = some x ∧ x.resp = .pending ∧ x.tries < 3 ∧ ({ ranState true with txns := [y] } : State).txn? 4 = some y ∧
    3 ≤ y.tries := by decide

/-- A frozen virtual function with one strand, of tile 5, in its image; its pages are 0 and 1 of die 0. -/
def frozenState : State :=
  { graphState liveCtx with
    tiles := [(0x10005, { strand with frozen := true, inst := 3, fa := withRegs strand.fa [(1, 9)] })]
    vfs := [(0, { Vf.reset with part := partWord, frozen := true, sched := false, image := [(5, 0x10005)] })] }
theorem test_met_FaultsAndTenants_freeze : let s := ranState true;
    (s.vf 0).frozen = false ∧ (vfTiles s 0).Nodup ∧ vfTiles s 0 = [0] ∧ NoGather s ∧ s.txns = [] ∧
    (frozenState.vf 0).frozen = true ∧ (frozenState.vf 0).image = [(5, 0x10005)] ∧ groupBusy frozenState 0 = false ∧
    chainFits frozenState 0 (dieOf 5) [pageOf 5] 0 0 = true ∧ (frozenState.tile 0x10005).phase = .running :=
  ⟨by decide, by decide, by decide, by unfold NoGather; decide, by decide, by decide, by decide, by decide, by decide, by decide⟩
/-- Two virtual functions of one group; the second has a saved image or a record in flight, or nothing. -/
def groupState (V : Vf) (rs : List Rec) : State :=
  { graphState liveCtx with
    ctxs := [(4, { liveCtx with vf := 1 })], die0 := { Die.reset with recs := rs }
    vfs := [(0, { Vf.reset with part := partWord }), (1, { V with part := partWord })] }
theorem test_met_FaultsAndTenants_slices : let s := groupState Vf.reset []; let u := groupState Vf.reset [rec0];
    let f := groupState { Vf.reset with frozen := true, sched := false, image := [(5, 0x20005)] } [];
    (s.vf 0).sched = true ∧ (s.vf 0).frozen = false ∧ nextVf s 0 = none ∧ nextVf u 0 = some 1 ∧ (u.vf 1).frozen = false ∧ nextVf f 0 = some 1 ∧
    (f.vf 1).frozen = true := by decide +kernel
/-- A window of 64 starts, all in bucket 5, against a target of bucket 3. -/
theorem test_met_FaultsAndTenants_window :
    let V : Vf := { Vf.reset with mon := BitVec.ofNat 64 (3 * 2 ^ 16 + 6 * 2 ^ 12 + 1), buckets := [(5, 64)], nstart := 64, irq := 1#128 <<< 64 };
    let n := 2 ^ bits V.mon 15 12;
    V.mon.getLsbD 0 = true ∧ 6 ≤ bits V.mon 15 12 ∧ n ≤ V.nstart ∧ 99 * n ≤ 100 * cumulative V 5 ∧ (∀ b : Fin 5, 100 * cumulative V b < 99 * n) ∧
    V.cfg.getLsbD 14 = false ∧ ({ V with cfg := 0x4000 } : Vf).cfg.getLsbD 14 = true ∧ V.irq.getLsbD 64 = true := by decide +kernel

/-! The pod, starting, the host. -/

def setFields {n : Nat} (l : List (Nat × Nat × Nat)) : BitVec n := l.foldl (fun r f => setBits r f.1 f.2.1 f.2.2) (BitVec.ofNat n 0)
/-- Adder 0 adds integers of channels 0 and 1 to channel 2, 16 elements; a port core of one word; in force from cycle 100. -/
def adderImage : BitVec 8192 :=
  setFields [(639, 636, 1), (635, 634, 2), (633, 629, 0), (628, 624, 1), (623, 619, 2), (559, 536, 16), (511, 448, 100), (445, 438, 1), (1567, 1536, 0x3C000000)]
def fedJack : Jack := { Jack.reset with graph := some (4, adderImage), inq := [(0, [{ v := 5, epoch := false }]), (1, [{ v := 6, epoch := false }])] }
def jackState (J : Jack) (cyc : Word) : State := { State.reset with jacks := [(2, J)], cyc := cyc, mg := { Mg.reset with ready := true } }
theorem test_met_PodPartsRun_jack : let P : Jack := { Jack.reset with pend := some (4, adderImage) };
    ((jackState P 99).jack 2).pend = some (4, adderImage) ∧ 99 < JackImage.swc adderImage ∧ JackImage.swc adderImage ≤ 100 ∧ JackImage.clen adderImage ≠ 0 ∧
    AdderFed ((jackState fedJack 0).jack 2) 4 adderImage 0 0 1 2 { v := 5, epoch := false } { v := 6, epoch := false } ∧ JackImage.fmt adderImage 0 = 2 ∧
    JackImage.op adderImage 0 = 1 :=
  ⟨by decide +kernel, by decide +kernel, by decide +kernel, by decide +kernel,
   ⟨by decide +kernel, by decide +kernel, by decide +kernel, by decide +kernel, by decide +kernel, by decide +kernel, by decide +kernel, by decide,
    by decide +kernel, by decide +kernel⟩, by decide +kernel, by decide +kernel⟩
def readyPart : State := { State.reset with mg := { Mg.reset with ready := true } }
theorem test_met_PodPartsRun_requests : readyPart.mg.ready = true ∧ readyPart.mg.min = false ∧ State.reset.mg.ready = false ∧
    0x3FF0000FFF0 % 2 ^ 42 = 0x3FF0000FFF0 ∧ 0x3FF0000FFF0 % 16 = 0 ∧ localTarget readyPart 0x5FFFFFFFF8 ≠ none ∧ readyPart.poison = [] ∧
    0x5FFFFFFFF8 % 2 ^ 3 = 0 := by decide
/-- Destination 1 leaves by port 3 past a dateline, destination 2 is here, destination 3 is dropped. -/
def routed : State := { readyPart with die0 := { Die.reset with route := [(1, 0x83), (2, 0x10), (3, 0x1F)] } }
theorem test_met_PodPartsRun_flits : routed.dieDown (0 / 8 % 2) = false ∧
    bits ((routed.die 0).routeOf 0 1) 4 0 < 16 ∧ bits ((routed.die 0).routeOf 0 2) 4 0 = 16 ∧ 16 < bits ((routed.die 0).routeOf 0 3) 4 0 ∧
    ((routed.tile 0x1000).sport 2).length < 16 := by decide +kernel
/-- The lehr of context 4, whose epoch record goes to 0x40000; blocks are 64 KiB from 0. -/
def lehrState (st : LehrSt) (todo : List Nat) : State :=
  { graphState liveCtx with
    llc := [lineWith 0x40000 0]
    lehr := { Lehr.reset with desc := setFields [(455, 400, 0x40000), (311, 302, 4)], st := st, todo := todo, due := true, dirty := todo } }
theorem test_met_PodPartsRun_lehr : let s := lehrState .armed [3]; let o := lehrState .opened [3]; let c := lehrState .opened [];
    s.lehr.st = .armed ∧ s.lehr.due = true ∧ o.lehr.st = .opened ∧ o.lehr.todo ≠ [] ∧ c.lehr.todo = [] ∧
    (ringPut c c.lehr.ctx (bits c.lehr.desc 455 400) (epochRecord c)).2 = true ∧ (ringPut c c.lehr.ctx (bits c.lehr.desc 455 400) (epochRecord c)).1.lehr.disarm = [] := by
  decide +kernel

theorem test_met_PartStartsAndResets : let d1 : State := { readyPart with mg := { readyPart.mg with d1up := true }, agenda := [] };
    let down : State := { readyPart with die1 := { Die.reset with stopped := true }, agenda := [.die1Rejoin (.ready none)] };
    let m : State := { readyPart with mg := { readyPart.mg with min := true } };
    State.reset.mg.ready = false ∧ State.reset.mg.att < 3 ∧ 3 ≤ ({ Mg.reset with att := 3 } : Mg).att ∧ readyPart.mg.ready = true ∧
    m.mg.min = true ∧ rejoining m = false ∧ readyPart.mg.min = false ∧ rejoining d1 = false ∧ d1.die1.stopped = false ∧ down.mg.d1up = false ∧
    rejoining down = true ∧ readyPart.die0.stopped = false ∧ readyPart.dieDown 1 = false ∧ bits ({ Die.reset with irq1 := 1 <<< 64 } : Die).irq1 64 64 = 1 ∧
    bits Die.reset.irq1 64 64 = 0 := by decide +kernel

/-- A state in which the host writes a register; a mapping for the queue at 0x20000. -/
def busState (D : Die) (idx off n : Nat) (val : BitVec 512) : State :=
  { graphState liveCtx with
    bus := { die := 0, idx := idx, off := off, n := n, val := val }, die0 := D
    tlb := [{ slice := homeSlice (graphState liveCtx) 0x20000, ctx := 4, page := 2, size := 16, pa := 0, r := true, w := true, uc := false }] }
def queueWord (wt base : Nat) : BitVec 512 := setFields [(121, 112, 4), (111, 104, wt), (103, 100, 2), (55, 0, base)]
def qState : Die := { Die.reset with lq := [(5, { lqd := setFields [(121, 112, 4), (103, 100, 2)], ri := 0, wi := 0, err := 0, st := 1 })] }
theorem test_met_HostRegistersAct_queues : let s := busState Die.reset 5 0x50 16 (queueWord 3 0x20000); let v : BitVec 128 := s.bus.val.setWidth 128;
    (s.ctx (bits v 121 112)).live = true ∧ bits v 111 104 ≠ 0 ∧ bits v 55 0 % 256 = 0 ∧ bits v 103 100 ≤ 12 ∧ bits v 127 122 = 0 ∧ bits v 99 56 = 0 ∧
    bits v 55 0 + 2 ^ bits v 103 100 * 256 ≤ 2 ^ 56 ∧ isWindow (bits v 55 0) = false ∧ isWindow (bits v 55 0 + 1023) = false ∧
    (rangeReadable s 4 0x20000 1).2 = true ∧ (rangeReadable s 4 0x20000 1).1.die0.lq = [] ∧ (rangeReadable (busState Die.reset 5 0x50 16 0) 4 0x30000 1).2 = false ∧
    (s.ctx 0).live = false ∧ bits (queueWord 0 0x20000) 111 104 = 0 ∧ bits (queueWord 3 0x20001) 55 0 % 256 ≠ 0 ∧
    ((busState qState 5 0x1028 8 0x30000).die0.queue 5).st = 1 ∧ bits (busState qState 5 0x1028 8 0x30000).bus.val 31 16 < 2 ^ 2 ∧
    2 ^ bits (qState.queue 5).lqd 103 100 ≤ bits (busState qState 5 0x1028 8 0x40000).bus.val 31 16 := by decide +kernel
theorem test_met_HostRegistersAct_rings : let p : Die := { Die.reset with ovr := 2 };
    let sp : Die := { Die.reset with recs := [{ rec0 with spill := some 0 }] };
    sp.spilled ≠ 0 ∧ Die.reset.spilled = 0 ∧ bits p.ovr 1 0 = 2 ∧ Die.reset.frBuf = [] := by decide
/-- The record-control word that names record 0 of graph 3. -/
def recWord : BitVec 512 := setFields [(13, 4, 4), (29, 14, 3)]
theorem test_met_HostRegistersAct_records : let d (r : Rec) : Die := { Die.reset with graphs := [graph3], recs := [r] };
    rccRec (busState (d { rec0 with st := .parked, parkKind := 0x40 }) 0 0x2028 8 recWord) = some { rec0 with st := .parked, parkKind := 0x40 } ∧
    rccRec (busState (d rec0) 0 0x2028 8 recWord) = some rec0 ∧ rec0.st.over = false ∧
    rccRec (busState (d { rec0 with st := .done }) 0 0x2028 8 recWord) = some { rec0 with st := .done } ∧ rccRec (busState Die.reset 0 0x2028 8 recWord) = none := by
  decide +kernel
theorem test_met_HostRegistersAct_others : let s := busState Die.reset 0 0x2038 8 (setFields [(87, 52, 2)]); let w := busState Die.reset 0 0x2088 8 (1 <<< 64);
    hbmOk s (2 * 2 ^ 16) = true ∧ hbmOk s (2 * 2 ^ 16 + 2 ^ 16 - 1) = true ∧ hbmOk s (bits ((setFields [(87, 52, 2 ^ 36 - 1)] : BitVec 512)) 87 52 * 2 ^ 16) = false ∧
    winAt w.bus.die w.bus.off = (.irq 0, w.bus.off - 8) ∧ (winAt 0 0x10001).1 = .route 0 1 ∧ winAt 0 0x2000 = (.ovr, 0x2000) ∧ Win.ovr.bytes = 16 ∧
    (1#512).setWidth 64 ≠ 0#64 := by decide +kernel

/-- A context command for context 4 and phase 0, with the context table at 0x10000 and a descriptor there. -/
def cmdState (D : BitVec 512) (C : Ctx) : State :=
  { graphState C with
    bus := { die := 0, idx := 0, off := 0x2048, n := 8, val := setFields [(19, 10, 4)] }, ctb := setFields [(51, 16, 1)], pmem := memPutNat [] 0x10100 64 D.toNat
    llc := [lineWith 0x60000 5] }
/-- An eviction ring of 16 entries at 0x60000. -/
def ringDesc : BitVec 512 := setFields [(479, 475, 4), (474, 419, 0x60000)]
theorem test_met_ContextCommandsAct_rings : ∀ live : Bool, let s := cmdState ringDesc { Ctx.reset with live := live };
    cmdCtx s = 4 ∧ (s.ctx 4).live = live ∧ (cmdState ringDesc liveCtx).memWf = true ∧ ctxDesc s 4 = some ringDesc ∧ descOk ringDesc = true ∧ bits ringDesc 479 475 ≠ 0 ∧
    (ringWord s 4 0x60000).2 = some 5 ∧ (ringWord (ringWord s 4 0x60000).1 4 0x60008).2 = some 0 ∧
    ctxDesc (cmdState 0 Ctx.reset) 4 = some 0 ∧ descOk 0 = true ∧ descOk (1#512) = false := by decide +kernel
theorem test_met_ContextCommandsAct_phases : ∀ p : Fin 4, let s := cmdState 0 { liveCtx with phases := if p.val = 0 then [] else [(0, (p, 1))] };
    cmdPhase s = 0 ∧ (s.ctx 4).live = true ∧ (s.ctx 4).ended = false ∧ (s.ctx 4).phase 0 = (p.val, if p.val = 0 then 0 else 0 + 1) := by decide +kernel
theorem test_met_ContextCommandsAct_entries : let s := busState Die.reset 1 0x3018 8 (setFields [(89, 88, 3), (77, 77, 1)]);
    let e : BitVec 128 := s.bus.val.setWidth 128 &&& 0xFFFFFFFFFF03E000FFFFFF000001FFFF#128;
    let n : BitVec 128 := (setFields [(91, 90, 3), (77, 77, 1)] : BitVec 128);
    partOk s 1 e = false ∧ partOk s 1 n = true ∧ bits n 127 88 ≠ 0 ∧ (s.vf 1).frozen = false ∧
    (∀ u : Fin 32, (u : Nat) ≠ 1 → (s.vf u).pages = 0 ∨ (s.vf u).grp ≠ bits n 81 77) ∧
    bits (setFields [(389, 385, 3)] : BitVec 512) 389 385 < 4 := by decide +kernel

/-- A front that may move, and an event of the agenda. -/
theorem test_met_StepRunsDecodedInstruction :
    let s : State := { onTile 0 .a { strand with code := memPutNat [] 0 4 0x04642E00 } with tape := [.front 0 .a], agenda := [.packetIntake 0] };
    s.tape = [.front 0 .a] ∧ decodeWord (memNat (s.tile 0).code ((s.tile 0).front .a).pc.toNat 4) = .ok (.add 3 4 5 .w64) ∧
    decodeWord (memNat (s.tile 0).code ((s.tile 0).front .x).pc.toNat 4 + 0) = .ok (.add 3 4 5 .w64) ∧ decodeWord 0 = .error .reservedMajor ∧
    s.agenda[0]? = some (.packetIntake 0) ∧ running { s with tape := [], free := 1 } ≠ [] := by
  exact ⟨by decide, by rfl, by rfl, by rfl, by decide, by decide⟩
theorem test_met_MemoriesStayCanonical : State.reset.memWf = true ∧ ∃ t, step State.reset = .next t := ⟨by decide, _, rfl⟩

/-! Worked examples of vectors, places and fetching (R4, R115, R123, R214, R22). -/

/-- v6 with elements 2^24, 1, 1, 1 in FP32 (the worked case of 07), and k1 = 0xF. -/
def sumState : State :=
  onTile 0 .x { strand with vregs := strand.vregs.set 6 (BitVec.ofNat 2048 (packElems 32 [0x4B800000, 0x3F800000, 0x3F800000, 0x3F800000])), kregs := strand.kregs.set 1 0xF }
theorem test_vred_tree : decodeWord 0x98A60190 = .ok (.vred 5 6 1 .w32 false true .add) ∧ ((after (.vred 5 6 1 .w32 false true .add) sumState).cur.vreg 5).toNat = 0x4B800001 := by
  constructor
  · rfl
  · decide +kernel
theorem test_vscan_steps : decodeWord 0x98E60198 = .ok (.vscan 7 6 1 .w32 false true .add) ∧
    ((after (.vscan 7 6 1 .w32 false true .add) sumState).cur.vreg 7).toNat = packElems 32 [0x4B800000, 0x4B800000, 0x4B800001, 0x4B800001] := by
  constructor
  · rfl
  · decide +kernel
theorem test_vexp2_one : let s := onTile 0 .x { strand with vregs := strand.vregs.set 1 (BitVec.ofNat 2048 0x3F800000) };
    ((after (.vexp2 2 1 0 .w32) s).cur.vreg 2).toNat % 2 ^ 32 = 0x40000000 := by decide +kernel
/-- Bit 0 is set: all four bytes of lane 0 lie below, unsigned. -/
theorem test_vcmp_unsigned_bytes :
    let s := onTile 0 .x { strand with vregs := (strand.vregs.set 1 (BitVec.ofNat 2048 0x7F017F7F)).set 2 (BitVec.ofNat 2048 0x80FF8080) };
    (after (.vcmp 3 1 2 0 .w8 false false .ltu) s).cur.kregs.toList[3]? = some 1 := by decide +kernel
/-- The tile id and the slice that the spec works out. -/
theorem test_tile_and_slice : isF 0x0137 = true ∧ pageOf 0x0137 = 5 ∧ dieOf 0x0137 = 1 ∧ homeSlice readyPart 0x0000004000000300 = 14 := by decide
/-- A word placed with withFetchWord is what the next step runs. -/
theorem test_fetch_runs : step (State.reset.withFetchWord 32 0x10402345) = exec (.addi 2 0 0x2345)
    { State.reset.withFetchWord 32 0x10402345 with free := 1, tape := [], focus := (0, .a) } := by rfl
theorem test_fetch_result : ((match step (State.reset.withFetchWord 32 0x10402345) with | .next t => t | _ => State.reset).tile 0).fa.regs.toList[2]? = some 0x2345 := by
  decide +kernel

end Sys2Proof.Tests
end

section
/-! ## Proofs: the part at reset, and who moves next -/

namespace Sys2Proof.Machine

/-! ### The part at reset (R19, R26, R41, R375) -/

theorem tile_stateReset (u : Nat) : State.reset.tile u = Tile.reset := rfl

theorem die_stateReset (d : Nat) : State.reset.die d = Die.reset := by unfold State.die; split <;> rfl

theorem front_tileReset (f : Front) : Tile.reset.front f = FrontState.reset := by cases f <;> rfl

theorem reg_frontReset (r : Nat) : FrontState.reset.reg r = 0 := by
  unfold FrontState.reg FrontState.reset; split <;> simp

theorem vreg_tileReset (r : Nat) : Tile.reset.vreg r = 0 := by
  unfold Tile.vreg Tile.reset; split <;> simp

theorem sport_tileReset (q : Nat) : Tile.reset.sport q = [] := by
  unfold Tile.sport Tile.reset; split <;> simp

theorem vport_tileReset (q : Nat) : Tile.reset.vport q = [] := by
  unfold Tile.vport Tile.reset; split <;> simp

theorem acc_tileReset (n : Nat) : Tile.reset.acc n = { elems := [], int := false } := by
  unfold Tile.acc Tile.reset Acc.reset; split <;> simp

theorem kregs_tileReset {k : Nat} (h : k < 8) : Tile.reset.kregs.toList[k]? = some (BitVec.allOnes 64) := by
  rw [show Tile.reset.kregs = Vector.replicate 8 (BitVec.allOnes 64) from rfl, Vector.toList_replicate, List.getElem?_replicate_of_lt h]

/-- Settles O60: every field of the reset state is written out in `State.reset`, so that each clause reads it. -/
theorem resetState : Obligations.ResetState := by
  unfold Obligations.ResetState
  refine ⟨rfl, fun _ => rfl, rfl, rfl, rfl, rfl, rfl, fun u => ?_, fun _ => rfl, fun _ => ⟨rfl, rfl⟩, fun _ => rfl, fun d q => ?_, fun d => ?_⟩
  · rw [tile_stateReset]
    refine ⟨rfl, rfl, rfl, rfl, fun f r => ?_, vreg_tileReset, fun k => kregs_tileReset, fun q => ⟨sport_tileReset q, vport_tileReset q⟩,
      fun n _ => acc_tileReset n, fun _ => ⟨rfl, rfl⟩⟩
    rw [front_tileReset]
    exact ⟨reg_frontReset r, rfl⟩
  · rw [die_stateReset]; rfl
  · rw [die_stateReset]; exact ⟨rfl, rfl⟩

/-! ### Who moves next, and the fetch (R22, log 2) -/

theorem step_of_act {s t : State} {i : Instr} (h : nextMove s = .act i t) : step s = exec i t := by rw [step, h]

theorem nextMove_front {s : State} {u : Nat} {f : Front} {rest : List Mover} (h : s.tape = .front u f :: rest) :
    nextMove s = moveFront { s with free := s.free + 1, tape := rest } u f := by
  simp only [nextMove, h]

/-- The tape lets a front move: it issues the word at its program counter. -/
theorem step_front {s : State} {u : Nat} {f : Front} {rest : List Mover} (h : s.tape = .front u f :: rest) :
    step s = exec (fetchOf s u f) { s with free := s.free + 1, tape := rest, focus := (u, f) } :=
  step_of_act (nextMove_front h)

/-- The tape lets an item of the agenda move: it is carried out and leaves the agenda. -/
theorem step_event {s : State} {k : Nat} {rest : List Mover} {i : Instr} (h : s.tape = .event k :: rest) (ha : s.agenda[k]? = some i) :
    step s = exec i { s with free := s.free + 1, tape := rest, agenda := s.agenda.eraseIdx k } :=
  step_of_act (by simp only [nextMove, h, moveEvent, ha])

/-- With an empty tape and the free values at 1 modulo 4, it is a front's turn. -/
theorem nextMove_turn {s : State} (h : s.tape = []) (hf : s.free % 4 = 1) : nextMove s = moveTurn { s with free := s.free + 1 } := by
  simp only [nextMove, h, moveFair, show (s.free + 1) % 4 = 2 by omega]

/-- The front whose turn it is is one that can issue. -/
theorem moveTurn_running {s : State} (h : running s ≠ []) : ∃ u f, (u, f) ∈ running s ∧ moveTurn s = moveFront s u f := by
  cases hq : (running s).find? (frontAfter s.focus) with
  | some q => exact ⟨q.1, q.2, List.mem_of_find?_eq_some hq, by simp [moveTurn, hq]⟩
  | none =>
    obtain ⟨q, l, hl⟩ := List.exists_cons_of_ne_nil h
    exact ⟨q.1, q.2, by simp [hl], by rw [hl] at hq; simp [moveTurn, hq, hl]⟩

/-- Settles O55: by the rule of each mover; the word at the front's program counter is what the fetch decodes. -/
theorem stepRunsDecodedInstruction : Obligations.StepRunsDecodedInstruction := by
  unfold Obligations.StepRunsDecodedInstruction
  refine ⟨fun s u f rest i ht hd => ?_, fun s u f rest e ht hd => ?_, fun s k rest i ht ha => step_event ht ha, fun s ht hf hr => ?_⟩
  · rw [step_front ht, fetchOf, instrOf, Tile.wordAt, hd]
  · rw [step_front ht, fetchOf, instrOf, Tile.wordAt, hd]
  · obtain ⟨u, f, hm, hq⟩ := moveTurn_running (s := { s with free := s.free + 1 }) hr
    exact ⟨u, f, hm, step_of_act ((nextMove_turn ht hf).trans hq)⟩
end Sys2Proof.Machine
end

section
/-! ## Proofs: words held at issue, and values that arrive -/

namespace Sys2Proof.Machine

/-! ### A word that is held or trapped at issue (R28, R32, R64) -/

/-- A front that runs, with a word whose fields raise no cause: a wait holds the front and changes nothing else. -/
theorem issue_held {s : State} {fm : Form} {w : Wait} (hr : s.cur.runs s.focus.2 = true) (hg : fm.gate s.cur s.focus.1 s.focus.2 = none)
    (hw : fm.hold s.cur s.focus.2 = w) (hne : w ≠ .none) (body : State → Issue → Verdict) : issue s fm body = .next (holdFront s w) := by
  unfold State.cur at hr hg hw
  simp only [issue, hr, hg, hw, Bool.not_true, Bool.false_eq_true, if_false]

/-- A port without a reserved slot never makes a word wait for an operation in flight. -/
theorem popBlock_of_no_pending {n : Nat} {l : List (QSlot n)} (h : l.all (fun e => !e.isPending) = true) (k : Nat) :
    popBlock l k ≠ some true := by
  induction l generalizing k with
  | nil => cases k <;> simp [popBlock]
  | cons e l ih =>
    simp only [List.all_cons, Bool.and_eq_true] at h
    cases k with
    | zero => simp [popBlock]
    | succ k =>
      cases e with
      | filled v => exact ih h.2 k
      | pending i => exact absurd h.1 (by simp [QSlot.isPending])

/-- No port a scalar word pops waits for an operation in flight. -/
theorem portWaits_not_flying {fm : Form} {T : Tile} (hv : fm.rv = []) (hp : ∀ q, (T.sport q).all (fun e => !e.isPending) = true) :
    (fm.portWaits T).2 = false := by
  have hvp : ∀ q, popBlock (T.vport q) (countReg fm.rv (q + 28)) = none := fun q => by rw [hv]; exact popBlock.eq_1 _
  simp [Form.portWaits, hvp, popBlock_of_no_pending (hp _)]

/-- An empty port among a word's sources is one that it waits on (R33 gives port sn the number n − 16). -/
theorem mem_portWaits_of_empty {fm : Form} {T : Tile} {r : Reg} (hr : r ∈ fm.rs) (h24 : 24 ≤ r.toNat) (he : T.sport (r.toNat - 24) = []) :
    r.toNat - 16 ∈ (fm.portWaits T).1 := by
  have hq : r.toNat - 24 + 24 = r.toNat := by omega
  have hc : 0 < countReg fm.rs r.toNat := by
    rw [countReg, List.length_pos_iff]
    exact List.ne_nil_of_mem (List.mem_filter.2 ⟨hr, by simp⟩)
  have hb : popBlock (T.sport (r.toNat - 24)) (countReg fm.rs (r.toNat - 24 + 24)) = some false := by
    rw [he, hq, ← Nat.succ_pred_eq_of_pos hc]; rfl
  have h8 : r.toNat - 24 < 8 := by have := r.isLt; omega
  simp only [Form.portWaits, List.mem_append, List.mem_map, List.mem_filter, List.mem_range]
  refine .inl (.inl ⟨(r.toNat - 24 + 8, some false), ⟨.inl ⟨r.toNat - 24, h8, by rw [hb]⟩, rfl⟩, by omega⟩)

/-- A word with no register interlocked and nothing in flight waits on its empty source port. -/
theorem hold_of_empty_source {fm : Form} {T : Tile} {f : Front} {r : Reg} (hpend : (T.front f).pend = []) (hv : fm.rv = [])
    (hp : ∀ q, (T.sport q).all (fun e => !e.isPending) = true) (hr : r ∈ fm.rs) (h24 : 24 ≤ r.toNat) (he : T.sport (r.toNat - 24) = []) :
    fm.hold T f = .ports (fm.portWaits T).1 := by
  have hm := mem_portWaits_of_empty hr h24 he
  have hi : fm.interlocked (T.front f) = false := by simp [Form.interlocked, hpend]
  simp [Form.hold, hi, portWaits_not_flying hv hp, List.ne_nil_of_mem hm]

/-- A word for both fronts with its ports in the right direction raises no cause on a tile. -/
theorem gate_none {fm : Form} {T : Tile} {t : Nat} {f : Front} (hu : fm.unit = true) (hj : isJack t = false) (hf : fm.frontOk f = true)
    (hs : fm.svc = false) (hd : fm.dirOk f = true) : fm.gate T t f = none := by
  simp [Form.gate, hu, hj, hf, hs, hd]

/-- A two-source word of R81 issues with its two sources and its destination, whatever its operation. -/
theorem alu2_issues (s : State) (i : Instr) (d a b : Reg) (w : Width) (sgn : Bool) (op : Nat → Nat → Nat → Nat) :
    ∃ body, alu2 s i d a b w sgn op = issue s { instr := i, rs := [a, b], ws := [d] } body := by
  unfold alu2 issueS issueTile; exact ⟨_, rfl⟩

/-- The word of each row of R81 is a two-source word, of the row's own operation. -/
theorem exec_aluTable : ∀ p ∈ aluTable, ∃ sgn op, ∀ d a b w s, exec (p.1 d a b w) s = alu2 s (p.1 d a b w) d a b w sgn op := by
  simp only [aluTable, List.forall_mem_cons, List.not_mem_nil, false_imp_iff, implies_true, and_true]
  exact ⟨⟨true, aluAdd, fun _ _ _ _ _ => rfl⟩, ⟨true, aluSub, fun _ _ _ _ _ => rfl⟩, ⟨true, fun _ a b => a &&& b, fun _ _ _ _ _ => rfl⟩,
    ⟨true, fun _ a b => a ||| b, fun _ _ _ _ _ => rfl⟩, ⟨true, fun _ a b => a ^^^ b, fun _ _ _ _ _ => rfl⟩,
    ⟨true, aluAndn, fun _ _ _ _ _ => rfl⟩, ⟨true, aluSll, fun _ _ _ _ _ => rfl⟩, ⟨false, aluSrl, fun _ _ _ _ _ => rfl⟩,
    ⟨true, aluSra, fun _ _ _ _ _ => rfl⟩, ⟨false, aluSlt, fun _ _ _ _ _ => rfl⟩, ⟨false, aluSltu, fun _ _ _ _ _ => rfl⟩,
    ⟨true, aluMin, fun _ _ _ _ _ => rfl⟩, ⟨true, aluMax, fun _ _ _ _ _ => rfl⟩, ⟨false, fun _ a b => min a b, fun _ _ _ _ _ => rfl⟩,
    ⟨false, fun _ a b => max a b, fun _ _ _ _ _ => rfl⟩⟩

/-- Settles O19: the empty port is among the ports the word waits on, and no other cause or wait comes first. -/
theorem emptyPortBlocks : Obligations.EmptyPortBlocks := by
  unfold Obligations.EmptyPortBlocks
  intro p hp d a b w s hr hj ha hb hd hpend h24 he hfill
  obtain ⟨sgn, op, hx⟩ := exec_aluTable p hp
  obtain ⟨body, hb'⟩ := alu2_issues s (p.1 d a b w) d a b w sgn op
  have hg := gate_none (fm := { instr := p.1 d a b w, rs := [a, b], ws := [d] }) (T := s.cur) (f := s.focus.2) rfl hj
    (by cases s.focus.2 <;> rfl) rfl (by simp [Form.dirOk, ha, hb, hd])
  have hw := hold_of_empty_source (fm := { instr := p.1 d a b w, rs := [a, b], ws := [d] }) (r := a) hpend rfl hfill (by simp) h24 he
  exact ⟨_, mem_portWaits_of_empty (by simp) h24 he, (hx d a b w s).trans (hb'.trans (issue_held hr hg hw (by simp) body))⟩

/-! ### The arrival of a value (R23, R28) -/

section
variable (T : Tile) (f : Front) (id : Nat) (v : Vec)

theorem reg_deliver_sreg {r : Nat} (h0 : 0 < r) (h : r < 24) : ((T.deliver f id (.sreg r) v).front f).reg r = v.setWidth 64 := by
  rw [Tile.deliver, Tile.front_wake, Tile.front_modFront]
  exact FrontState.reg_setReg _ _ h0 h

theorem pend_deliver_sreg (r : Nat) : ((T.deliver f id (.sreg r) v).front f).pend = (T.front f).pend.filter (fun p => p.2 != id) := by
  rw [Tile.deliver, Tile.front_wake, Tile.front_modFront]

theorem sport_deliver_sport {q : Nat} (h : q < 8) : (T.deliver f id (.sport q) v).sport q = fillSlot id (v.setWidth 64) (T.sport q) := by
  rw [Tile.deliver, Tile.sport_wake, Tile.sport_setSport _ _ h]

theorem vport_deliver_vport {q : Nat} (h : q < 4) : (T.deliver f id (.vport q) v).vport q = fillSlot id v (T.vport q) := by
  rw [Tile.deliver, Tile.vport_wake, Tile.vport_setVport _ _ h]

/-- A value that arrives changes registers, interlocks, ports and waits alone. -/
theorem deliver_kept (d : Dest) : T.deliver f id d v =
    { T with fa := (T.deliver f id d v).fa, fx := (T.deliver f id d v).fx, sq := (T.deliver f id d v).sq, vq := (T.deliver f id d v).vq } := by
  cases d <;> cases f <;> rfl

end

/-- Settles O14: the fill leaves the tile's list of fills and is delivered to its destination. -/
theorem loadedValueArrives : Obligations.LoadedValueArrives := by
  unfold Obligations.LoadedValueArrives
  intro t id x s hx hidle
  generalize hT : ({ s.tile t with fills := (s.tile t).fills.filter (fun y => y.id != id) } : Tile) = T
  have hk := deliver_kept T x.front id x.val x.dest
  have htile : (s.setTile t (T.deliver x.front id x.dest x.val)).tile t = T.deliver x.front id x.dest x.val :=
    State.tile_setTile s t (Tile.ne_reset_of_phase (by rw [hk, ← hT]; exact hidle))
  refine ⟨s.setTile t (T.deliver x.front id x.dest x.val), ?_, ?_, ?_, ?_, ?_, ?_, ?_, rfl, fun u hu => State.tile_setTile_other s _ hu⟩
  · rw [← hT]
    show execLocalLoadFill t id s = _
    simp only [execLocalLoadFill, hx]; rfl
  all_goals rw [htile]
  · intro r hd h0 h24
    rw [hd, reg_deliver_sreg T x.front id x.val h0 h24, pend_deliver_sreg, ← hT]
    exact ⟨rfl, by cases x.front <;> rfl⟩
  · intro q hd h8
    rw [hd, sport_deliver_sport T x.front id x.val h8, ← hT]; rfl
  · intro q hd h4
    rw [hd, vport_deliver_vport T x.front id x.val h4, ← hT]; rfl
  all_goals rw [hk, ← hT]

end Sys2Proof.Machine
end

section
/-! ## Proofs: words that trap at issue -/

/-! ### The enumerated fields of a word are bit fields (R52) -/

namespace Sys2Proof

def Width.field (x : Width) : BitVec 2 := BitVec.ofNat 2 x.code
theorem Width.code_eq_toNat (x : Width) : x.code = x.field.toNat := by cases x <;> rfl

def FFmt.field (x : FFmt) : BitVec 2 := BitVec.ofNat 2 x.code
theorem FFmt.code_eq_toNat (x : FFmt) : x.code = x.field.toNat := by cases x <;> rfl

def LoadSize.field (x : LoadSize) : BitVec 3 := BitVec.ofNat 3 x.code
theorem LoadSize.code_eq_toNat (x : LoadSize) : x.code = x.field.toNat := by cases x <;> rfl

def Scope.field (x : Scope) : BitVec 3 := BitVec.ofNat 3 x.code
theorem Scope.code_eq_toNat (x : Scope) : x.code = x.field.toNat := by cases x <;> rfl

def BrCond.field (x : BrCond) : BitVec 3 := BitVec.ofNat 3 x.code
theorem BrCond.code_eq_toNat (x : BrCond) : x.code = x.field.toNat := by cases x <;> rfl

def AmoOp.field (x : AmoOp) : BitVec 4 := BitVec.ofNat 4 x.code
theorem AmoOp.code_eq_toNat (x : AmoOp) : x.code = x.field.toNat := by cases x <;> rfl

def VCond.field (x : VCond) : BitVec 3 := BitVec.ofNat 3 x.code
theorem VCond.code_eq_toNat (x : VCond) : x.code = x.field.toNat := by cases x <;> rfl

def ROp.field (x : ROp) : BitVec 3 := BitVec.ofNat 3 x.code
theorem ROp.code_eq_toNat (x : ROp) : x.code = x.field.toNat := by cases x <;> rfl

def Shape.field (x : Shape) : BitVec 3 := BitVec.ofNat 3 x.code
theorem Shape.code_eq_toNat (x : Shape) : x.code = x.field.toNat := by cases x <;> rfl

def Sparsity.field (x : Sparsity) : BitVec 2 := BitVec.ofNat 2 x.code
theorem Sparsity.code_eq_toNat (x : Sparsity) : x.code = x.field.toNat := by cases x <;> rfl

def PageUnit.field (x : PageUnit) : BitVec 2 := BitVec.ofNat 2 x.code
theorem PageUnit.code_eq_toNat (x : PageUnit) : x.code = x.field.toNat := by cases x <;> rfl

theorem bitCode_eq_toNat (b : Bool) : bitCode b = (BitVec.ofBool b).toNat := by cases b <;> rfl

end Sys2Proof
namespace Sys2Proof.Machine

/-! ### The kinds of word, by the fronts and units they name (R20, R25) -/

/-- A scalar integer word (R81 to R86). -/
def integerWord : Instr → Bool
  | .add .. | .sub .. | .andd .. | .orr .. | .xorr .. | .andn .. | .sll .. | .srl .. | .sra .. | .slt .. | .sltu .. |
    .minn .. | .maxx .. | .minu .. | .maxu .. | .mul .. | .mulh .. | .mulhu .. | .div .. | .divu .. | .rem .. | .remu
    .. | .clz .. | .ffs .. | .popc .. | .brev .. | .bext .. | .bins .. | .sext .. | .addi .. | .andi .. | .ori .. |
    .xori .. | .slti .. | .sethi .. | .slli .. | .srli .. | .srai .. | .sel .. => true
  | _ => false

/-- A scalar floating-point word, a branch, or a scratchpad access (R87 to R94). -/
def flowWord : Instr → Bool
  | .fadd .. | .fsub .. | .fmul .. | .fmin .. | .fmax .. | .fcmpEq .. | .fcmpNe .. | .fcmpLt .. | .fcmpLe .. | .fcmpUn
    .. | .ffma .. | .fcvt .. | .br .. | .jal .. | .jalr .. | .lds .. | .sts .. => true
  | _ => false

/-- A status, hint or system word that both fronts may issue. -/
def controlWord : Instr → Bool
  | .qstat .. | .qdrain .. | .rstat .. | .trap .. | .csrr .. | .csrw .. | .csrx .. | .himm .. | .hmod .. | .hpri .. |
    .nop | .endStrand | .eret => true
  | _ => false

/-- A memory word, scalar or vector (R95, R118). -/
def memoryWord : Instr → Bool
  | .ld .. | .st .. | .amo .. | .cas .. | .red .. | .fence .. | .promote .. | .hash .. | .claim .. | .cfulfil .. |
    .cabandon .. | .cpin .. | .cunpin .. | .vlds .. | .vldt .. | .vld .. | .vsts .. | .vst .. => true
  | _ => false

/-- A channel, ring, copy, stream, barrier, graph or collective word. -/
def engineWord : Instr → Bool
  | .signal .. | .waitch .. | .block .. | .unblock .. | .rset .. | .rpush .. | .copy .. | .copyc .. | .mcast .. |
    .sopen .. | .sclose .. | .scfg .. | .binit .. | .bexpect .. | .barrive .. | .bwait .. | .btest .. | .instantiate
    .. | .decr .. | .gcancelJob .. | .gcancelPhase .. | .gcancelGraph .. | .gcancelTask .. | .fwpush .. | .fwpop .. |
    .carrive .. | .cwait .. | .ldx .. | .stx .. => true
  | _ => false

/-- A fibre word (R300). -/
def fibreWord : Instr → Bool
  | .fcfg .. | .frun .. | .fstat .. => true
  | _ => false

/-- A word of the system group for the access front only (R340 to R346). -/
def platformWord : Instr → Bool
  | .freeze .. | .scrub .. | .invpg .. | .waysetCw .. | .waysetShare .. | .lehrArm .. | .lehrStat .. | .lehrDisarm ..
    | .jcfg .. | .perfsel .. => true
  | _ => false

/-- A vector integer word. -/
def vectorWord : Instr → Bool
  | .vadd .. | .vsub .. | .vmul .. | .vmulh .. | .vmin .. | .vmax .. | .vabs .. | .vneg .. | .vand .. | .vor .. |
    .vxor .. | .vsll .. | .vsrl .. | .vsra .. | .vclz .. | .vffs .. | .vpopc .. => true
  | _ => false

/-- A vector floating-point, lane or mask word. -/
def vectorFloatWord : Instr → Bool
  | .vaddF .. | .vsubF .. | .vmulF .. | .vminF .. | .vmaxF .. | .vabsF .. | .vnegF .. | .vfma .. | .vfms .. | .vcmp ..
    | .vsel .. | .vbcast .. | .vextr .. | .viota .. | .vperm .. | .vscl .. | .vcvt .. | .vred .. | .vscan .. | .vexp2
    .. | .vlog2 .. | .vrcp .. | .vrsq .. | .vtanh .. | .kand .. | .kor .. | .knot .. | .kpopc .. => true
  | _ => false

/-- A word of the matrix unit (R133 to R147). -/
def matrixWord : Instr → Bool
  | .mma .. | .mmaArm .. | .mdis .. | .mzero .. | .mflush .. | .mload .. | .msca .. => true
  | _ => false

/-- A chain word or TSWAP (majors 0x34 and 0x35). -/
def chainWord : Instr → Bool
  | .cset .. | .cgo .. | .cstat .. | .tswap .. => true
  | _ => false

/-- The words that R25 gives to the access front alone. -/
def accessOnly (i : Instr) : Bool := memoryWord i || engineWord i || fibreWord i || platformWord i

/-- The words that R25 gives to the execute front alone. -/
def executeOnly (i : Instr) : Bool := vectorWord i || vectorFloatWord i || matrixWord i || chainWord i

/-- Every word is of one of the kinds. -/
theorem isWord_kind (i : Instr) : i.isWord = (integerWord i || flowWord i || controlWord i || accessOnly i || executeOnly i) := by
  cases i <;> rfl

/-! ### The front of a word is fixed by the constant part of its encoding -/

theorem pack_nil (m : Nat) : pack m [] = m := by rw [pack, List.foldl_nil]

theorem pack_cons (m v lo : Nat) (fs : List (Nat × Nat)) : pack m ((v, lo) :: fs) = pack (m + v * 2 ^ lo) fs := by
  rw [pack, List.foldl_cons, pack]

/-- A word agrees with its constant part in all that R25 looks at. -/
structure SameFront (w m : Nat) : Prop where
  major : w / 2 ^ 26 = m / 2 ^ 26
  ring : m / 2 ^ 26 = 0x33 → w % 2 ^ 11 = m % 2 ^ 11
  sys : m / 2 ^ 26 = 0x3D → w / 2 ^ 12 % 16 = m / 2 ^ 12 % 16

theorem SameFront.frontAllows_eq {w m : Nat} (h : SameFront w m) (f : Front) : frontAllows w f = frontAllows m f := by
  obtain ⟨hm, h33, h3D⟩ := h
  by_cases h1 : m / 2 ^ 26 = 0x33
  · simp only [frontAllows, hm, h33 h1, h1]; cases f <;> rfl
  · by_cases h2 : m / 2 ^ 26 = 0x3D
    · simp only [frontAllows, hm, h3D h2, h2]; cases f <;> rfl
    · simp only [frontAllows, hm, beq_eq_false_iff_ne.2 h1, beq_eq_false_iff_ne.2 h2, Bool.false_and]

/-- What a constant part says of a word's fronts and unit. -/
structure NamesFront (i : Instr) (m : Nat) : Prop where
  onA : frontAllows m .a = !executeOnly i
  onX : frontAllows m .x = !accessOnly i
  matrix : matrixWord i = [0x30, 0x31, 0x32].contains (m / 2 ^ 26)
  fibre : fibreWord i = (m / 2 ^ 26 == 0x39)

/-- The fields of a word lie beside the bits that name its front and unit. -/
theorem encodeWord_constPart (i : Instr) (h : i.isWord = true) : ∃ m, SameFront (encodeWord i) m ∧ NamesFront i m := by
  have key : ∀ {w m fs}, w = pack m fs → SameFront (pack m fs) m → SameFront w m := fun h k => h ▸ k
  cases i <;> cases h
  all_goals refine ⟨_, key (by delta encodeWord; exact rfl) ?_, rfl, rfl, rfl, rfl⟩
  all_goals
    simp only [pack_cons, pack_nil, Width.code_eq_toNat, FFmt.code_eq_toNat, LoadSize.code_eq_toNat, Scope.code_eq_toNat,
      BrCond.code_eq_toNat, AmoOp.code_eq_toNat, VCond.code_eq_toNat, ROp.code_eq_toNat, Shape.code_eq_toNat,
      Sparsity.code_eq_toNat, PageUnit.code_eq_toNat, bitCode_eq_toNat]
    refine ⟨?_, ?_, ?_⟩ <;> omega

/-- R25 and R20 read off a word's encoding what its kind says. -/
theorem encodeWord_namesFront {i : Instr} (h : i.isWord = true) : NamesFront i (encodeWord i) := by
  obtain ⟨m, hs, hA, hX, hm, hf⟩ := encodeWord_constPart i h
  exact ⟨by rw [hs.frontAllows_eq, hA], by rw [hs.frontAllows_eq, hX], by rw [hs.major, hm], by rw [hs.major, hf]⟩

/-! ### The form that a word issues with -/

/-- A word whose fields raise a cause traps with it, and with the word as tval. -/
theorem issue_trap {s : State} {fm : Form} {c : Nat} (hr : s.cur.runs s.focus.2 = true)
    (hg : fm.gate s.cur s.focus.1 s.focus.2 = some c) (body : State → Issue → Verdict) :
    issue s fm body = .next (preciseTrap s c (wordVal fm.instr)) := by
  unfold State.cur at hr hg
  simp only [issue, hr, hg, Bool.not_true, Bool.false_eq_true, if_false]

/-- An outcome is a running word's of the form `fm`, as far as the causes at its gate go. -/
def IssuesAs (s : State) (o : Out) (fm : Form) : Prop :=
  ∀ c, s.cur.runs s.focus.2 = true → fm.gate s.cur s.focus.1 s.focus.2 = some c → o = .next (preciseTrap s c (wordVal fm.instr))

theorem issue_issuesAs (s : State) (fm : Form) (body : State → Issue → Verdict) : IssuesAs s (issue s fm body) fm :=
  fun _ hr hg => issue_trap hr hg body

theorem issueHint_issuesAs (s : State) (i : Instr) (again : Hints → Bool) (put : Hints → Hints) :
    IssuesAs s (issueHint s i again put) { instr := i } := by
  intro c hr hg
  unfold State.cur at hr hg
  simp only [issueHint, hr, hg, Bool.not_true, Bool.false_eq_true, if_false]

/-- The form that a word issues with: its fronts, its unit where the tile has it, and its need of service level. -/
structure WordForm (i : Instr) (s : State) (fm : Form) : Prop where
  issues : IssuesAs s (exec i s) fm
  instr : fm.instr = i
  onA : fm.onA = !executeOnly i
  onX : fm.onX = !accessOnly i
  unit : i.wf = true → (fibreWord i = true → fibreHere s = true) → (matrixWord i = true → isF s.focus.1 = false) → fm.unit = true
  svc : serviceWord i = true → fm.svc = true

/-- A word that names no unit of a kind of tile and needs no service level. -/
theorem WordForm.of_plain {i : Instr} {s : State} {fm : Form} (issues : IssuesAs s (exec i s) fm) (instr : fm.instr = i)
    (onA : fm.onA = !executeOnly i) (onX : fm.onX = !accessOnly i) (unit : fm.unit = true) (svc : serviceWord i = false) : WordForm i s fm where
  issues := issues
  instr := instr
  onA := onA
  onX := onX
  unit _ _ _ := unit
  svc h := absurd (svc.symm.trans h) Bool.false_ne_true

theorem accOk_of_not_isF {t : Nat} (h : isF t = false) (acc : Nat) : accOk t acc = true := by simp [accOk, h]

theorem regionOk_of_not_isF {t : Nat} (h : isF t = false) (acc : Nat) (sh : Shape) : regionOk t acc sh = true := by simp [regionOk, accOk, h]

section
variable {i : Instr} (s : State)

-- One lemma per kind of word. `delta` takes the word's branch of `exec`; unfolding the shared helpers then shows its form to `issue`.

theorem integer_form (h : integerWord i = true) : ∃ fm, WordForm i s fm := by
  cases i <;> cases h
  all_goals exact ⟨_, .of_plain (by
      delta exec
      simp only [execAdd, execSub, execAndd, execOrr, execXorr, execAndn, execSll, execSrl, execSra, execSlt, execSltu, execMinn,
        execMaxx, execMinu, execMaxu, execMul, execMulh, execMulhu, execDiv, execDivu, execRem, execRemu, execClz, execFfs,
        execPopc, execBrev, execBext, execBins, execSext, execAddi, execAndi, execOri, execXori, execSlti, execSethi,
        execSlli, execSrli, execSrai, execSel, alu2, issueS, issueTile, alu1, aluImm, shiftImm]
      exact issue_issuesAs _ _ _)
      (by rfl) (by rfl) (by rfl) (by rfl) (by rfl)⟩

theorem flow_form (h : flowWord i = true) : ∃ fm, WordForm i s fm := by
  cases i <;> cases h
  all_goals exact ⟨_, .of_plain (by
      delta exec
      simp only [execFadd, execFsub, execFmul, execFmin, execFmax, execFcmpEq, execFcmpNe, execFcmpLt, execFcmpLe, execFcmpUn,
        execFfma, execFcvt, execBr, execJal, execJalr, execLds, execSts, fRounding, issueTile, fExact, issueS]
      exact issue_issuesAs _ _ _)
      (by rfl) (by rfl) (by rfl) (by rfl) (by rfl)⟩

theorem control_form (h : controlWord i = true) : ∃ fm, WordForm i s fm := by
  cases i <;> cases h
  case himm | hmod | hpri => exact ⟨_, .of_plain (by delta exec; simp only [execHimm, execHmod, execHpri]; exact issueHint_issuesAs _ _ _ _)
      (by rfl) (by rfl) (by rfl) (by rfl) (by rfl)⟩
  case eret => exact ⟨_, by
      delta exec
      simp only [execEret]
      exact issue_issuesAs _ _ _, by rfl, by rfl, by rfl, fun _ _ _ => rfl, fun _ => rfl⟩
  case csrw | csrx => exact ⟨_, by
      delta exec
      simp only [execCsrw, execCsrx]
      exact issue_issuesAs _ _ _, by rfl, by rfl, by rfl, fun hw _ _ => hw, id⟩
  case csrr => exact ⟨_, by
      delta exec
      simp only [execCsrr, issueS, issueTile]
      exact issue_issuesAs _ _ _, by rfl, by rfl, by rfl, fun hw _ _ => hw, fun h => by cases h⟩
  all_goals exact ⟨_, .of_plain (by
      delta exec
      simp only [execQstat, execQdrain, execRstat, execTrap, execNop, execEndStrand, issueS, issueTile]
      exact issue_issuesAs _ _ _)
      (by rfl) (by rfl) (by rfl) (by rfl) (by rfl)⟩

theorem memory_form (h : memoryWord i = true) : ∃ fm, WordForm i s fm := by
  cases i <;> cases h
  all_goals exact ⟨_, .of_plain (by
      delta exec
      simp only [execLd, execSt, execAmo, execCas, execRed, execFence, execPromote, execHash, execClaim, execCfulfil, execCabandon,
        execCpin, execCunpin, execVlds, execVldt, execVld, execVsts, execVst, issueTile, claimOp]
      exact issue_issuesAs _ _ _)
      (by rfl) (by rfl) (by rfl) (by rfl) (by rfl)⟩

theorem engine_form (h : engineWord i = true) : ∃ fm, WordForm i s fm := by
  cases i <;> cases h
  all_goals exact ⟨_, .of_plain (by
      delta exec
      simp only [execSignal, execWaitch, execBlock, execUnblock, execRset, execRpush, execCopy, execCopyc, execMcast, execSopen,
        execSclose, execScfg, execBinit, execBexpect, execBarrive, execBwait, execBtest, execInstantiate, execDecr,
        execGcancelJob, execGcancelPhase, execGcancelGraph, execGcancelTask, execFwpush, execFwpop, execCarrive, execCwait,
        execLdx, execStx, blockOn, startCopy, onBarrier, gcancel]
      exact issue_issuesAs _ _ _)
      (by rfl) (by rfl) (by rfl) (by rfl) (by rfl)⟩

theorem fibre_form (h : fibreWord i = true) : ∃ fm, WordForm i s fm := by
  cases i <;> cases h
  all_goals exact ⟨_, by
      delta exec
      simp only [execFcfg, execFrun, execFstat, issueS, issueTile]
      exact issue_issuesAs _ _ _, by rfl, by rfl, by rfl, fun _ h _ => h rfl, fun h => by cases h⟩

theorem platform_form (h : platformWord i = true) : ∃ fm, WordForm i s fm := by
  cases i <;> cases h
  all_goals refine ⟨_, by
      delta exec
      simp only [execFreeze, execScrub, execInvpg, execWaysetCw, execWaysetShare, execLehrArm, execLehrStat, execLehrDisarm, execJcfg,
        execPerfsel, capable, capableImage]
      exact issue_issuesAs _ _ _, by rfl, by rfl, by rfl, fun hw _ _ => ?_, fun h => ?_⟩
  case jcfg.refl.refine_1 => exact hw
  case freeze.refl.refine_2 | scrub.refl.refine_2 | perfsel.refl.refine_2 => cases h
  all_goals rfl

theorem vector_form (h : vectorWord i = true) : ∃ fm, WordForm i s fm := by
  cases i <;> cases h
  all_goals exact ⟨_, .of_plain (by
      delta exec
      simp only [execVadd, execVsub, execVmul, execVmulh, execVmin, execVmax, execVabs, execVneg, execVand, execVor, execVxor,
        execVsll, execVsrl, execVsra, execVclz, execVffs, execVpopc, vec2, issueTile, vec1]
      exact issue_issuesAs _ _ _)
      (by rfl) (by rfl) (by rfl) (by rfl) (by rfl)⟩

theorem vectorFloat_form (h : vectorFloatWord i = true) : ∃ fm, WordForm i s fm := by
  cases i <;> cases h
  all_goals exact ⟨_, .of_plain (by
      delta exec
      simp only [execVaddF, execVsubF, execVmulF, execVminF, execVmaxF, execVabsF, execVnegF, execVfma, execVfms, execVcmp, execVsel,
        execVbcast, execVextr, execViota, execVperm, execVscl, execVcvt, execVred, execVscan, execVexp2, execVlog2, execVrcp,
        execVrsq, execVtanh, execKand, execKor, execKnot, execKpopc, vecF, issueTile, vecRop, vecSpecial]
      exact issue_issuesAs _ _ _)
      (by rfl) (by rfl) (by rfl) (by rfl) (by rfl)⟩

theorem matrix_form (h : matrixWord i = true) : ∃ fm, WordForm i s fm := by
  cases i <;> cases h
  all_goals refine ⟨_, by
      delta exec
      simp only [execMma, execMmaArm, execMdis, execMzero, execMflush, execMload, execMsca, issueMma]
      exact issue_issuesAs _ _ _, by rfl, by rfl, by rfl, fun _ _ h => ?_, fun h => by cases h⟩
  case mma | mmaArm | mdis | mzero => exact accOk_of_not_isF (h rfl) _
  case mflush | mload => exact regionOk_of_not_isF (h rfl) _ _
  case msca => exact Bool.and_eq_true_iff.2 ⟨regionOk_of_not_isF (h rfl) _ _, accOk_of_not_isF (h rfl) _⟩

theorem chain_form (h : chainWord i = true) : ∃ fm, WordForm i s fm := by
  cases i <;> cases h
  all_goals exact ⟨_, .of_plain (by
      delta exec
      simp only [execCset, execCgo, execCstat, execTswap]
      exact issue_issuesAs _ _ _)
      (by rfl) (by rfl) (by rfl) (by rfl) (by rfl)⟩

/-- Every word issues with a form of its kind. -/
theorem word_form (h : i.isWord = true) : ∃ fm, WordForm i s fm := by
  simp only [isWord_kind, accessOnly, executeOnly, Bool.or_eq_true] at h
  rcases h with (((h | h) | h) | ((h | h) | h) | h) | ((h | h) | h) | h
  · exact integer_form s h
  · exact flow_form s h
  · exact control_form s h
  · exact memory_form s h
  · exact engine_form s h
  · exact fibre_form s h
  · exact platform_form s h
  · exact vector_form s h
  · exact vectorFloat_form s h
  · exact matrix_form s h
  · exact chain_form s h

end

/-- A form's fronts are those R25 gives its word. -/
theorem WordForm.frontOk_eq {i : Instr} {s : State} {fm : Form} (hf : WordForm i s fm) (h : i.isWord = true) (f : Front) :
    fm.frontOk f = frontAllows (encodeWord i) f := by
  have hn := encodeWord_namesFront h
  cases f with
  | a => exact hf.onA.trans hn.onA.symm
  | x => exact hf.onX.trans hn.onX.symm

/-- A word of service level names no unit of a kind of tile. -/
theorem serviceWord_no_unit {i : Instr} (h : serviceWord i = true) : i.isWord = true ∧ fibreWord i = false ∧ matrixWord i = false := by
  cases i
  case csrw | csrx => exact ⟨rfl, rfl, rfl⟩
  all_goals cases h
  all_goals exact ⟨rfl, rfl, rfl⟩

/-- Settles O18: at the gate of the form that the word issues with, the front comes after the unit and before service level (R64). -/
theorem frontAndPrivilegeTraps : Obligations.FrontAndPrivilegeTraps := by
  unfold Obligations.FrontAndPrivilegeTraps
  refine ⟨fun i s hi hw hr hj hfib hmat hfr => ?_, fun i s hw hsv hr hj hl hfr => ?_⟩
  · obtain ⟨fm, hf⟩ := word_form s hi
    have hn := encodeWord_namesFront hi
    have hu : fm.unit = true := hf.unit hw (fun h => by simp [fibreHere, hj, hfib (beq_iff_eq.1 (hn.fibre ▸ h))]) (fun h => hmat (hn.matrix ▸ h))
    rw [hf.issues 0x02 hr (by simp [Form.gate, hu, hj, hf.frontOk_eq hi, hfr]), hf.instr]; rfl
  · obtain ⟨hi, hfib, hmat⟩ := serviceWord_no_unit hsv
    obtain ⟨fm, hf⟩ := word_form s hi
    have hu : fm.unit = true := hf.unit hw (fun h => by simp [hfib] at h) (fun h => by simp [hmat] at h)
    rw [hf.issues 0x03 hr (by simp [Form.gate, hu, hj, hf.frontOk_eq hi, hfr, hf.svc hsv, hl]), hf.instr]; rfl

end Sys2Proof.Machine
end

section
/-! ## Proofs: dies and their records, the deadlock trap, channels, the watchdog -/

namespace Sys2Proof.Machine

/-! ### What the operations on a die, a tile and the agenda leave alone -/

section
variable (s : State) (d : Nat)

theorem die_setDie (D : Die) : (s.setDie d D).die d = D := by unfold State.setDie State.die; split <;> rfl

@[simp] theorem die_modDie (f : Die → Die) : (s.modDie d f).die d = f (s.die d) := die_setDie s d _

@[simp] theorem die_setTile (u : Nat) (T : Tile) : (s.setTile u T).die d = s.die d := rfl
@[simp] theorem die_modTile (u : Nat) (f : Tile → Tile) : (s.modTile u f).die d = s.die d := rfl
@[simp] theorem die_post (e : Instr) : (s.post e).die d = s.die d := rfl

/-- A change of a die changes a die alone. -/
theorem setDie_kept (D : Die) : s.setDie d D = { s with die0 := (s.setDie d D).die0, die1 := (s.setDie d D).die1 } := by
  unfold State.setDie; split <;> rfl

theorem modDie_kept (f : Die → Die) : s.modDie d f = { s with die0 := (s.modDie d f).die0, die1 := (s.modDie d f).die1 } :=
  setDie_kept s d _

@[simp] theorem tile_modDie (f : Die → Die) (u : Nat) : (s.modDie d f).tile u = s.tile u := by rw [modDie_kept]; rfl
@[simp] theorem agenda_modDie (f : Die → Die) : (s.modDie d f).agenda = s.agenda := by rw [modDie_kept]
@[simp] theorem cyc_modDie (f : Die → Die) : (s.modDie d f).cyc = s.cyc := by rw [modDie_kept]
@[simp] theorem ctx_modDie (f : Die → Die) (c : Nat) : (s.modDie d f).ctx c = s.ctx c := by rw [modDie_kept]; rfl
@[simp] theorem vf_modDie (f : Die → Die) (v : Nat) : (s.modDie d f).vf v = s.vf v := by rw [modDie_kept]; rfl

@[simp] theorem tile_post (e : Instr) (u : Nat) : (s.post e).tile u = s.tile u := rfl

theorem tile_modTile (u : Nat) {f : Tile → Tile} (h : f (s.tile u) ≠ Tile.reset) : (s.modTile u f).tile u = f (s.tile u) :=
  State.tile_setTile s u h

theorem tile_modTile_other {u v : Nat} (f : Tile → Tile) (h : v ≠ u) : (s.modTile u f).tile v = s.tile v :=
  State.tile_setTile_other s _ h

end

/-! ### Records and graphs of a die -/

section
variable (s : State) (d i j : Nat)

@[simp] theorem tile_modRec (f : Rec → Rec) (u : Nat) : (s.modRec d i j f).tile u = s.tile u := tile_modDie s d _ u
@[simp] theorem agenda_modRec (f : Rec → Rec) : (s.modRec d i j f).agenda = s.agenda := agenda_modDie s d _

@[simp] theorem tile_progress (u : Nat) : (s.progress d i).tile u = s.tile u := tile_modDie s d _ u
@[simp] theorem agenda_progress : (s.progress d i).agenda = s.agenda := agenda_modDie s d _
@[simp] theorem rec?_progress (i' j' : Nat) : (s.progress d i).rec? d i' j' = s.rec? d i' j' := by
  simp [State.rec?, State.progress, State.modGraph]

@[simp] theorem rec?_post (e : Instr) : (s.post e).rec? d i j = s.rec? d i j := rfl

variable {s d i j}

theorem rec?_named {r : Rec} (h : s.rec? d i j = some r) : r.inst = i ∧ r.tidx = j := by
  simpa using List.find?_some h

theorem rec?_mem {r : Rec} (h : s.rec? d i j = some r) : r ∈ (s.die d).recs := List.mem_of_find?_eq_some h

/-- A record that is changed and keeps its name is found changed. -/
theorem rec?_modRec {f : Rec → Rec} (hf : ∀ r, (f r).inst = r.inst ∧ (f r).tidx = r.tidx) :
    (s.modRec d i j f).rec? d i j = (s.rec? d i j).map f := by
  have hp : (fun r : Rec => r.inst == i && r.tidx == j) ∘ (fun r => if r.inst == i && r.tidx == j then f r else r) =
      fun r => r.inst == i && r.tidx == j := by
    funext r
    simp only [Function.comp_apply]
    split
    · obtain ⟨h1, h2⟩ := hf r; rw [h1, h2]
    · rfl
  simp only [State.rec?, State.modRec, die_modDie, List.find?_map, hp]
  cases hq : (s.die d).recs.find? (fun r => r.inst == i && r.tidx == j) with
  | none => rfl
  | some r => simp only [Option.map_some, List.find?_some hq, if_true]

end

/-! ### A spilled record returns (R193) -/

theorem execSpillRefill_of_room {s : State} {d : Nat} {r : Rec} (hroom : (s.die d).resident < 65472)
    (hr : ((s.die d).recs.filter (fun q => q.live && q.spill.isSome)).find? (fun q => q.dep == 0) = some r) :
    execSpillRefill d s = .next ((s.modRec d r.inst r.tidx (fun q => { q with spill := none })).post (.placementPass d)) := by
  have hfull : ¬ recordsTotal - reserveTotal ≤ (s.die d).resident := Nat.not_le.2 hroom
  simp only [execSpillRefill, hfull, if_false, hr]

/-! ### The trap of a decoupling deadlock (R33, R309) -/

theorem toNat_append_eq {m n : Nat} (x : BitVec m) (y : BitVec n) : (x ++ y).toNat = x.toNat * 2 ^ n + y.toNat := by
  rw [BitVec.toNat_append, ← Nat.shiftLeft_add_eq_or_of_lt y.isLt, Nat.shiftLeft_eq]

theorem causeWord_toNat (ipc : Pc) (cls : BitVec 3) (f : Front) (code : BitVec 8) :
    (causeWord ipc cls f code).toNat = ipc.toNat * 2 ^ 32 + cls.toNat * 2 ^ 12 + f.code * 2 ^ 8 + code.toNat := by
  cases f with
  | a =>
    unfold causeWord
    have h : (0#16 ++ ipc ++ 0#17 ++ cls ++ 0#3 ++ 0#1 ++ code).toNat = ipc.toNat * 2 ^ 32 + cls.toNat * 2 ^ 12 + 0 * 2 ^ 8 + code.toNat := by
      simp only [toNat_append_eq, BitVec.toNat_ofNat]; omega
    exact h
  | x =>
    unfold causeWord
    have h : (0#16 ++ ipc ++ 0#17 ++ cls ++ 0#3 ++ 1#1 ++ code).toNat = ipc.toNat * 2 ^ 32 + cls.toNat * 2 ^ 12 + 1 * 2 ^ 8 + code.toNat := by
      simp only [toNat_append_eq, BitVec.toNat_ofNat]; omega
    exact h

theorem tcauseOf_eq_causeWord (ipc : Pc) (cls : BitVec 3) (f : Front) (code : BitVec 8) :
    tcauseOf ipc cls.toNat f code.toNat = causeWord ipc cls f code := by
  rw [tcauseOf, ← causeWord_toNat, BitVec.ofNat_toNat, BitVec.setWidth_eq]

/-- The mask of a handler entry clears its two lowest bits. -/
theorem entryOf_eq_shift (p : BitVec 16) : entryOf p = (p >>> 2) <<< 2 := by
  unfold entryOf
  ext i hi
  simp only [BitVec.getElem_and, BitVec.getElem_shiftLeft, BitVec.getElem_ushiftRight]
  interval_cases i <;> simp [BitVec.getLsbD_eq_getElem]

theorem align4_toNat (p : BitVec 16) : align4 p.toNat = entryOf p := by
  rw [entryOf_eq_shift]
  apply BitVec.eq_of_toNat_eq
  simp only [align4, BitVec.toNat_ofNat, BitVec.toNat_shiftLeft, BitVec.toNat_ushiftRight, Nat.shiftLeft_eq, Nat.shiftRight_eq_div_pow]

/-- The handler entries of tvec, as `bits` and as extracts. -/
theorem align4_bits_tvec (w : Word) :
    align4 (bits w 15 0) = entryOf (w.extractLsb' 0 16) ∧ align4 (bits w 31 16) = entryOf (w.extractLsb' 16 16) := by
  simp only [← align4_toNat, BitVec.extractLsb'_toNat, Nat.shiftRight_eq_div_pow, bits, fld]
  exact ⟨trivial, trivial⟩

/-- The trap of a strand at user level with its handler enabled. -/
theorem takeTrap_handlerEntered {s : State} {u : Nat} (hslv : (s.tile u).slv = false) (hen : (s.tile u).tvec.getLsbD 32 = true)
    (code : BitVec 8) (cls : BitVec 3) (f : Front) (ipc : Pc) (val : Word) :
    HandlerEntered s (takeTrap s u code.toNat cls.toNat f ipc val) u code cls f ipc val := by
  have hbit : bits (s.tile u).tvec 32 32 ≠ 0 := by
    intro h
    rw [BitVec.getLsbD, Nat.testBit_eq_decide_div_mod_eq, decide_eq_true_eq] at hen
    simp only [bits, fld] at h
    omega
  have ht : takeTrap s u code.toNat cls.toNat f ipc val = s.setTile u ((s.tile u).enterTrap code.toNat cls.toNat f ipc val) := by
    simp only [takeTrap, hslv, hbit, if_false, Bool.false_eq_true]
  have hne : (s.tile u).enterTrap code.toNat cls.toNat f ipc val ≠ Tile.reset := fun h => Bool.noConfusion (congrArg Tile.slv h)
  obtain ⟨hA, hX⟩ := align4_bits_tvec (s.tile u).tvec
  rw [ht]
  refine ⟨?_, rfl, fun v hv => State.tile_setTile_other s _ hv⟩
  rw [State.tile_setTile s u hne, Tile.enterTrap, tcauseOf_eq_causeWord, hA, hX]; rfl

theorem execDecouplingDeadlock_handlerEntered {s : State} {u : Nat} {ps : List Nat} (hd : (s.tile u).deadlock = some ps)
    (hslv : (s.tile u).slv = false) (hen : (s.tile u).tvec.getLsbD 32 = true) : ∃ t, execDecouplingDeadlock u s = .next t ∧
      HandlerEntered s t u 0x05 0 .a (if (s.tile u).fa.ended then (s.tile u).fa.endPc else (s.tile u).fa.pc) (portBits ps) :=
  ⟨_, by simp only [execDecouplingDeadlock, hd]; rfl, takeTrap_handlerEntered hslv hen 0x05 0 .a _ _⟩

/-! ### The channel that is taken (R169, R203) -/

/-- One channel is considered after those before it. -/
def Tile.pickStep (T : Tile) (best : Option Nat) (c : Nat) : Option Nat :=
  if (T.chan c).eligible then
    match best with
    | none => some c
    | some b => if (T.chan b).cpri.toNat < (T.chan c).cpri.toNat then some c else best
  else best

theorem Tile.pickChan_eq_foldl (T : Tile) : T.pickChan = (List.range 16).foldl T.pickStep none := rfl

/-- The best of the first n channels. -/
inductive Tile.Best (T : Tile) (n : Nat) : Option Nat → Prop
  | none (h : ∀ k, k < n → (T.chan k).eligible = false) : T.Best n none
  | some (c : Nat) (hc : c < n) (he : (T.chan c).eligible = true) (hbest : ∀ k, k < n → (T.chan k).eligible = true →
      (T.chan k).cpri < (T.chan c).cpri ∨ ((T.chan k).cpri = (T.chan c).cpri ∧ c ≤ k)) : T.Best n (some c)

theorem Tile.pickStep_best {T : Tile} {n : Nat} {o : Option Nat} (h : T.Best n o) : T.Best (n + 1) (T.pickStep o n) := by
  by_cases he : (T.chan n).eligible = true
  · cases h with
    | none hn =>
      rw [pickStep, if_pos he]
      refine .some n (Nat.lt_succ_self n) he (fun k hk hke => ?_)
      rcases Nat.lt_succ_iff_lt_or_eq.1 hk with hk | rfl
      · exact absurd hke (by simp [hn k hk])
      · exact .inr ⟨rfl, Nat.le_refl k⟩
    | some c hc hce hbest =>
      by_cases hlt : (T.chan c).cpri.toNat < (T.chan n).cpri.toNat
      · simp only [pickStep, if_pos he, if_pos hlt]
        refine .some n (Nat.lt_succ_self n) he (fun k hk hke => ?_)
        rcases Nat.lt_succ_iff_lt_or_eq.1 hk with hk | rfl
        · rcases hbest k hk hke with hb | ⟨hb, -⟩
          · exact .inl (BitVec.lt_def.2 (Nat.lt_trans (BitVec.lt_def.1 hb) hlt))
          · exact .inl (hb ▸ BitVec.lt_def.2 hlt)
        · exact .inr ⟨rfl, Nat.le_refl k⟩
      · simp only [pickStep, if_pos he, if_neg hlt]
        refine .some c (Nat.lt_succ_of_lt hc) hce (fun k hk hke => ?_)
        rcases Nat.lt_succ_iff_lt_or_eq.1 hk with hk | rfl
        · exact hbest k hk hke
        · rcases Nat.lt_or_eq_of_le (Nat.le_of_not_lt hlt) with hb | hb
          · exact .inl (BitVec.lt_def.2 hb)
          · exact .inr ⟨BitVec.eq_of_toNat_eq hb, Nat.le_of_lt hc⟩
  · rw [show T.pickStep o n = o from if_neg he]
    have hn : ∀ k, k < n + 1 → (T.chan k).eligible = true → k < n := fun k hk hke =>
      (Nat.lt_succ_iff_lt_or_eq.1 hk).resolve_right (fun hkn => he (hkn ▸ hke))
    cases h with
    | none h => exact .none (fun k hk => by_contra fun hke => hke (h k (hn k hk (by simpa using hke))))
    | some c hc hce hbest => exact .some c (Nat.lt_succ_of_lt hc) hce (fun k hk hke => hbest k (hn k hk hke) hke)

theorem Tile.foldl_pickStep_best (T : Tile) (n : Nat) : T.Best n ((List.range n).foldl T.pickStep none) := by
  induction n with
  | zero => exact .none (fun k hk => absurd hk (Nat.not_lt_zero k))
  | succ n ih => rw [List.range_succ, List.foldl_append]; exact pickStep_best ih

theorem Tile.pickChan_best (T : Tile) : T.Best 16 T.pickChan := by
  rw [pickChan_eq_foldl]; exact T.foldl_pickStep_best 16

theorem Tile.pickChan_none {T : Tile} (h : ∀ c, c < 16 → (T.chan c).eligible = false) : T.pickChan = none := by
  have hb := T.pickChan_best
  cases hp : T.pickChan with
  | none => rfl
  | some c =>
    rw [hp] at hb
    cases hb with
    | some c hc he hbest => exact absurd he (by simp [h c hc])

theorem Tile.pickChan_takes {T : Tile} {c : Nat} (h : TakesChannel T c) : T.pickChan = some c := by
  obtain ⟨hc, he, hmax⟩ := h
  have hb := T.pickChan_best
  cases hp : T.pickChan with
  | none => rw [hp] at hb; cases hb with | none hn => exact absurd he (by simp [hn c hc])
  | some b =>
    rw [hp] at hb
    cases hb with
    | some b hb16 hbe hbmax =>
      have h1 := hmax b hb16 hbe
      have h2 := hbmax c hc he
      simp only [BitVec.lt_def] at h1 h2
      rcases h1 with h1 | ⟨h1, h3⟩
      · rcases h2 with h2 | ⟨h2, -⟩
        · omega
        · rw [h2] at h1; omega
      · rcases h2 with h2 | ⟨-, h4⟩
        · rw [h1] at h2; omega
        · exact congrArg some (by omega)

/-! ### The end of a strand in event mode (R31, R170) -/

theorem execStrandRetire_waits {s : State} {u : Nat} (hj : isJack u = false) (hp : (s.tile u).phase = .running) (hd : AllDone s u)
    (hev : (s.tile u).events = true) (hc : ∀ c, c < 16 → ((s.tile u).chan c).eligible = false) :
    execStrandRetire u s = .next (s.modTile u (fun T => { T with phase := .waiting })) := by
  have hd' : finished s u = true := hd
  simp [execStrandRetire, hj, hp, hd', hev, Tile.pickChan_none hc]

theorem reg_frontEntry (F : FrontState) (pc : Pc) (p c : Nat) : (frontEntry F pc p c).reg 1 = BitVec.ofNat 64 p ∧
    (frontEntry F pc p c).reg 2 = BitVec.ofNat 64 c ∧ ∀ k, 2 < k → (frontEntry F pc p c).reg k = F.reg k := by
  refine ⟨?_, ?_, fun k hk => ?_⟩
  · show ((F.setReg 1 _).setReg 2 _).reg 1 = _
    rw [FrontState.reg_setReg_other _ _ (by omega), FrontState.reg_setReg _ _ (by omega) (by omega)]
  · exact FrontState.reg_setReg _ _ (by omega) (by omega)
  · show ((F.setReg 1 _).setReg 2 _).reg k = _
    rw [FrontState.reg_setReg_other _ _ (by omega), FrontState.reg_setReg_other _ _ (by omega)]

theorem Tile.chan_setChan (T : Tile) {c : Nat} (x : Chan) (h : c < 16) : (T.setChan c x).chan c = x := by
  simp [Tile.setChan, Tile.chan, h]

/-- A strand's tile as an event's entry leaves it. -/
def Tile.entered (T : Tile) (c p : Nat) (x : Chan) : Tile :=
  let U := T.setChan c x
  { U with phase := .running, fa := frontEntry U.fa (align4 (T.chan c).ae.toNat) p c, fx := frontEntry U.fx (align4 (T.chan c).xe.toNat) p c }.wake

theorem Tile.phase_entered (T : Tile) (c p : Nat) (x : Chan) : (T.entered c p x).phase = .running := rfl

theorem execEventEntry_enters {s : State} {u c : Nat} {p} {rest : List _} (hev : (s.tile u).events = true)
    (hp : (s.tile u).phase = .running ∨ (s.tile u).phase = .waiting) (hd : AllDone s u) (hc : TakesChannel (s.tile u) c)
    (hpay : ((s.tile u).chan c).payloads = p :: rest) :
    execEventEntry u s = .next (s.setTile u ((s.tile u).entered c p.data.toNat { (s.tile u).chan c with payloads := rest })) := by
  have hd' : finished s u = true := hd
  have hph : ((s.tile u).phase == .running || (s.tile u).phase == .waiting) = true := by simpa using hp
  simp only [execEventEntry, hev, hph, hd', Tile.pickChan_takes hc, Tile.takeChan, hpay, Bool.not_true, Bool.or_self, Bool.false_eq_true, if_false]
  rfl

theorem eventEntry_enters {s : State} {u c : Nat} {p} {rest : List _} (hev : (s.tile u).events = true)
    (hp : (s.tile u).phase = .running ∨ (s.tile u).phase = .waiting) (hd : AllDone s u) (hc : TakesChannel (s.tile u) c)
    (hpay : ((s.tile u).chan c).payloads = p :: rest) : ∃ t, execEventEntry u s = .next t ∧ (t.tile u).phase = .running ∧
      (t.tile u).chan c = { (s.tile u).chan c with payloads := rest } ∧
      (∀ f, ((t.tile u).front f).reg 1 = BitVec.ofNat 64 p.data.toNat ∧ ((t.tile u).front f).reg 2 = BitVec.ofNat 64 c ∧
        ((t.tile u).front f).ended = false ∧ ∀ k, 2 < k → k < 24 → ((t.tile u).front f).reg k = ((s.tile u).front f).reg k) ∧
      (t.tile u).fa.pc = entryOf ((s.tile u).chan c).ae ∧ (t.tile u).fx.pc = entryOf ((s.tile u).chan c).xe := by
  refine ⟨_, execEventEntry_enters hev hp hd hc hpay, ?_⟩
  rw [State.tile_setTile s u (Tile.ne_reset_of_phase (by rw [Tile.phase_entered]; decide))]
  refine ⟨rfl, Tile.chan_setChan _ _ hc.1, fun f => ?_, align4_toNat _, align4_toNat _⟩
  cases f with
  | a =>
    obtain ⟨h1, h2, hk⟩ := reg_frontEntry (s.tile u).fa (align4 ((s.tile u).chan c).ae.toNat) p.data.toNat c
    exact ⟨h1, h2, rfl, fun k h _ => hk k h⟩
  | x =>
    obtain ⟨h1, h2, hk⟩ := reg_frontEntry (s.tile u).fx (align4 ((s.tile u).chan c).xe.toNat) p.data.toNat c
    exact ⟨h1, h2, rfl, fun k h _ => hk k h⟩

/-! ### The graph watchdog (R173) -/

theorem byIndex_of_sorted {l : List Rec} (h : l.Pairwise (fun a b => a.tidx < b.tidx)) : byIndex l = l := by
  induction l with
  | nil => rfl
  | cons r l ih =>
    rw [List.pairwise_cons] at h
    rw [byIndex, List.foldr_cons, ← byIndex, ih h.2]
    cases l with
    | nil => rfl
    | cons q l => rw [insertRec, if_pos (Nat.le_of_lt (h.1 q (by simp)))]

/-- A fault ring that is not registered has no room. -/
theorem frrRoom_zero : frrRoom 0 = false := by decide

/-- A record on a die without a fault ring joins the die's buffer. -/
theorem record_buffered {s : State} {d : Nat} (h0 : (s.die d).frr = 0) (hlen : (s.die d).frBuf.length < 256) (r : FaultRec) :
    s.record d r = s.modDie d (fun D => { D with frBuf := D.frBuf ++ [r.bits s.cyc] }) := by
  have hroom : (frrRoom (s.die d).frr && (s.die d).frBuf.isEmpty) = false := by rw [h0, frrRoom_zero]; rfl
  simp only [State.record, hroom, Bool.false_eq_true, if_false, hlen, if_true]
  rfl

theorem setDie_setDie (s : State) (d : Nat) (D E : Die) : (s.setDie d D).setDie d E = s.setDie d E := by
  by_cases h : d = 0 <;> simp only [State.setDie, h, if_true, if_false]

theorem setDie_die (s : State) (d : Nat) : s.setDie d (s.die d) = s := by
  by_cases h : d = 0 <;> simp only [State.setDie, State.die, h, if_true, if_false]

theorem modDie_modDie (s : State) (d : Nat) (f g : Die → Die) : (s.modDie d f).modDie d g = s.modDie d (fun D => g (f D)) := by
  rw [State.modDie, die_modDie]
  exact setDie_setDie s d _ _

/-- Records of a list join the die's buffer in the list's order. -/
theorem foldl_record_buffered {d : Nat} (rep : Rec → FaultRec) (l : List Rec) {s : State} (h0 : (s.die d).frr = 0)
    (hlen : (s.die d).frBuf.length + l.length ≤ 256) :
    l.foldl (fun s r => s.record d (rep r)) s = s.modDie d (fun D => { D with frBuf := D.frBuf ++ l.map (fun r => (rep r).bits s.cyc) }) := by
  induction l generalizing s with
  | nil =>
    simp only [List.foldl_nil, List.map_nil, List.append_nil]
    exact (setDie_die s d).symm
  | cons r l ih =>
    rw [List.length_cons] at hlen
    have hb := record_buffered h0 (by omega : (s.die d).frBuf.length < 256) (rep r)
    rw [List.foldl_cons, hb, ih (by rw [die_modDie]; exact h0) (by rw [die_modDie]; simp; omega), modDie_modDie, cyc_modDie]
    simp only [List.map_cons, List.append_assoc, List.singleton_append]

theorem graph?_progress {s : State} {d i : Nat} {g : Graph} (h : s.graph? d i = some g) :
    (s.progress d i).graph? d i = some { g with prog := s.cyc } := by
  have hp : (fun g : Graph => g.inst == i) ∘ (fun g => if g.inst == i then { g with prog := s.cyc } else g) = fun g => g.inst == i := by
    funext g
    simp only [Function.comp_apply]
    split <;> rfl
  rw [State.graph?] at h
  simp only [State.graph?, State.progress, State.modGraph, die_modDie, List.find?_map, hp, h, Option.map_some, List.find?_some h, if_true]

theorem graphWatchdog_reports {s : State} {d i : Nat} {g : Graph} (hg : s.graph? d i = some g) (hw : g.wdog ≠ 0)
    (hfr : (s.vf (s.ctx g.ctx).vf).frozen = false) (hdue : g.wdog * 2 ^ 16 ≤ (s.cyc - g.prog).toNat) :
    let rs := (s.die d).recs.filter (fun r => r.inst == i && decide (1 ≤ r.st.code) && decide (r.st.code ≤ 4))
    rs.Pairwise (fun a b => a.tidx < b.tidx) → rs.length ≤ 64 → (s.die d).frr = 0 → (s.die d).frBuf.length ≤ 192 →
    ∃ t, execGraphWatchdog d i s = .next t ∧ t.graph? d i = some { g with prog := s.cyc } ∧
      (t.die d).frBuf = (s.die d).frBuf ++
        rs.map (fun r => FaultRec.bits { kind := 0x53, ctx := r.ctx, inst := i, tidx := r.tidx, die := d, info := r.st.code } s.cyc) := by
  intro rs hsort h64 h0 hlen
  have hdue' : watchdogDue s g = true := by
    rw [watchdogDue, hfr, bne_iff_ne.2 hw, decide_eq_true hdue]; rfl
  refine ⟨_, by simp only [execGraphWatchdog, hg, hdue', Bool.not_true, Bool.false_eq_true, if_false]; rfl, ?_, ?_⟩
  all_goals rw [byIndex_of_sorted hsort, List.take_of_length_le h64, foldl_record_buffered _ rs h0 (by omega)]
  · rw [graph?_progress (by rw [State.graph?, die_modDie]; exact hg), cyc_modDie]
  · simp [State.progress, State.modGraph]

end Sys2Proof.Machine
end

section
/-! ## Proofs: the start of a task's strands -/

namespace Sys2Proof.Machine

/-! ### Many tiles changed one after another -/

section
variable {α : Type} (key : α → Nat) (g : α → Tile → Tile)

/-- Each tile of a list is changed in turn. -/
def State.modTiles (s : State) (l : List α) : State := l.foldl (fun s a => s.modTile (key a) (g a)) s

theorem modTiles_kept (s : State) (l : List α) : s.modTiles key g l = { s with tiles := (s.modTiles key g l).tiles } := by
  induction l generalizing s with
  | nil => rfl
  | cons a l ih => rw [State.modTiles, List.foldl_cons, ← State.modTiles, ih]; rfl

theorem tile_modTiles_other (s : State) {l : List α} {u : Nat} (h : u ∉ l.map key) : (s.modTiles key g l).tile u = s.tile u := by
  induction l generalizing s with
  | nil => rfl
  | cons a l ih =>
    rw [List.map_cons, List.mem_cons, not_or] at h
    rw [State.modTiles, List.foldl_cons, ← State.modTiles, ih _ h.2, tile_modTile_other s _ h.1]

theorem tile_modTiles (s : State) {l : List α} (hn : (l.map key).Nodup) (hne : ∀ a T, g a T ≠ Tile.reset) {a : α} (ha : a ∈ l) :
    (s.modTiles key g l).tile (key a) = g a (s.tile (key a)) := by
  induction l generalizing s with
  | nil => cases ha
  | cons b l ih =>
    rw [List.map_cons, List.nodup_cons] at hn
    rw [State.modTiles, List.foldl_cons, ← State.modTiles]
    rcases List.mem_cons.1 ha with rfl | ha
    · rw [tile_modTiles_other key g _ hn.1, tile_modTile s _ (hne _ _)]
    · have hab : key a ≠ key b := fun h => hn.1 (h ▸ List.mem_map_of_mem ha)
      rw [ih _ hn.2 ha, tile_modTile_other s _ hab]

end

/-! ### The start of a task's strands (R165) -/

theorem frontStarted_frontStart (ent : Nat) (r : Rec) (seed : Word) : FrontStarted (frontStart ent r seed) ent r seed where
  pc := rfl
  arg0 := by
    show ((FrontState.reset.setReg 1 _).setReg 2 _).reg 1 = _
    rw [FrontState.reg_setReg_other _ _ (by omega), FrontState.reg_setReg _ _ (by omega) (by omega)]
  arg1 := FrontState.reg_setReg _ _ (by omega) (by omega)
  zero k hk h24 := by
    show ((FrontState.reset.setReg 1 _).setReg 2 _).reg k = _
    rw [FrontState.reg_setReg_other _ _ (by omega), FrontState.reg_setReg_other _ _ (by omega)]
    exact reg_frontReset k
  sgen := rfl
  mode := rfl
  going := ⟨rfl, rfl, rfl, rfl⟩

theorem latencyStart_kept (s : State) (v l : Nat) :
    latencyStart s v l = { s with vfs := (latencyStart s v l).vfs, agenda := (latencyStart s v l).agenda } := by
  unfold latencyStart
  dsimp only
  split
  · rfl
  · split <;> rfl

/-- The strands of a record's tiles started. -/
def startedTiles (s : State) (r : Rec) : State :=
  s.modTiles Prod.fst (fun p T => T.start r p.1 p.2 (s.ctx r.ctx).tv) r.place.zipIdx

theorem tile_startedTiles {s : State} {r : Rec} (hn : r.place.Nodup) {k u : Nat} (h : r.place[k]? = some u) :
    (startedTiles s r).tile u = (s.tile u).start r u k (s.ctx r.ctx).tv :=
  tile_modTiles Prod.fst (fun (p : Nat × Nat) T => T.start r p.1 p.2 (s.ctx r.ctx).tv) s (l := r.place.zipIdx) (a := (u, k))
    (by rw [List.zipIdx_map_fst]; exact hn) (fun _ _ => Tile.ne_reset_of_phase (fun h => by cases h)) (List.mem_zipIdx_iff_getElem?.2 h)

theorem strandStart_starts {s : State} {d i j : Nat} {r : Rec} (hr : s.rec? d i j = some r) (hst : r.st = .runnable)
    (hfr : (s.vf (s.ctx r.ctx).vf).frozen = false) (hsch : (s.vf (s.ctx r.ctx).vf).sched = true) (hdn : s.dieDown d = false) (hn : r.place.Nodup) :
    ∃ t, execStrandStart d i j s = .next t ∧ t.rec? d i j = some { r with st := .running, started := s.cyc, left := r.tiles } ∧
      ∀ k u, r.place[k]? = some u → t.tile u = (s.tile u).start r u k (s.ctx r.ctx).tv := by
  have hkept := modTiles_kept Prod.fst (fun p T => T.start r p.1 p.2 (s.ctx r.ctx).tv) s r.place.zipIdx
  set S := startedTiles s r with hS
  set S' := (S.modRec d i j (fun r => { r with st := .running, started := S.cyc, left := r.tiles })).progress d i with hS'
  have hx : execStrandStart d i j s =
      .next (if (S'.gang d r).all (fun q => q.st == .running || q.st == .done || q.st == .free)
        then latencyStart S' (s.ctx r.ctx).vf (S'.cyc - r.joined).toNat else S') := by
    simp only [execStrandStart, hr, hst, hfr, hsch, hdn, bne_self_eq_false, Bool.not_true, Bool.or_self, Bool.false_eq_true, if_false]
    rfl
  have hrec : S'.rec? d i j = some { r with st := .running, started := s.cyc, left := r.tiles } := by
    rw [hS', rec?_progress, rec?_modRec]
    · rw [hS, startedTiles, hkept]
      show Option.map _ (s.rec? d i j) = _
      rw [hr]; rfl
    · exact fun _ => ⟨rfl, rfl⟩
  have htile : ∀ k u, r.place[k]? = some u → S'.tile u = (s.tile u).start r u k (s.ctx r.ctx).tv := fun k u h => by
    rw [hS', tile_progress, tile_modRec, hS, tile_startedTiles hn h]
  refine ⟨_, hx, ?_⟩
  split
  · rw [latencyStart_kept]; exact ⟨hrec, htile⟩
  · exact ⟨hrec, htile⟩

/-- R165: the strands of a runnable record start with the launch values. -/
theorem strandStart_launchValues {s : State} {d i j : Nat} {r : Rec} (hr : s.rec? d i j = some r) (hst : r.st = .runnable)
    (hfr : (s.vf (s.ctx r.ctx).vf).frozen = false) (hsch : (s.vf (s.ctx r.ctx).vf).sched = true) (hdn : s.dieDown d = false) (hn : r.place.Nodup) :
    ∃ t, execStrandStart d i j s = .next t ∧ t.rec? d i j = some { r with st := .running, started := s.cyc, left := r.tiles } ∧
      ∀ k u, r.place[k]? = some u → (t.tile u).phase = .running ∧ (t.tile u).tid = BitVec.ofNat 64 u ∧ (t.tile u).rank = BitVec.ofNat 64 k ∧
        (t.tile u).ctx = BitVec.ofNat 64 r.ctx ∧ (t.tile u).crect = BitVec.ofNat 64 r.crect ∧ (t.tile u).tvec = (s.ctx r.ctx).tv ∧
        FrontStarted (t.tile u).fa r.aent r (mix (r.seed + BitVec.ofNat 64 k)) ∧
        FrontStarted (t.tile u).fx r.xent r (~~~(mix (r.seed + BitVec.ofNat 64 k))) := by
  obtain ⟨t, hx, hrec, htile⟩ := strandStart_starts hr hst hfr hsch hdn hn
  refine ⟨t, hx, hrec, fun k u h => ?_⟩
  rw [htile k u h]
  exact ⟨rfl, rfl, rfl, rfl, rfl, rfl, frontStarted_frontStart .., frontStarted_frontStart ..⟩

end Sys2Proof.Machine
end

section
/-! ## Proofs: the end of a strand -/

namespace Sys2Proof.Machine

/-! ### What a retiring strand leaves of the tiles (R151, R227, R259) -/

theorem tile_launch (s : State) (x : Txn) (e : Nat → Instr) (u : Nat) : (s.launch x e).tile u = s.tile u := rfl

theorem tile_handOver (s : State) (k u : Nat) : (handOver s k).tile u = s.tile u := by
  unfold handOver
  dsimp only
  split <;> rfl

theorem tile_releaseSlot (s : State) (t j : Nat) (c : ClaimSlot) (u : Nat) : (releaseSlot s t j c).tile u = s.tile u := by
  unfold releaseSlot
  dsimp only
  split
  · rfl
  · split
    · exact tile_handOver s _ u
    · split <;> rfl

/-- Claim slots are released at the home, not in a tile. -/
theorem tile_releaseSlots (s : State) (t u : Nat) : (releaseSlots s t).tile u = s.tile u := by
  unfold releaseSlots
  generalize (s.tile t).cslots.toList.zipIdx = l
  induction l generalizing s with
  | nil => rfl
  | cons c l ih =>
    rw [List.foldl_cons, ih]
    split
    · exact tile_releaseSlot s t _ _ u
    · rfl

/-- A strand that holds no claim slot releases none. -/
theorem releaseSlots_of_none {s : State} {t : Nat} (h : ∀ c ∈ (s.tile t).cslots.toList, c = none) : releaseSlots s t = s := by
  unfold releaseSlots
  have hl : ∀ p ∈ (s.tile t).cslots.toList.zipIdx, p.1 = none := fun p hp => h _ (List.fst_mem_of_mem_zipIdx hp)
  revert hl
  generalize (s.tile t).cslots.toList.zipIdx = l
  intro hl
  induction l with
  | nil => rfl
  | cons c l ih =>
    rw [List.foldl_cons, hl c (by simp)]
    exact ih (fun p hp => hl p (by simp [hp]))

theorem tile_foldl_launch {α : Type} (x : State → α → Txn) (e : Nat → Instr) (l : List α) (s : State) (u : Nat) :
    (l.foldl (fun s o => s.launch (x s o) e) s).tile u = s.tile u := by
  induction l generalizing s with
  | nil => rfl
  | cons o l ih => rw [List.foldl_cons, ih, tile_launch]

/-- A gathered line that leaves a strand's tile changes no phase. -/
theorem phase_sendHome {s : State} {t : Nat} (ht : (s.tile t).phase ≠ .idle) (g : GatherLine) (u : Nat) :
    ((sendHome s t g).tile u).phase = (s.tile u).phase := by
  rw [sendHome, tile_foldl_launch (fun s o => g.txn s t o)]
  by_cases h : u = t
  · subst h; rw [tile_modTile s u (Tile.ne_reset_of_phase ht)]
  · rw [tile_modTile_other s _ h]

theorem phase_sendHomeIf {s : State} {t : Nat} (ht : (s.tile t).phase ≠ .idle) (p : GatherLine → Bool) (u : Nat) :
    ((sendHomeIf s t p).tile u).phase = (s.tile u).phase := by
  unfold sendHomeIf
  generalize (s.tile t).gather.filter p = l
  induction l generalizing s with
  | nil => rfl
  | cons g l ih => rw [List.foldl_cons, ih (by rw [phase_sendHome ht]; exact ht), phase_sendHome ht]

theorem sendHomeIf_of_nil {s : State} {t : Nat} (h : (s.tile t).gather = []) (p : GatherLine → Bool) : sendHomeIf s t p = s := by
  rw [sendHomeIf, h]; rfl

theorem Tile.phase_retire (T : Tile) : T.retire.phase = .retired := rfl

theorem Tile.retire_ne_reset (T : Tile) : T.retire ≠ Tile.reset := ne_reset_of_phase (by rw [phase_retire]; decide)

/-- The task of a retired strand is told. -/
def tellTask (s : State) (t i j : Nat) : State :=
  match s.rec? (dieOf t) i j with
  | none => s
  | some r =>
    let s := (s.modRec (dieOf t) i j (fun r => { r with left := r.left - 1 })).progress (dieOf t) i
    if r.left ≤ 1 then s.post (.taskDone (dieOf t) i j) else s

theorem retireStrand_eq (s : State) (t : Nat) : retireStrand s t =
    tellTask (promote (sendHomeIf ((releaseSlots s t).modTile t Tile.retire) t (fun _ => true)) t) t (s.tile t).inst (s.tile t).tidx := rfl

theorem tile_tellTask (s : State) (t i j u : Nat) : (tellTask s t i j).tile u = s.tile u := by
  unfold tellTask
  split
  · rfl
  · dsimp only
    split <;> simp

theorem tellTask_of_rec {s : State} {t i j : Nat} {r : Rec} (hr : s.rec? (dieOf t) i j = some r) :
    (tellTask s t i j).rec? (dieOf t) i j = some { r with left := r.left - 1 } ∧ (tellTask s t i j).pins = s.pins ∧
      (r.left = 1 → (tellTask s t i j).agenda = s.agenda ++ [.taskDone (dieOf t) i j]) := by
  have hrec : ((s.modRec (dieOf t) i j (fun r => { r with left := r.left - 1 })).progress (dieOf t) i).rec? (dieOf t) i j =
      some { r with left := r.left - 1 } := by
    rw [rec?_progress, rec?_modRec, hr]
    · rfl
    · exact fun _ => ⟨rfl, rfl⟩
  have hpins : ((s.modRec (dieOf t) i j (fun r => { r with left := r.left - 1 })).progress (dieOf t) i).pins = s.pins := by
    rw [State.progress, State.modGraph, modDie_kept, State.modRec, modDie_kept]
  simp only [tellTask, hr]
  split
  · exact ⟨hrec, hpins, fun _ => by simp⟩
  · exact ⟨hrec, hpins, fun h => absurd (Nat.le_of_eq h) ‹_›⟩

theorem phase_retireStrand (s : State) (t u : Nat) :
    ((retireStrand s t).tile u).phase = if u = t then .retired else (s.tile u).phase := by
  have ht : (((releaseSlots s t).modTile t Tile.retire).tile t).phase ≠ .idle := by
    rw [tile_modTile _ _ (Tile.retire_ne_reset _), Tile.phase_retire]; decide
  rw [retireStrand_eq, tile_tellTask]
  show ((sendHomeIf _ t _).tile u).phase = _
  rw [phase_sendHomeIf ht]
  split
  · subst u; rw [tile_modTile _ _ (Tile.retire_ne_reset _), Tile.phase_retire]
  · rw [tile_modTile_other _ _ ‹_›, tile_releaseSlots]

/-! ### A strand whose fronts have ended retires (R31, R151) -/

section
variable {T : Tile}

theorem Tile.warn_warnIf (T : Tile) (b : Nat) (c : Bool) : (T.warnIf b c).warn = T.warn ||| warnOf b c := by
  cases c
  · simp [Tile.warnIf, warnOf]
  · rfl

theorem Tile.warn_retire (h : ∀ c ∈ T.cslots.toList, c = none) : T.retire.warn = T.warn |||
    warnOf warnQres (T.sq.toList.any (fun q => !q.isEmpty) || T.vq.toList.any (fun q => !q.isEmpty)) |||
    warnOf warnMres (T.chans.toList.any (fun c => !c.payloads.isEmpty)) := by
  have hc : T.cslots.toList.any Option.isSome = false := by
    rw [List.any_eq_false]
    intro c hm
    rw [h c hm]; decide
  have hw : T.retire.warn = T.warn |||
      warnOf warnQres (T.sq.toList.any (fun q => !q.isEmpty) || T.vq.toList.any (fun q => !q.isEmpty)) |||
      warnOf warnMres (T.chans.toList.any (fun c => !c.payloads.isEmpty)) ||| warnOf warnCres (T.cslots.toList.any Option.isSome) := by
    simp [Tile.retire, Tile.warn_warnIf]
  rw [hw, hc]; exact BitVec.or_zero

theorem Tile.sport_retire (q : Nat) : T.retire.sport q = [] := by
  simp [Tile.retire, Tile.sport]

theorem Tile.vport_retire (q : Nat) : T.retire.vport q = [] := by
  simp [Tile.retire, Tile.vport]

theorem Tile.retire_kept : T.retire.spad = T.spad ∧ T.retire.vregs = T.vregs ∧ T.retire.gather = T.gather := by
  simp [Tile.retire]

end

theorem strandRetire_retires {s : State} {u : Nat} {r : Rec} (hj : isJack u = false) (hp : (s.tile u).phase = .running) (hd : AllDone s u)
    (hev : (s.tile u).events = false) (hg : (s.tile u).gather = []) (hc : ∀ c ∈ (s.tile u).cslots.toList, c = none)
    (hr : s.rec? (dieOf u) (s.tile u).inst (s.tile u).tidx = some r) :
    ∃ t, execStrandRetire u s = .next t ∧ (t.tile u).phase = .retired ∧
      (∀ q, (t.tile u).sport q = []) ∧ (∀ q, (t.tile u).vport q = []) ∧
      (t.tile u).spad = (s.tile u).spad ∧ (t.tile u).vregs = (s.tile u).vregs ∧ t.pins = s.pins.filter (fun p => p.owner != u) ∧
      (t.tile u).warn = (s.tile u).warn |||
        warnOf warnQres ((s.tile u).sq.toList.any (fun q => !q.isEmpty) || (s.tile u).vq.toList.any (fun q => !q.isEmpty)) |||
        warnOf warnMres ((s.tile u).chans.toList.any (fun c => !c.payloads.isEmpty)) ∧
      t.rec? (dieOf u) (s.tile u).inst (s.tile u).tidx = some { r with left := r.left - 1 } ∧
      (r.left = 1 → t.agenda = s.agenda ++ [.taskDone (dieOf u) (s.tile u).inst (s.tile u).tidx]) := by
  have hd' : finished s u = true := hd
  have hx : execStrandRetire u s = .next (retireStrand s u) := by simp [execStrandRetire, hj, hp, hd', hev]
  have ht : (s.modTile u Tile.retire).tile u = (s.tile u).retire := tile_modTile s u (Tile.retire_ne_reset _)
  have he : retireStrand s u = tellTask (promote (s.modTile u Tile.retire) u) u (s.tile u).inst (s.tile u).tidx := by
    rw [retireStrand_eq, releaseSlots_of_none hc, sendHomeIf_of_nil (by rw [ht, Tile.retire_kept.2.2, hg])]
  have htile : (retireStrand s u).tile u = (s.tile u).retire := by rw [he, tile_tellTask]; exact ht
  obtain ⟨hrec, hpins, hag⟩ := tellTask_of_rec (s := promote (s.modTile u Tile.retire) u) hr
  refine ⟨_, hx, ?_⟩
  rw [htile, he]
  exact ⟨rfl, Tile.sport_retire, Tile.vport_retire, Tile.retire_kept.1, Tile.retire_kept.2.1, hpins, Tile.warn_retire hc, hrec, hag⟩

/-! ### The strands of a task that wait retire together (R170) -/

theorem phase_foldl_retireStrand {l : List Nat} {s : State} {u : Nat} (h : u ∈ l ∨ (s.tile u).phase = .retired) :
    ((l.foldl retireStrand s).tile u).phase = .retired := by
  induction l generalizing s with
  | nil => exact h.resolve_left (by simp)
  | cons t l ih =>
    refine ih ?_
    rw [phase_retireStrand]
    rcases h with h | h
    · rcases List.mem_cons.1 h with rfl | h
      · exact .inr (if_pos rfl)
      · exact .inl h
    · exact .inr (by rw [h, ite_self])

theorem eventRetire_retires {s : State} {d i j : Nat} {r : Rec} (hr : s.rec? d i j = some r) (hst : r.st = .running)
    (hsig : signalTo s d i j = false) (hw : ∃ u ∈ r.place, (s.tile u).phase = .waiting)
    (hq : ∀ u ∈ r.place, (s.tile u).frozen = false ∧ ((s.tile u).phase = .retired ∨
      ((s.tile u).phase = .waiting ∧ ∀ c, c < 16 → ((s.tile u).chan c).eligible = false))) :
    ∃ t, execEventRetire d i j s = .next t ∧ ∀ u ∈ r.place, (t.tile u).phase = .retired := by
  have hall : r.place.all (fun t => !(s.tile t).frozen &&
      ((s.tile t).phase == .retired || ((s.tile t).phase == .waiting && (s.tile t).pickChan.isNone))) = true := by
    rw [List.all_eq_true]
    intro u hu
    obtain ⟨hf, hp | ⟨hp, hc⟩⟩ := hq u hu
    · simp [hf, hp]
    · simp [hf, hp, Tile.pickChan_none hc]
  have hany : r.place.any (fun t => (s.tile t).phase == .waiting) = true := by
    obtain ⟨u, hu, hp⟩ := hw
    exact List.any_eq_true.2 ⟨u, hu, by simp [hp]⟩
  refine ⟨(r.place.filter (fun t => (s.tile t).phase == .waiting)).foldl retireStrand s, ?_, fun u hu => phase_foldl_retireStrand ?_⟩
  · simp only [execEventRetire, hr, hst, hsig, hall, hany, bne_self_eq_false, Bool.not_true, Bool.or_self, Bool.false_eq_true, if_false]
  · obtain ⟨-, hp | ⟨hp, -⟩⟩ := hq u hu
    · exact .inr hp
    · exact .inl (List.mem_filter.2 ⟨hu, by simp [hp]⟩)
end Sys2Proof.Machine
end

section
/-! ## Proofs: the end of a task -/

namespace Sys2Proof.Machine

/-! ### Operations that only add to the agenda -/

/-- What stands on the agenda keeps its place; later items come behind it. -/
def AgendaGrows (s t : State) : Prop := s.agenda <+: t.agenda

theorem AgendaGrows.refl (s : State) : AgendaGrows s s := List.prefix_rfl

theorem AgendaGrows.of_eq {s t : State} (h : t.agenda = s.agenda) : AgendaGrows s t := by rw [AgendaGrows, h]

theorem AgendaGrows.trans {s t u : State} (h : AgendaGrows s t) (h' : AgendaGrows t u) : AgendaGrows s u := List.IsPrefix.trans h h'

theorem AgendaGrows.post (s : State) (e : Instr) : AgendaGrows s (s.post e) := List.prefix_append ..

theorem AgendaGrows.foldl {α : Type} {f : State → α → State} (hf : ∀ s a, AgendaGrows s (f s a)) (l : List α) (s : State) :
    AgendaGrows s (l.foldl f s) := by
  induction l generalizing s with
  | nil => exact .refl s
  | cons a l ih => exact (hf s a).trans (ih _)

theorem agendaGrows_handOver (s : State) (k : Nat) : AgendaGrows s (handOver s k) := by
  unfold handOver
  dsimp only
  split
  · exact .post _ _
  · exact .of_eq rfl

theorem agendaGrows_releaseSlot (s : State) (t j : Nat) (c : ClaimSlot) : AgendaGrows s (releaseSlot s t j c) := by
  unfold releaseSlot
  dsimp only
  split
  · exact .refl s
  · split
    · exact agendaGrows_handOver s _
    · split
      · exact .refl s
      · exact .of_eq rfl

theorem agendaGrows_releaseSlots (s : State) (t : Nat) : AgendaGrows s (releaseSlots s t) := by
  refine .foldl (fun s c => ?_) _ s
  split
  · exact agendaGrows_releaseSlot s t _ _
  · exact .refl s

theorem agendaGrows_dropStrand (s : State) (t : Nat) : AgendaGrows s (dropStrand s t) := by
  refine (agendaGrows_releaseSlots s t).trans ?_
  unfold dropStrand
  dsimp only
  split <;> exact .of_eq rfl

theorem agenda_charge (s : State) (d : Nat) (r : Rec) : (charge s d r).agenda = s.agenda := by
  unfold charge
  split
  · exact agenda_modDie s d _
  · rfl

theorem agendaGrows_unplace (s : State) (d : Nat) (r : Rec) : AgendaGrows s (unplace s d r) :=
  (AgendaGrows.of_eq (agenda_charge s d r)).trans
    ((AgendaGrows.foldl agendaGrows_dropStrand r.place _).trans (.of_eq (agenda_modDie _ d _)))

/-! ### Operations that add to the agenda and drop records -/

/-- The agenda only grows, and a die's records are among those before. -/
structure Winds (d : Nat) (s t : State) : Prop where
  agenda : AgendaGrows s t
  recs : (t.die d).recs.Sublist (s.die d).recs

theorem Winds.refl (d : Nat) (s : State) : Winds d s s := ⟨.refl s, List.Sublist.refl _⟩

theorem Winds.trans {d : Nat} {s t u : State} (h : Winds d s t) (h' : Winds d t u) : Winds d s u :=
  ⟨h.agenda.trans h'.agenda, h'.recs.trans h.recs⟩

theorem Winds.post {d : Nat} {s t : State} (h : Winds d s t) (e : Instr) : Winds d s (t.post e) := ⟨h.agenda.trans (.post t e), h.recs⟩

/-- A change outside the agenda and the dies. -/
theorem Winds.of_kept {d : Nat} {s t : State} (ha : t.agenda = s.agenda) (hd : t.die d = s.die d) : Winds d s t :=
  ⟨.of_eq ha, by rw [hd]⟩

theorem Winds.modDie {d : Nat} {s : State} {f : Die → Die} (h : (f (s.die d)).recs.Sublist (s.die d).recs) : Winds d s (s.modDie d f) :=
  ⟨.of_eq (agenda_modDie s d f), by rw [die_modDie]; exact h⟩

theorem winds_perfAddOne (d : Nat) (s : State) (v code n k : Nat) : Winds d s (perfAddOne s v code n k) := by
  unfold perfAddOne
  dsimp only
  split
  · split
    · exact Winds.post (by exact .of_kept rfl rfl) _
    · exact .of_kept rfl rfl
  · exact .refl d s

theorem winds_count (d : Nat) (s : State) (v code n : Nat) : Winds d s (s.count v code n) := by
  unfold State.count
  split
  · exact .refl d s
  · simp only [List.foldl_cons, List.foldl_nil]
    exact (((winds_perfAddOne ..).trans (winds_perfAddOne ..)).trans (winds_perfAddOne ..)).trans (winds_perfAddOne ..)

theorem winds_phaseComplete (d : Nat) (s : State) (c p : Nat) : Winds d s (phaseComplete s c p) := by
  unfold phaseComplete
  extract_lets C C' t
  split
  · exact Winds.post (by exact .of_kept rfl rfl) _
  · exact .of_kept rfl rfl

theorem winds_phaseLeft (d : Nat) (s : State) (c p : Nat) : Winds d s (phaseLeft s c p) := by
  have hset : ∀ C, Winds d s (s.setCtx c C) := fun C => .of_kept rfl rfl
  unfold phaseLeft
  dsimp only
  split
  · exact (hset _).trans (winds_phaseComplete ..)
  · exact hset _

theorem winds_shareEnd (d : Nat) (s : State) (i : Nat) : Winds d s (shareEnd s d i) := by
  unfold shareEnd
  split
  · exact .refl d s
  · split
    · exact .refl d s
    · extract_lets t
      have ht : Winds d s t := .modDie List.filter_sublist
      split
      · exact ht.trans (winds_phaseLeft ..)
      · exact ht.post _

theorem winds_graphLess (d : Nat) (s : State) (i : Nat) : Winds d s (graphLess s d i) :=
  (Winds.modDie (List.Sublist.refl _)).trans ((Winds.modDie (List.Sublist.refl _)).trans (winds_shareEnd ..))

/-! ### A task that is done (R155, R160) -/

/-- The decrements of successor entries set out in their order. -/
theorem foldl_sendDecr (d : Nat) (m : Nat → Decr) (l : List Nat) (s : State) :
    l.foldl (fun s e => sendDecr s d d (m e)) s = { s with agenda := s.agenda ++ l.map (fun e => .decrementApply d (m e)) } := by
  induction l generalizing s with
  | nil => simp
  | cons e l ih => rw [List.foldl_cons, ih, sendDecr, if_pos rfl]; simp [State.post]

theorem allSucc_nil (r : Rec) : allSucc r [] = r.succ.filter (fun e => e.testBit 15) := by
  rw [allSucc, List.append_nil]
  refine List.filter_congr (fun e _ => ?_)
  rw [Nat.testBit_eq_decide_div_mod_eq]; rfl

theorem taskDone_frees {s : State} {d i j : Nat} {r : Rec} (hr : s.rec? d i j = some r) (hst : r.st = .running) (hl : r.left = 0)
    (hx : r.nsx = 0) (hi : i < 0x8000) (hq : taskQuiet s r = true) : ∃ t l, execTaskDone d i j s = .next t ∧
      t.agenda = s.agenda ++ (r.succ.filter (fun e => e.testBit 15)).map (fun e => .decrementApply d (succDecr r e)) ++ l ∧
      ∀ q, t.rec? d i j = some q → q.st = .free ∧ q.place = [] := by
  obtain ⟨rfl, rfl⟩ := rec?_named hr
  have he : execTaskDone d r.inst r.tidx s = .next (finishTask s d r []) := by
    simp [execTaskDone, hr, hst, hl, hx, hq]
  have hsend : ((allSucc r []).foldl (fun s e =>
      sendDecr s d (if 0x8000 ≤ r.inst then fld e 14 14 else d) { ctx := r.ctx, inst := r.inst, tidx := fld e 10 0, reply := none }) s) =
      { s with agenda := s.agenda ++ (r.succ.filter (fun e => e.testBit 15)).map (fun e => .decrementApply d (succDecr r e)) } := by
    have hm : ∀ e, succDecr r e = { ctx := r.ctx, inst := r.inst, tidx := fld e 10 0, reply := none } := fun e => by
      rw [succDecr, fld, pow_zero, Nat.div_one]
    simp only [if_neg (Nat.not_le.2 hi), ← hm]
    rw [foldl_sendDecr d (succDecr r), allSucc_nil]
  set S := ({ s with agenda := s.agenda ++ (r.succ.filter (fun e => e.testBit 15)).map (fun e => .decrementApply d (succDecr r e)) } : State)
  set U := (unplace S d r).modRec d r.inst r.tidx (fun q => { q with st := .free, place := [], left := 0 }) with hU
  have hw : Winds d U (finishTask s d r []) := by
    rw [finishTask, hsend]
    exact (winds_count ..).trans ((winds_graphLess ..).post _)
  have hgrow : AgendaGrows S (finishTask s d r []) :=
    ((agendaGrows_unplace S d r).trans (.of_eq (by rw [hU, agenda_modRec]))).trans hw.agenda
  obtain ⟨l, hl'⟩ := hgrow
  refine ⟨_, l, he, hl'.symm, fun q hq' => ?_⟩
  obtain ⟨hqi, hqj⟩ := rec?_named hq'
  have hmem := hw.recs.subset (rec?_mem hq')
  rw [hU, State.modRec, die_modDie] at hmem
  obtain ⟨q0, -, hq0⟩ := List.mem_map.1 hmem
  split at hq0
  · rw [← hq0]; exact ⟨rfl, rfl⟩
  · next hne => exact absurd (by rw [hq0, hqi, hqj]; simp) hne
end Sys2Proof.Machine
end

section
/-! ## Proofs: what an access at its home keeps of a die -/

namespace Sys2Proof.Machine

/-! ### An access at its home changes no more of a die than its fault records -/

/-- No die changes but in its fault ring and its buffer of fault records. -/
structure FaultsOnly (s t : State) : Prop where
  die : ∀ d, t.die d = { s.die d with frr := (t.die d).frr, frBuf := (t.die d).frBuf }

/-- A change of one die leaves each die that is another. -/
theorem die_setDie_or (s : State) (d e : Nat) (D : Die) :
    ((s.setDie d D).die e = D ∧ s.die e = s.die d) ∨ (s.setDie d D).die e = s.die e := by
  by_cases hd : d = 0 <;> by_cases he : e = 0 <;> simp [State.setDie, State.die, hd, he]

namespace FaultsOnly

theorem refl (s : State) : FaultsOnly s s := ⟨fun _ => rfl⟩

theorem trans {s t u : State} (h : FaultsOnly s t) (h' : FaultsOnly t u) : FaultsOnly s u := ⟨fun d => (h'.die d).trans (by rw [h.die d])⟩

/-- The last of two changes first. -/
theorem after {s t u : State} (h' : FaultsOnly t u) (h : FaultsOnly s t) : FaultsOnly s u := h.trans h'

theorem of_dies {s t : State} (h0 : t.die0 = s.die0) (h1 : t.die1 = s.die1) : FaultsOnly s t := ⟨fun d => by
  have h : t.die d = s.die d := by rw [State.die, h0, h1]; rfl
  rw [h]⟩

theorem setDie (s : State) (d : Nat) {D : Die} (h : D = { s.die d with frr := D.frr, frBuf := D.frBuf }) : FaultsOnly s (s.setDie d D) := by
  refine ⟨fun e => ?_⟩
  rcases die_setDie_or s d e D with ⟨h1, h2⟩ | h1
  · rw [h1, h2]; exact h
  · rw [h1]

theorem foldl {α : Type} {f : State → α → State} (hf : ∀ s a, FaultsOnly s (f s a)) (l : List α) (s : State) : FaultsOnly s (l.foldl f s) := by
  induction l generalizing s with
  | nil => exact refl s
  | cons a l ih => exact (hf s a).trans (ih _)

/-- What the relation says of the fields other than the fault records. -/
theorem xfers {s t : State} (h : FaultsOnly s t) (d : Nat) : (t.die d).xfers = (s.die d).xfers := by rw [h.die d]

end FaultsOnly

section
variable (s : State)

theorem faultsOnly_perfAddOne (v code n k : Nat) : FaultsOnly s (perfAddOne s v code n k) := by
  unfold perfAddOne
  dsimp only
  split
  · split <;> exact .of_dies rfl rfl
  · exact .refl s

theorem faultsOnly_count (v code n : Nat) : FaultsOnly s (s.count v code n) := by
  unfold State.count
  split
  · exact .refl s
  · exact .foldl (fun s k => faultsOnly_perfAddOne s v code n k) _ s

theorem faultsOnly_countFabric (v code va : Nat) : FaultsOnly s (countFabric s v code va) := by
  unfold countFabric
  split
  · exact faultsOnly_count ..
  · exact .refl s

theorem faultsOnly_countTarget (q : HReq) (tg : Target) : FaultsOnly s (countTarget s q tg) := by
  cases tg with
  | host => exact faultsOnly_countFabric ..
  | remote => exact faultsOnly_countFabric ..
  | hbm => exact .refl s
  | carve d => exact .refl s

theorem faultsOnly_countDie (q : HReq) (h : Nat) : FaultsOnly s (countDie s q h) := by
  unfold countDie
  split
  · split
    · exact .refl s
    · exact faultsOnly_countFabric ..
  · exact .refl s

theorem faultsOnly_setPoison (pa : Nat) (p : Bool) : FaultsOnly s (s.setPoison pa p) := by
  unfold State.setPoison
  dsimp only
  split
  · split
    · exact .refl s
    · exact .of_dies rfl rfl
  · exact .of_dies rfl rfl

theorem faultsOnly_writeBack (l : Line) : FaultsOnly s (writeBack s l) := by
  unfold writeBack
  split
  · exact (faultsOnly_setPoison ..).after (.of_dies rfl rfl)
  · exact .refl s

theorem faultsOnly_flushLines (p : Line → Bool) : FaultsOnly s (flushLines s p) :=
  (FaultsOnly.foldl faultsOnly_writeBack (s.llc.filter p) _).after (.of_dies rfl rfl)

theorem faultsOnly_fillLine (h ctx line pa way : Nat) : FaultsOnly s (fillLine s h ctx line pa way).2 := by
  unfold fillLine
  dsimp only
  split
  · exact .of_dies rfl rfl
  · exact (faultsOnly_flushLines s _).trans (.of_dies rfl rfl)

theorem faultsOnly_translate (h ctx va : Nat) (r w : Bool) : FaultsOnly s (translate s h ctx va r w).1 := by
  unfold translate
  split
  · exact .refl s
  · split
    · exact .refl s
    · exact .refl s
    · split
      · unfold tlbFill; dsimp only; split <;> exact .of_dies rfl rfl
      · exact .refl s

theorem faultsOnly_streamRead (ctx va : Nat) : FaultsOnly s (streamRead s ctx va).1 := by
  unfold streamRead
  split
  · exact .refl s
  · split
    · exact .refl s
    · have h := faultsOnly_translate s (homeSlice s va) ctx va true false
      split <;> (next he => rw [he] at h; exact h)

theorem faultsOnly_interrupt (e : BitVec 128) (c : Nat) : FaultsOnly s (s.interrupt e c) := by
  unfold State.interrupt
  split
  · exact .of_dies rfl rfl
  · exact .refl s

theorem faultsOnly_frrWrite (d : Nat) (r : BitVec 256) : FaultsOnly s (frrWrite s d r) := by
  unfold frrWrite
  exact (faultsOnly_interrupt ..).after ((FaultsOnly.setDie _ d rfl).after (.of_dies rfl rfl))

theorem faultsOnly_record (d : Nat) (r : FaultRec) : FaultsOnly s (s.record d r) := by
  unfold State.record
  dsimp only
  split
  · exact faultsOnly_frrWrite ..
  · split <;> exact .setDie s d rfl

theorem faultsOnly_lehrError (va : Nat) : FaultsOnly s (lehrError s va) :=
  (faultsOnly_record ..).after (.of_dies rfl rfl)

theorem faultsOnly_lehrLines {s t : State} (b k n : Nat) (h : lehrLines s b k n = some t) : FaultsOnly s t := by
  induction n generalizing s k with
  | zero => cases h; exact .refl _
  | succ n ih =>
    unfold lehrLines at h
    dsimp only at h
    have hr := faultsOnly_streamRead s s.lehr.ctx (s.lehr.base + b * 0x10000 + k * 128)
    split at h
    · cases h
    · next he =>
      rw [he] at hr; cases h
      exact hr.trans (faultsOnly_lehrError ..)
    · next s1 bs he =>
      rw [he] at hr
      have ht := faultsOnly_translate s1 (homeSlice s1 (bits s.lehr.desc 511 456 + b * 0x10000 + k * 128)) s1.lehr.ctx
        (bits s.lehr.desc 511 456 + b * 0x10000 + k * 128) false true
      split at h
      · next he' => rw [he'] at ht; exact hr.trans (ht.trans ((FaultsOnly.of_dies (by rfl) (by rfl)).trans (ih _ h)))
      · next he' => rw [he'] at ht; exact hr.trans (ht.trans ((FaultsOnly.of_dies (by rfl) (by rfl)).trans (ih _ h)))
      · next he' => rw [he'] at ht; cases h; exact hr.trans (ht.trans (faultsOnly_lehrError ..))

theorem faultsOnly_lehrHold (ctx va : Nat) {s t : State} (h : lehrHold s ctx va = some t) : FaultsOnly s t := by
  unfold lehrHold at h
  split at h
  · cases h; exact .refl s
  · split at h
    · unfold lehrBlock at h
      split at h
      · cases h
      · next he => cases h; exact (faultsOnly_lehrLines _ _ _ he).trans (.of_dies rfl rfl)
    · cases h; exact .refl s

theorem faultsOnly_markDirty (ctx va : Nat) : FaultsOnly s (markDirty s ctx va) := by
  unfold markDirty
  split
  · exact .refl s
  · split
    · exact .refl s
    · exact .of_dies rfl rfl

theorem faultsOnly_pinLine (t ctx line scope : Nat) : FaultsOnly s (pinLine s t ctx line scope) := by
  unfold pinLine
  dsimp only
  split
  · exact .refl s
  · exact .of_dies rfl rfl

theorem faultsOnly_wrote (q : HReq) (p : Bool) : FaultsOnly s (q.wrote s p) := by
  unfold HReq.wrote
  dsimp only
  refine (faultsOnly_markDirty s q.ctx q.va).trans ?_
  split
  · split
    · exact faultsOnly_pinLine ..
    · exact .refl _
  · exact .refl _

theorem faultsOnly_serveLine (q : HReq) (l : Line) (f : List Byte → Option (List Byte)) : FaultsOnly s (serveLine s q l f).1 := by
  unfold serveLine
  split
  · exact .refl s
  · dsimp only
    split
    · exact .refl s
    · exact (faultsOnly_wrote ..).after (.of_dies rfl rfl)

theorem faultsOnly_serveUncached (q : HReq) (pa : Nat) (tg : Target) (f : List Byte → Option (List Byte)) :
    FaultsOnly s (serveUncached s q pa tg f).1 := by
  unfold serveUncached
  extract_lets t old
  have ht : FaultsOnly s t := faultsOnly_countTarget ..
  split
  · exact ht
  · split
    · exact ht
    · extract_lets u u'
      have hu : FaultsOnly s u := ht.trans (.of_dies rfl rfl)
      have hu' : FaultsOnly s u' := by
        unfold u'
        split
        · exact hu.trans (faultsOnly_setPoison ..)
        · exact hu
      exact hu'.trans (faultsOnly_wrote ..)

theorem faultsOnly_homeAccess (q : HReq) (f : List Byte → Option (List Byte)) : FaultsOnly s (homeAccess s q f).1 := by
  unfold homeAccess
  extract_lets line h v
  split
  · exact .refl s
  · split
    · exact .refl s
    · split
      · exact .refl s
      · next s1 he =>
        have h1 : FaultsOnly s s1 := by
          split at he
          · exact faultsOnly_lehrHold _ _ he
          · cases he; exact .refl s
        extract_lets s2
        have h2 : FaultsOnly s s2 := h1.trans (faultsOnly_countDie ..)
        split
        · exact h2.trans ((faultsOnly_count ..).trans (faultsOnly_serveLine ..))
        · have ht := h2.trans ((faultsOnly_count s2 v 7 1).trans (faultsOnly_translate (s2.count v 7 1) h q.ctx q.va q.r q.w))
          split
          · next he => rw [he] at ht; exact ht
          · next he => rw [he] at ht; exact ht
          · next s3 pa uc tg he =>
            rw [he] at ht
            split
            · exact ht
            · split
              · split
                · exact ht.trans (faultsOnly_serveUncached ..)
                · next way _ =>
                  exact ht.trans ((faultsOnly_fillLine s3 h q.ctx line (pa / 128 * 128) way).trans (faultsOnly_serveLine ..))
              · exact ht.trans (faultsOnly_serveUncached ..)

theorem faultsOnly_recallOp (t : Nat) (g : GatherLine) (o : Nat × Nat) : FaultsOnly s (recallOp t g s o) := by
  have h := faultsOnly_homeAccess s (atomicReq g.ctx (g.line + o.1) g.size g.op false (.tile t) g.scope)
    (atomicBytes g.op g.size g.mode g.seed o.2)
  unfold recallOp
  split
  · next he => rw [he] at h; exact h
  · next he => rw [he] at h; exact h.trans (.of_dies rfl rfl)

theorem faultsOnly_recallLine (ctx line : Nat) : FaultsOnly s (recallLine s ctx line) := by
  unfold recallLine
  refine .foldl (fun s p => .foldl (fun s g => ?_) _ s) _ s
  exact (FaultsOnly.foldl (fun s o => faultsOnly_recallOp s p.1 g o) g.ops _).after (.of_dies rfl rfl)

theorem faultsOnly_recallAll (ctx : Nat) (ps : List (Nat × Nat)) : FaultsOnly s (recallAll s ctx ps) :=
  .foldl (fun s _ => faultsOnly_recallLine s ctx _) ps s

theorem faultsOnly_readLines (ctx : Nat) (ps : List (Nat × Nat)) (acc : List Byte) : FaultsOnly s (readLines s ctx ps acc).1 := by
  induction ps generalizing s acc with
  | nil => exact .refl s
  | cons p ps ih =>
    have h := faultsOnly_homeAccess s { ctx := ctx, va := p.1, n := p.2, r := true, w := false, reads := true, agent := .outside } (fun _ => none)
    unfold readLines
    split
    · next he => rw [he] at h; exact h.trans (ih ..)
    all_goals next he => rw [he] at h; exact h

theorem faultsOnly_readVirt (ctx va n : Nat) : FaultsOnly s (readVirt s ctx va n).1 :=
  (faultsOnly_recallAll ..).trans (faultsOnly_readLines ..)

end
end Sys2Proof.Machine
end

section
/-! ## Proofs: operand transfers -/

namespace Sys2Proof.Machine

/-! ### A transfer lands (R190, R192) -/

section
variable (s : State) (d i j : Nat)

theorem xfers_modRec (f : Rec → Rec) : ((s.modRec d i j f).die d).xfers = (s.die d).xfers := by rw [State.modRec, die_modDie]

theorem xfers_progress : ((s.progress d i).die d).xfers = (s.die d).xfers := by rw [State.progress, State.modGraph, die_modDie]

end

/-- The bytes stand in the tile and the transfer has left the queue; its token is still to be counted. -/
def loadedXfer (s : State) (d : Nat) (r : Rec) (x : Xfer) (bs : List Byte) : State :=
  (s.modTile (r.place.getD x.rank 0) (fun T => T.loadXfer x (xferRange r x).2.2 bs)).modDie d
    (fun D => { D with xfers := D.xfers.filter (fun y => y.id != x.id) })

theorem landXfer_eq (s : State) (d : Nat) (r : Rec) (x : Xfer) (bs : List Byte) : landXfer s d r x bs =
    if r.opend ≤ 1 then
      (((loadedXfer s d r x bs).modRec d x.inst x.tidx (fun r => { r with opend := 0, st := .runnable })).progress d x.inst).post
        (.strandStart d x.inst x.tidx)
    else (loadedXfer s d r x bs).modRec d x.inst x.tidx (fun r => { r with opend := r.opend - 1 }) := rfl

/-- The transfers left when one has landed. -/
theorem xfers_landXfer (s : State) (d : Nat) (r : Rec) (x : Xfer) (bs : List Byte) :
    ((landXfer s d r x bs).die d).xfers = (s.die d).xfers.filter (fun y => y.id != x.id) := by
  rw [landXfer_eq]
  split <;> simp [xfers_modRec, xfers_progress, loadedXfer]

theorem tile_landXfer {s : State} {d : Nat} {r : Rec} {x : Xfer} {bs : List Byte} (hne : (s.tile (r.place.getD x.rank 0)).phase ≠ .idle) :
    (landXfer s d r x bs).tile (r.place.getD x.rank 0) = (s.tile (r.place.getD x.rank 0)).loadXfer x (xferRange r x).2.2 bs := by
  have hl : (s.tile (r.place.getD x.rank 0)).loadXfer x (xferRange r x).2.2 bs ≠ Tile.reset := by
    refine Tile.ne_reset_of_phase ?_
    unfold Tile.loadXfer
    split <;> exact hne
  have ht : (loadedXfer s d r x bs).tile (r.place.getD x.rank 0) = (s.tile (r.place.getD x.rank 0)).loadXfer x (xferRange r x).2.2 bs := by
    rw [loadedXfer, tile_modDie]
    exact tile_modTile s _ hl
  rw [landXfer_eq]
  split
  · rw [tile_post, tile_progress, tile_modRec, ht]
  · rw [tile_modRec, ht]

theorem rec?_landXfer {s : State} {d : Nat} {r : Rec} {x : Xfer} (bs : List Byte) (hr : s.rec? d x.inst x.tidx = some r) :
    (landXfer s d r x bs).rec? d x.inst x.tidx =
      some (if r.opend ≤ 1 then { r with opend := 0, st := .runnable } else { r with opend := r.opend - 1 }) := by
  have h : (loadedXfer s d r x bs).rec? d x.inst x.tidx = some r := by rw [State.rec?, loadedXfer, die_modDie]; exact hr
  rw [landXfer_eq]
  split
  · rw [rec?_post, rec?_progress, rec?_modRec, h]
    · rfl
    · exact fun _ => ⟨rfl, rfl⟩
  · rw [rec?_modRec, h]
    · rfl
    · exact fun _ => ⟨rfl, rfl⟩

theorem landXfer_landed {s : State} {d : Nat} {r : Rec} {x : Xfer} (bs : List Byte) (hr : s.rec? d x.inst x.tidx = some r)
    (hne : (s.tile (r.place.getD x.rank 0)).phase ≠ .idle) : TransferLanded s (landXfer s d r x bs) d r x bs where
  code h := by rw [tile_landXfer hne, Tile.loadXfer, h]
  data h := by
    rw [tile_landXfer hne, Tile.loadXfer]
    split
    · exact absurd ‹_› h
    · rfl
  left := by rw [xfers_landXfer, List.filter_map]; rfl
  record := rec?_landXfer bs hr
  last h := by simp [landXfer_eq, loadedXfer, if_pos h]

/-! ### A transfer unit's bytes (R191) -/

theorem xferBytes_plain {s : State} {r : Rec} {x : Xfer} (va : Nat) (bs : List Byte)
    (h : ∀ j, x.what = .op j → (r.ops.getD j r.op0).sen = false) : xferBytes s r x va bs = bs := by
  unfold xferBytes
  split
  · next k hk => exact if_neg (by rw [h k hk]; decide)
  · rfl

/-- The unit of a queued transfer whose key no more than 160 transfers share holds them all. -/
theorem xferUnit_eq_sameKey {s : State} {d : Nat} {r : Rec} {x : Xfer} (hx : x.id ∈ sameKey s d r x) (hlen : (s.die d).xfers.length ≤ 160) :
    xferUnit s d r x = sameKey s d r x := by
  have hl : (sameKey s d r x).length ≤ 160 := by
    rw [sameKey, List.length_map]
    exact (List.length_filter_le _ _).trans hlen
  have hi : (sameKey s d r x).idxOf x.id < 160 := (List.idxOf_lt_length_of_mem hx).trans_le hl
  rw [xferUnit, Nat.div_eq_of_lt hi, Nat.zero_mul, List.drop_zero, List.take_of_length_le hl]

/-- Another queued transfer that has no bytes yet is of the unit when its key is x's. -/
theorem mem_sameKey {s : State} {d : Nat} {r q : Rec} {x y : Xfer} (hy : y ∈ (s.die d).xfers) (hb : y.bytes = none)
    (hq : s.rec? d y.inst y.tidx = some q) (hk : xferKey q y = xferKey r x) : y.id ∈ sameKey s d r x :=
  List.mem_map_of_mem (List.mem_filter.2 ⟨hy, by simp [hb, hq, hk]⟩)

theorem not_mem_sameKey {s : State} {d : Nat} {r : Rec} {x y : Xfer} (hy : y ∈ (s.die d).xfers) (hn : ((s.die d).xfers.map (·.id)).Nodup)
    (hk : ∀ q, s.rec? d y.inst y.tidx = some q → xferKey q y ≠ xferKey r x) : y.id ∉ sameKey s d r x := by
  intro hm
  obtain ⟨z, hz, hid⟩ := List.mem_map.1 hm
  obtain ⟨hz, hzk⟩ := List.mem_filter.1 hz
  rw [Bool.and_eq_true] at hzk
  obtain rfl : z = y := List.inj_on_of_nodup_map hn hz hy hid
  cases hq : s.rec? d z.inst z.tidx with
  | none => simp [hq] at hzk
  | some q => exact hk q hq (by simpa [hq] using hzk.2)

/-- The transfers when a unit has its bytes. -/
theorem xfers_shareBytes (s : State) (d : Nat) (r : Rec) (x : Xfer) (bs : List Byte) : ((shareBytes s d r x bs).die d).xfers =
    (s.die d).xfers.map (fun y => if (xferUnit s d r x).contains y.id then { y with bytes := some bs } else y) := by
  rw [shareBytes, die_modDie]

theorem ids_shareBytes (s : State) (d : Nat) (r : Rec) (x : Xfer) (bs : List Byte) :
    ((shareBytes s d r x bs).die d).xfers.map (·.id) = (s.die d).xfers.map (·.id) := by
  rw [xfers_shareBytes, List.map_map]
  refine List.map_congr_left (fun y _ => ?_)
  simp only [Function.comp_apply]
  split <;> rfl

theorem rec?_shareBytes (s : State) (d : Nat) (r : Rec) (x : Xfer) (bs : List Byte) (i j : Nat) :
    (shareBytes s d r x bs).rec? d i j = s.rec? d i j := by rw [State.rec?, shareBytes, die_modDie]; rfl

/-- A transfer that lands after its unit has shared its bytes. -/
theorem landed_of_shared {s t : State} {d : Nat} {r : Rec} {x : Xfer} {bs : List Byte} (h : TransferLanded (shareBytes s d r x bs) t d r x bs) :
    TransferLanded s t d r x bs where
  code hc := by rw [h.code hc, shareBytes, tile_modDie]
  data hc := by rw [h.data hc, shareBytes, tile_modDie]
  left := by rw [h.left, ids_shareBytes]
  record := h.record
  last hl := by rw [h.last hl, shareBytes, agenda_modDie]

/-- What is left of another transfer once a unit has shared its bytes and x has landed. -/
theorem mem_xfers_shared {s : State} {d : Nat} {r : Rec} {x y : Xfer} {bs : List Byte} (hx : x.id ∈ sameKey s d r x)
    (hy : y ∈ (s.die d).xfers) (hid : y.id ≠ x.id) (hb : y.bytes = none) (hlen : (s.die d).xfers.length ≤ 160)
    (hn : ((s.die d).xfers.map (·.id)).Nodup) :
    (∀ q, s.rec? d y.inst y.tidx = some q → xferKey q y = xferKey r x →
      { y with bytes := some bs } ∈ ((landXfer (shareBytes s d r x bs) d r x bs).die d).xfers) ∧
    ((∀ q, s.rec? d y.inst y.tidx = some q → xferKey q y ≠ xferKey r x) → y ∈ ((landXfer (shareBytes s d r x bs) d r x bs).die d).xfers) := by
  rw [xfers_landXfer, xfers_shareBytes, xferUnit_eq_sameKey hx hlen]
  refine ⟨fun q hq hk => List.mem_filter.2 ⟨List.mem_map.2 ⟨y, hy, ?_⟩, by simpa using hid⟩,
    fun hk => List.mem_filter.2 ⟨List.mem_map.2 ⟨y, hy, ?_⟩, by simpa using hid⟩⟩
  · rw [if_pos (List.contains_iff_mem.2 (mem_sameKey hy hb hq hk))]
  · rw [if_neg (fun h => not_mem_sameKey hy hn hk (List.contains_iff_mem.1 h))]

/-! ### The token of a transfer (R190, R191) -/

/-- No transfer of the same tile is older. -/
theorem no_older_xfer {s : State} {d id : Nat} {x : Xfer}
    (h : ∀ y ∈ (s.die d).xfers, y.inst = x.inst → y.tidx = x.tidx → y.rank = x.rank → id ≤ y.id) :
    (s.die d).xfers.any (fun y => decide (y.id < id) && y.inst == x.inst && y.tidx == x.tidx && y.rank == x.rank) = false := by
  rw [List.any_eq_false]
  intro y hy hc
  simp only [Bool.and_eq_true, decide_eq_true_eq, beq_iff_eq] at hc
  obtain ⟨⟨⟨hlt, h1⟩, h2⟩, h3⟩ := hc
  exact absurd (h y hy h1 h2 h3) (Nat.not_le.2 hlt)

section
variable {s : State} {d id : Nat} {x : Xfer} {r : Rec} {bs : List Byte}
  (hx : (s.die d).xfers.find? (fun y => y.id == id) = some x) (hr : s.rec? d x.inst x.tidx = some r)
  (hfr : (s.tile (r.place.getD x.rank 0)).frozen = false)
  (hold : ∀ y ∈ (s.die d).xfers, y.inst = x.inst → y.tidx = x.tidx → y.rank = x.rank → id ≤ y.id)
include hx hr hfr hold

theorem operandToken_lands (hne : (s.tile (r.place.getD x.rank 0)).phase ≠ .idle) (hb : x.bytes = some bs) :
    ∃ t, execOperandToken d id s = .next t ∧ TransferLanded s t d r x bs ∧ (∀ y ∈ (s.die d).xfers, y.id ≠ id → y ∈ (t.die d).xfers) := by
  have hid : x.id = id := by simpa using List.find?_some hx
  refine ⟨landXfer s d r x bs, ?_, landXfer_landed bs hr hne, fun y hy hyid => ?_⟩
  · simp only [execOperandToken, hx, hr, hfr, no_older_xfer hold, Bool.or_self, Bool.false_eq_true, if_false, hb]
  · rw [xfers_landXfer]
    exact List.mem_filter.2 ⟨hy, by simpa [hid] using hyid⟩

theorem operandToken_reads {u : State} (hb : x.bytes = none) (hlen : (xferRange r x).2.1 ≠ 0)
    (hrd : readVirt s r.ctx (xferRange r x).1 (xferRange r x).2.1 = (u, .data bs)) (hru : u.rec? d x.inst x.tidx = some r)
    (hne : (u.tile (r.place.getD x.rank 0)).phase ≠ .idle) (hsen : ∀ j, x.what = .op j → (r.ops.getD j r.op0).sen = false) :
    ∃ t, execOperandToken d id s = .next t ∧ TransferLanded u t d r x bs ∧
      (∀ y ∈ (u.die d).xfers, y.id ≠ id → y.bytes = none → (u.die d).xfers.length ≤ 160 → ((u.die d).xfers.map (·.id)).Nodup →
        (∀ q, u.rec? d y.inst y.tidx = some q → xferKey q y = xferKey r x → { y with bytes := some bs } ∈ (t.die d).xfers) ∧
        ((∀ q, u.rec? d y.inst y.tidx = some q → xferKey q y ≠ xferKey r x) → y ∈ (t.die d).xfers)) := by
  have hid : x.id = id := by simpa using List.find?_some hx
  have hkept : (u.die d).xfers = (s.die d).xfers := by
    have h := faultsOnly_readVirt s r.ctx (xferRange r x).1 (xferRange r x).2.1
    rw [hrd] at h; exact h.xfers d
  have hxu : x ∈ (u.die d).xfers := hkept ▸ List.mem_of_find?_eq_some hx
  have hkey : x.id ∈ sameKey u d r x := mem_sameKey hxu hb hru rfl
  refine ⟨landXfer (shareBytes u d r x bs) d r x bs, ?_, landed_of_shared (landXfer_landed bs ((rec?_shareBytes ..).trans hru) ?_), ?_⟩
  · simp only [execOperandToken, hx, hr, hfr, no_older_xfer hold, Bool.or_self, Bool.false_eq_true, if_false, hb,
      hlen, hrd, xferBytes_plain _ bs hsen]
  · rw [shareBytes, tile_modDie]; exact hne
  · exact fun y hy hyid hyb hl hn => mem_xfers_shared hkey hy (hid ▸ hyid) hyb hl hn

end
end Sys2Proof.Machine
end

section
/-! ## Proofs: placement -/

namespace Sys2Proof.Machine

/-! ### A placement's rectangle has members (R186, R187) -/

theorem firstRect_mem {l : List Rect} {q : Rect} (h : firstRect l = some q) : q ∈ l := by
  have key : ∀ (l : List Rect) (o : Option Rect), l.foldl (fun (best : Option Rect) (r : Rect) => match best with
      | none => some r
      | some b => if r.key < b.key then some r else some b) o = some q → q ∈ l ∨ o = some q := by
    intro l
    induction l with
    | nil => exact fun o h => .inr h
    | cons r l ih =>
      intro o h
      rw [List.foldl_cons] at h
      rcases ih _ h with h | h
      · exact .inl (List.mem_cons_of_mem r h)
      · cases o with
        | none => cases h; exact .inl List.mem_cons_self
        | some b =>
          dsimp only at h
          split at h
          · cases h; exact .inl List.mem_cons_self
          · exact .inr h
  exact (key l none h).resolve_right nofun

theorem members_ne_nil_of_candidate {d kind n : Nat} {free page : Nat → Bool} {q : Rect} (h : candidate d kind n free page = some q) :
    q.members d kind ≠ [] := by
  have hf : q.fits d kind n free page = true := (List.mem_filter.1 (firstRect_mem h)).2
  intro hnil
  simp [Rect.fits, Rect.tight, hnil] at hf

/-- A unit of one placed record has that record alone. -/
theorem placeAll_single {d : Nat} {page free : Nat → Bool} {rs : List Rec} {r : Rec} {q : Rect} (h : placeAll d page rs free = some [(r, q)]) :
    rs = [r] ∧ q.members d r.kind ≠ [] := by
  cases rs with
  | nil => cases h
  | cons r' rs =>
    unfold placeAll at h
    split at h
    · cases h
    · next q' hq =>
      dsimp only at h
      split at h
      · cases h
      · next l hl =>
        cases h
        cases rs with
        | nil => exact ⟨rfl, members_ne_nil_of_candidate hq⟩
        | cons r2 rs =>
          unfold placeAll at hl
          split at hl
          · cases hl
          · dsimp only at hl
            split at hl <;> cases hl

/-! ### What queueing transfers leaves alone (R190) -/

/-- The transfers of a die, the serial numbers and the agenda alone differ. -/
structure QueuesOnly (d : Nat) (s t : State) : Prop where
  tile : ∀ u, t.tile u = s.tile u
  die : t.die d = { s.die d with xfers := (t.die d).xfers }
  ctx : ∀ c, t.ctx c = s.ctx c
  vf : ∀ v, t.vf v = s.vf v

theorem QueuesOnly.refl (d : Nat) (s : State) : QueuesOnly d s s := ⟨fun _ => rfl, rfl, fun _ => rfl, fun _ => rfl⟩

theorem QueuesOnly.trans {d : Nat} {s t u : State} (h : QueuesOnly d s t) (h' : QueuesOnly d t u) : QueuesOnly d s u :=
  ⟨fun k => (h'.tile k).trans (h.tile k), h'.die.trans (by rw [h.die]), fun c => (h'.ctx c).trans (h.ctx c), fun v => (h'.vf v).trans (h.vf v)⟩

theorem QueuesOnly.foldl {α : Type} {d : Nat} {f : State → α → State} (hf : ∀ s a, QueuesOnly d s (f s a)) (l : List α) (s : State) :
    QueuesOnly d s (l.foldl f s) := by
  induction l generalizing s with
  | nil => exact refl d s
  | cons a l ih => exact (hf s a).trans (ih _)

theorem queuesOnly_queueXfer (s : State) (d : Nat) (x : Xfer) : QueuesOnly d s (queueXfer s d x) where
  tile u := by rw [queueXfer, tile_post, tile_modDie]; rfl
  die := by rw [queueXfer, die_post, die_modDie]; rfl
  ctx c := by rw [queueXfer]; exact ctx_modDie _ d _ c
  vf v := by rw [queueXfer]; exact vf_modDie _ d _ v

/-! ### A unit of one record is placed (R165, R166, R188, R190) -/

/-- A record as its placement leaves it. -/
def Rec.placedAt (r : Rec) (d : Nat) (ts : List Nat) (q : Rect) : Rec :=
  { r with place := ts, crect := q.high d * 2 ^ 16 + q.low d, opend := r.tiles * (transferKinds r).length }

theorem transferKinds_length (r : Rec) : (transferKinds r).length = 2 + (r.ops.filter (fun o => o.mode == 1 || o.mode == 2)).length := by
  have h : r.ops = (List.range 3).map (fun k => r.ops.getD k r.op0) := rfl
  have hf : (r.ops.filter OpDesc.moves).length = ((List.range 3).filter (fun k => (r.ops.getD k r.op0).moves)).length := by
    conv_lhs => rw [h, List.filter_map, List.length_map]
    rfl
  rw [transferKinds, List.length_append, List.length_map, ← hf]; rfl

/-- A tile as its placement leaves it. -/
def Tile.placedFor (T : Tile) (v : Nat) (r : Rec) : Tile :=
  { Tile.reset with phase := .placed, vf := v, inst := r.inst, tidx := r.tidx, tiles := r.tiles, events := r.ev,
                    ctx := BitVec.ofNat 64 r.ctx, fibre := T.fibre }

/-- The transfers of a placed record's tiles. -/
def queueXfers (s : State) (d : Nat) (r : Rec) (n : Nat) : State :=
  (List.range n).foldl (fun s k =>
    (transferKinds r).foldl (fun s w => queueXfer s d { id := 0, inst := r.inst, tidx := r.tidx, rank := k, what := w, bytes := none }) s) s

theorem queuesOnly_queueXfers (s : State) (d : Nat) (r : Rec) (n : Nat) : QueuesOnly d s (queueXfers s d r n) :=
  .foldl (fun s _ => .foldl (fun s _ => queuesOnly_queueXfer s d _) _ s) _ s

/-- The tiles of a member are cleared for its virtual function. -/
theorem foldl_placedFor (r : Rec) (ts : List Nat) (s : State) :
    ts.foldl (fun s t => s.modTile t (fun T => T.placedFor (s.ctx r.ctx).vf r)) s = s.modTiles id (fun _ T => T.placedFor (s.ctx r.ctx).vf r) ts := by
  have key : ∀ (ts : List Nat) (s' : State), (s'.ctx r.ctx).vf = (s.ctx r.ctx).vf →
      ts.foldl (fun s t => s.modTile t (fun T => T.placedFor (s.ctx r.ctx).vf r)) s' =
        ts.foldl (fun s' t => s'.modTile t (fun T => T.placedFor (s.ctx r.ctx).vf r)) s' := by
    intro ts
    induction ts with
    | nil => exact fun _ _ => rfl
    | cons t ts ih =>
      intro s' h
      rw [List.foldl_cons, List.foldl_cons, h]
      exact ih _ h
  exact key ts s rfl

theorem placeMember_eq (s : State) (d : Nat) (r : Rec) (q : Rect) : placeMember s d r q =
    let s1 := s.modRec d r.inst r.tidx (fun r' => r'.placedAt d (q.members d r.kind) q)
    queueXfers (s1.modTiles id (fun _ T => T.placedFor (s1.ctx r.ctx).vf r) (q.members d r.kind)) d r (q.members d r.kind).length := by
  dsimp only
  rw [← foldl_placedFor]; rfl

/-- A property that a change gives to each tile of a list holds of them all in the end. -/
theorem modTiles_forall {α : Type} {key : α → Nat} {g : α → Tile → Tile} {P : Tile → Prop} (hP : ∀ a T, P (g a T))
    (hne : ∀ a T, g a T ≠ Tile.reset) {l : List α} {u : Nat} (hu : u ∈ l.map key) (s : State) : P ((s.modTiles key g l).tile u) := by
  induction l generalizing s with
  | nil => cases hu
  | cons b l ih =>
    rw [State.modTiles, List.foldl_cons, ← State.modTiles]
    by_cases hl : u ∈ l.map key
    · exact ih hl _
    · obtain rfl : u = key b := (List.mem_cons.1 hu).resolve_right hl
      rw [tile_modTiles_other key g _ hl, tile_modTile s _ (hne _ _)]
      exact hP b _

/-- The records of a die as the placement of record r changes them. -/
def placeRec (d : Nat) (r : Rec) (q : Rect) (r' : Rec) : Rec :=
  if r'.inst == r.inst && r'.tidx == r.tidx then r'.placedAt d (q.members d r.kind) q else r'

theorem placeRec_kept (d : Nat) (r : Rec) (q : Rect) (r' : Rec) : (placeRec d r q r').inst = r'.inst ∧ (placeRec d r q r').gang = r'.gang ∧
    (placeRec d r q r').st = r'.st ∧ (placeRec d r q r').tidx = r'.tidx := by
  unfold placeRec; split <;> exact ⟨rfl, rfl, rfl, rfl⟩

/-- A record that is placed nowhere after the placement has not changed. -/
theorem placeRec_of_unplaced {d : Nat} {r r' : Rec} {q : Rect} (hm : q.members d r.kind ≠ []) (h : (placeRec d r q r').place = []) :
    placeRec d r q r' = r' := by
  unfold placeRec at *
  split at h
  · exact absurd h hm
  · next hn => exact if_neg hn

/-- What the placement of a unit of one record changes. -/
structure UnitPlaced (s t : State) (d : Nat) (u : RUnit) (r : Rec) (q : Rect) : Prop where
  recs : (t.die d).recs = (s.die d).recs.map (placeRec d r q)
  ready : (t.die d).ready = (s.die d).ready.filter (fun v => !(v.inst == u.inst && v.tidx == u.tidx))
  gate : ∀ i, (t.graph? d i).map Graph.gate = (s.graph? d i).map Graph.gate
  ctx : ∀ c, t.ctx c = s.ctx c
  vf : ∀ v, t.vf v = s.vf v
  tile : ∀ k ∈ q.members d r.kind, ∃ T : Tile, t.tile k = T.placedFor (s.ctx r.ctx).vf r

theorem gate_progress (s : State) (d i j : Nat) : ((s.progress d i).graph? d j).map Graph.gate = (s.graph? d j).map Graph.gate := by
  have hp : (fun g : Graph => g.inst == j) ∘ (fun g => if g.inst == i then { g with prog := s.cyc } else g) = fun g => g.inst == j := by
    funext g
    simp only [Function.comp_apply]
    split <;> rfl
  simp only [State.graph?, State.progress, State.modGraph, die_modDie, List.find?_map, hp, Option.map_map]
  refine congrArg (fun f => Option.map f _) (funext fun g => ?_)
  simp only [Function.comp_apply]
  split <;> rfl

theorem placeUnit_placed (s : State) (d : Nat) (u : RUnit) (r : Rec) (q : Rect) : UnitPlaced s (placeUnit s d u [(r, q)]) d u r q := by
  set s1 := s.modDie d (fun D => { D with ready := D.ready.filter (fun v => !(v.inst == u.inst && v.tidx == u.tidx)),
                                          resv := if D.holds u then none else D.resv }) with hs1
  set s2 := s1.modRec d r.inst r.tidx (fun r' => r'.placedAt d (q.members d r.kind) q) with hs2
  set s3 := s2.modTiles id (fun _ T => T.placedFor (s2.ctx r.ctx).vf r) (q.members d r.kind) with hs3
  set s4 := queueXfers s3 d r (q.members d r.kind).length with hs4
  have he : placeUnit s d u [(r, q)] = s4.progress d u.inst := by
    have hm : placeMember s1 d r q = s4 := placeMember_eq s1 d r q
    rw [← hm]; rfl
  have hk := modTiles_kept id (fun _ T => T.placedFor (s2.ctx r.ctx).vf r) s2 (q.members d r.kind)
  have hq : QueuesOnly d s3 s4 := queuesOnly_queueXfers ..
  have hd : s3.die d = { s.die d with
      recs := (s.die d).recs.map (placeRec d r q)
      resv := (s3.die d).resv
      ready := (s.die d).ready.filter (fun v => !(v.inst == u.inst && v.tidx == u.tidx)) } := by
    have h3 : s3.die d = s2.die d := by rw [hs3, hk]; rfl
    rw [h3, hs2, State.modRec, die_modDie, hs1, die_modDie]; rfl
  have hctx : ∀ c, s2.ctx c = s.ctx c := fun c => by rw [hs2, State.modRec, ctx_modDie, hs1, ctx_modDie]
  have hvf : ∀ v, s2.vf v = s.vf v := fun v => by rw [hs2, State.modRec, vf_modDie, hs1, vf_modDie]
  rw [he]
  refine ⟨?_, ?_, fun i => ?_, fun c => ?_, fun v => ?_, fun k hmem => ?_⟩
  · rw [State.progress, State.modGraph, die_modDie, hq.die, hd]
  · rw [State.progress, State.modGraph, die_modDie, hq.die, hd]
  · rw [gate_progress, State.graph?, hq.die, hd]; rfl
  · rw [State.progress, State.modGraph, ctx_modDie, hq.ctx, hs3, hk]; exact hctx c
  · rw [State.progress, State.modGraph, vf_modDie, hq.vf, hs3, hk]; exact hvf v
  · rw [tile_progress, hq.tile, ← hctx]
    exact modTiles_forall (P := fun T' => ∃ T : Tile, T' = T.placedFor (s2.ctx r.ctx).vf r) (fun _ T => ⟨T, rfl⟩)
      (fun _ T => Tile.ne_reset_of_phase (fun h => by cases h)) (by simpa using hmem) s2

/-! ### No unit waits that did not wait before (R188) -/

theorem insertRec_map {g : Rec → Rec} (hg : ∀ r, (g r).tidx = r.tidx) (r : Rec) (l : List Rec) :
    insertRec (g r) (l.map g) = (insertRec r l).map g := by
  induction l with
  | nil => rfl
  | cons q l ih =>
    rw [List.map_cons, insertRec, insertRec, hg, hg, ih]
    split <;> rfl

theorem byIndex_map {g : Rec → Rec} (hg : ∀ r, (g r).tidx = r.tidx) (l : List Rec) : byIndex (l.map g) = (byIndex l).map g := by
  induction l with
  | nil => rfl
  | cons r l ih =>
    rw [List.map_cons, byIndex, List.foldr_cons, ← byIndex, ih, insertRec_map hg, byIndex, byIndex, List.foldr_cons]

section
variable {s t : State} {d : Nat} {u : RUnit} {r : Rec} {q : Rect} (h : UnitPlaced s t d u r q)
include h

/-- The records of a unit are those before, the placed ones changed. -/
theorem UnitPlaced.unitRecs_eq (v : RUnit) : unitRecs t d v = (unitRecs s d v).map (placeRec d r q) := by
  have hp : (fun r' : Rec => r'.inst == v.inst && r'.gang == v.tidx && r'.st == .fetching) ∘ placeRec d r q =
      fun r' => r'.inst == v.inst && r'.gang == v.tidx && r'.st == .fetching := funext fun r' => by
    obtain ⟨h1, h2, h3, -⟩ := placeRec_kept d r q r'
    simp only [Function.comp_apply, h1, h2, h3]
  rw [unitRecs, h.recs, List.filter_map, hp, byIndex_map (fun r' => (placeRec_kept d r q r').2.2.2), unitRecs]

/-- A unit that is ready after the placement was ready before. -/
theorem UnitPlaced.unitReady_of (hm : q.members d r.kind ≠ []) {v : RUnit} (hv : unitReady t d v = true) : unitReady s d v = true := by
  have hall : (unitRecs t d v).all (fun r => r.spill.isNone && r.place.isEmpty) = true := by
    simp only [unitReady, Bool.and_eq_true] at hv
    exact hv.1.2
  have hsame : unitRecs t d v = unitRecs s d v := by
    rw [h.unitRecs_eq] at hall ⊢
    refine (List.map_congr_left (fun r' hr' => ?_)).trans (List.map_id _)
    have hp := List.all_eq_true.1 hall _ (List.mem_map_of_mem hr')
    exact placeRec_of_unplaced hm (by simpa using (Bool.and_eq_true_iff.1 hp).2)
  have hgate := h.gate v.inst
  unfold unitReady at *
  rw [hsame] at hv
  simp only [h.ctx, h.vf] at hv
  cases ht : t.graph? d v.inst with
  | none => rw [ht] at hv; simp at hv
  | some g =>
    cases hs : s.graph? d v.inst with
    | none => rw [ht, hs] at hgate; cases hgate
    | some g' =>
      rw [ht, hs, Option.map_some, Option.map_some, Option.some_inj] at hgate
      rw [ht] at hv
      dsimp only at hv ⊢
      rw [← hgate]; exact hv

/-- When the placed unit was the only one that could be placed, none can be. -/
theorem UnitPlaced.waitingUnits_nil (hm : q.members d r.kind ≠ []) (hw : waitingUnits s d = [u]) : waitingUnits t d = [] := by
  rw [List.eq_nil_iff_forall_not_mem]
  intro v hv
  obtain ⟨p, hp, hv⟩ := List.mem_flatMap.1 hv
  obtain ⟨hv, hpr⟩ := List.mem_filter.1 hv
  rw [Bool.and_eq_true] at hpr
  rw [h.ready] at hv
  obtain ⟨hv, hne⟩ := List.mem_filter.1 hv
  have hin : v ∈ waitingUnits s d :=
    List.mem_flatMap.2 ⟨p, hp, List.mem_filter.2 ⟨hv, Bool.and_eq_true_iff.2 ⟨hpr.1, h.unitReady_of hm hpr.2⟩⟩⟩
  rw [hw, List.mem_singleton] at hin
  subst hin
  simp at hne

end

theorem placementRounds_of_none {s : State} {d : Nat} (h : waitingUnits s d = []) (n : Nat) : placementRounds s d n = s := by
  cases n with
  | zero => rfl
  | succ n => rw [placementRounds, h]

theorem placementPass_places {s : State} {d : Nat} {u : RUnit} {r : Rec} {q : Rect} (hdn : s.dieDown d = false) (hw : waitingUnits s d = [u])
    (hres : (s.die d).resv = none) (hr : s.rec? d r.inst r.tidx = some r) (ht : tryUnit s d u (fun _ => true) = some [(r, q)]) :
    ∃ t, execPlacementPass d s = .next t ∧
      t.rec? d r.inst r.tidx = some { r with
        place := q.members d r.kind, crect := q.high d * 2 ^ 16 + q.low d,
        opend := r.tiles * (2 + (r.ops.filter (fun o => o.mode == 1 || o.mode == 2)).length) } ∧
      (∀ v ∈ (t.die d).ready, ¬ (v.inst = u.inst ∧ v.tidx = u.tidx)) ∧
      ∀ k ∈ q.members d r.kind, (t.tile k).phase = .placed ∧ (t.tile k).inst = r.inst ∧ (t.tile k).tidx = r.tidx ∧
        (t.tile k).vf = (s.ctx r.ctx).vf ∧ (t.tile k).ctx = BitVec.ofNat 64 r.ctx ∧ (t.tile k).spad = [] ∧ (t.tile k).code = [] := by
  have h := placeUnit_placed s d u r q
  have hm := (placeAll_single ht).2
  have hx : execPlacementPass d s = .next (placeUnit s d u [(r, q)]) := by
    have hpage : (fun p => if (s.die d).holds u then (s.die d).reserved?.contains p else !(s.die d).reserved?.contains p) = fun _ => true := by
      funext p
      simp [Die.holds, Die.reserved?, hres]
    rw [execPlacementPass, hdn, if_neg Bool.false_ne_true, placementRounds, hw]
    simp only [hpage, ht]
    rw [placementRounds_of_none (h.waitingUnits_nil hm hw)]
  refine ⟨_, hx, ?_, fun v hv hn => ?_, fun k hk => ?_⟩
  · have hrec : (placeUnit s d u [(r, q)]).rec? d r.inst r.tidx =
        (s.modRec d r.inst r.tidx (fun r' => r'.placedAt d (q.members d r.kind) q)).rec? d r.inst r.tidx := by
      rw [State.rec?, State.rec?, h.recs, State.modRec, die_modDie]; rfl
    rw [hrec, rec?_modRec, hr, Option.map_some, Rec.placedAt, transferKinds_length]
    exact fun _ => ⟨rfl, rfl⟩
  · rw [h.ready] at hv
    have := (List.mem_filter.1 hv).2
    simp [hn] at this
  · obtain ⟨T, hT⟩ := h.tile k hk
    rw [hT]; exact ⟨rfl, rfl, rfl, rfl, rfl, rfl, rfl⟩

end Sys2Proof.Machine
end

section
/-! ## Proofs: a task from its placement to its end -/

namespace Sys2Proof.Machine

/-! ### From placement to a task's end -/

/-- Settles O48: one lemma for each step of a task's life, in the order of the statement. -/
theorem tasksRun : Obligations.TasksRun := by
  unfold Obligations.TasksRun
  intro s
  refine ⟨?refill, ?place, ?read, ?land, ?start, ?retire, ?wait, ?enter, ?retireAll, ?done, ?watchdog, ?deadlock⟩
  case refill => exact fun _ _ hroom hr => execSpillRefill_of_room hroom hr
  case place => exact fun _ _ _ _ hdn hw hres hr _ ht => placementPass_places hdn hw hres hr ht
  case read => exact fun _ _ _ _ _ _ hx hr hfr hold hb hlen hrd hru hne hsen => operandToken_reads hx hr hfr hold hb hlen hrd hru hne hsen
  case land => exact fun _ _ _ _ _ hx hr hfr hne hold hb => operandToken_lands hx hr hfr hold hne hb
  case start => exact fun _ _ _ _ hr hst hfr hsch hdn hn => strandStart_launchValues hr hst hfr hsch hdn hn
  case retire => exact fun _ _ hj hp hd hev hg hc hr => strandRetire_retires hj hp hd hev hg hc hr
  case wait => exact fun _ hj hp hd hev hc => execStrandRetire_waits hj hp hd hev hc
  case enter => exact fun _ _ _ _ hev hp hd hc hpay => eventEntry_enters hev hp hd hc hpay
  case retireAll => exact fun _ _ _ _ hr hst hsig hw hq => eventRetire_retires hr hst hsig hw hq
  case done => exact fun _ _ _ _ hr hst hl hx hi hq => taskDone_frees hr hst hl hx hi hq
  case watchdog => exact fun _ _ _ hg hw hfr hdue => graphWatchdog_reports hg hw hfr hdue
  case deadlock => exact fun _ _ hd hslv hen => execDecouplingDeadlock_handlerEntered hd hslv hen

end Sys2Proof.Machine
end

section
/-! ## Proofs: rounding to a float format -/

namespace Sys2Proof.Machine

/-! ### Powers of two and signed magnitudes -/

/-- A magnitude with a sign. -/
def withSign (s : Bool) (v : ℚ) : ℚ := if s then -v else v

@[simp] theorem withSign_false (v : ℚ) : withSign false v = v := rfl
@[simp] theorem withSign_true (v : ℚ) : withSign true v = -v := rfl

@[simp] theorem abs_withSign (s : Bool) (v : ℚ) : |withSign s v| = |v| := by cases s <;> simp

@[simp] theorem withSign_withSign (s : Bool) (v : ℚ) : withSign s (withSign s v) = v := by cases s <;> simp

theorem withSign_sub (s : Bool) (v w : ℚ) : withSign s v - withSign s w = withSign s (v - w) := by cases s <;> simp; ring

theorem toRat_fin (s : Bool) (n d : Nat) (e : Int) : (FVal.fin s n d e).toRat = some (withSign s ((n : ℚ) / d * 2 ^ e)) := by
  cases s <;> simp [FVal.toRat, neg_mul]

theorem pow2p_pos (k : Int) : 0 < pow2p k := Nat.two_pow_pos _

/-- One of 2^k and 2^−k is 1, so that both stand for one power of two. -/
theorem pow2p_eq (k : Int) : (pow2p k : ℚ) = 2 ^ k * pow2p (-k) := by
  obtain ⟨m, rfl | rfl⟩ := Int.eq_nat_or_neg k <;> simp [pow2p]

/-- A fraction over a shifted denominator is the number of its exponent. -/
theorem shifted_div (n d : Nat) (e q : Int) :
    ((n * pow2p (e - q) : Nat) : ℚ) / ((d * pow2p (q - e) : Nat) : ℚ) * 2 ^ q = (n : ℚ) / d * 2 ^ e := by
  have hp : ((pow2p (q - e) : Nat) : ℚ) ≠ 0 := Nat.cast_ne_zero.2 (pow2p_pos _).ne'
  have he : (2 : ℚ) ^ e = 2 ^ (e - q) * 2 ^ q := by rw [← zpow_add₀ two_ne_zero, sub_add_cancel]
  rw [Nat.cast_mul, Nat.cast_mul, pow2p_eq (e - q), neg_sub, he]
  rcases eq_or_ne (d : ℚ) 0 with hd | hd
  · simp [hd]
  · field_simp

/-! ### The binary logarithm -/

/-- The number of a logarithm lies between its power of two and the next. -/
theorem floorLog2_spec {n d : Nat} (hn : 0 < n) (hd : 0 < d) (e : Int) :
    (2 : ℚ) ^ floorLog2 n d e ≤ (n : ℚ) / d * 2 ^ e ∧ (n : ℚ) / d * 2 ^ e < 2 ^ (floorLog2 n d e + 1) := by
  set k : Int := (n.log2 : Int) - (d.log2 : Int) with hk
  have hd' : (0 : ℚ) < d := by exact_mod_cast hd
  have h1 : (2 : ℚ) ^ (n.log2 : Int) ≤ n := by exact_mod_cast Nat.log2_self_le hn.ne'
  have h2 : (n : ℚ) < 2 ^ ((n.log2 : Int) + 1) := by exact_mod_cast Nat.lt_log2_self
  have h3 : (2 : ℚ) ^ (d.log2 : Int) ≤ d := by exact_mod_cast Nat.log2_self_le hd.ne'
  have h4 : (d : ℚ) < 2 ^ ((d.log2 : Int) + 1) := by exact_mod_cast Nat.lt_log2_self
  have hlo : (2 : ℚ) ^ (k - 1) ≤ n / d := by
    rw [le_div_iff₀ hd']
    calc (2 : ℚ) ^ (k - 1) * d ≤ 2 ^ (k - 1) * 2 ^ ((d.log2 : Int) + 1) := by gcongr
      _ = 2 ^ (n.log2 : Int) := by rw [← zpow_add₀ two_ne_zero]; congr 1; omega
      _ ≤ n := h1
  have hhi : (n : ℚ) / d < 2 ^ (k + 1) := by
    rw [div_lt_iff₀ hd']
    calc (n : ℚ) < 2 ^ ((n.log2 : Int) + 1) := h2
      _ = 2 ^ (k + 1) * 2 ^ (d.log2 : Int) := by rw [← zpow_add₀ two_ne_zero]; congr 1; omega
      _ ≤ 2 ^ (k + 1) * d := by gcongr
  have hmid : n * pow2p (-k) < d * pow2p k ↔ (n : ℚ) / d < 2 ^ k := by
    have hp : (0 : ℚ) < pow2p (-k) := by exact_mod_cast pow2p_pos (-k)
    rw [div_lt_iff₀ hd', ← @Nat.cast_lt ℚ, Nat.cast_mul, Nat.cast_mul, pow2p_eq k, mul_left_comm, ← mul_assoc,
      mul_lt_mul_iff_left₀ hp]
  have hscale : ∀ m : Int, (2 : ℚ) ^ m ≤ n / d → (n : ℚ) / d < 2 ^ (m + 1) →
      (2 : ℚ) ^ (m + e) ≤ (n : ℚ) / d * 2 ^ e ∧ (n : ℚ) / d * 2 ^ e < 2 ^ (m + e + 1) := fun m ha hb => by
    rw [add_right_comm, zpow_add₀ two_ne_zero, zpow_add₀ two_ne_zero]
    exact ⟨by gcongr, by gcongr⟩
  rw [floorLog2, ← hk]
  split
  · next h => exact hscale _ hlo (by rw [sub_add_cancel]; exact hmid.1 h)
  · next h => exact hscale _ (not_lt.1 (mt hmid.2 h)) hhi

/-! ### The numbers of a format (R35) -/

/-- The magnitude of exponent field e and fraction m. -/
def FFormat.mag (f : FFormat) (e m : Nat) : ℚ := ((if e = 0 then m else 2 ^ f.fb + m : Nat) : ℚ) * 2 ^ f.quantum e

/-- What the formats of R35 have in common: a fraction, and a largest finite number below the special codes. -/
structure FFormat.Regular (f : FFormat) : Prop where
  fb   : 1 ≤ f.fb
  emax : 1 ≤ f.emax
  top  : f.emax < 2 ^ f.eb
  fmax : f.fmax < 2 ^ f.fb
  ieee : f.sp = .ieee → f.emax < 2 ^ f.eb - 1
  nan  : f.sp = .nanOnly → f.fmax < 2 ^ f.fb - 1

theorem regular_of_mem {f : FFormat} (h : f ∈ floatFormats) : f.Regular := by
  have : ∀ f ∈ floatFormats, 1 ≤ f.fb ∧ 1 ≤ f.emax ∧ f.emax < 2 ^ f.eb ∧ f.fmax < 2 ^ f.fb ∧
    (f.sp = .ieee → f.emax < 2 ^ f.eb - 1) ∧ (f.sp = .nanOnly → f.fmax < 2 ^ f.fb - 1) := by decide
  obtain ⟨h1, h2, h3, h4, h5, h6⟩ := this f h
  exact ⟨h1, h2, h3, h4, h5, h6⟩

/-- Exponent field e and fraction m are those of a finite number. -/
def FFormat.Finite (f : FFormat) (e m : Nat) : Prop := m < 2 ^ f.fb ∧ (e < f.emax ∨ e = f.emax ∧ m ≤ f.fmax)

/-- A rational that some exponent field and fraction stand for. -/
def FFormat.Lattice (f : FFormat) (z : ℚ) : Prop := ∃ s e m, m < 2 ^ f.fb ∧ z = withSign s (f.mag e m)

theorem FFormat.lattice_withSign {f : FFormat} {z : ℚ} (h : f.Lattice z) (s : Bool) : f.Lattice (withSign s z) := by
  obtain ⟨t, e, m, hm, rfl⟩ := h
  exact ⟨s != t, e, m, hm, by cases s <;> cases t <;> simp⟩

theorem FFormat.mag_nonneg (f : FFormat) (e m : Nat) : 0 ≤ f.mag e m := by unfold mag; positivity

theorem FFormat.lattice_of_num {f : FFormat} {c : Nat} {z : ℚ} (h : f.num c = some z) : f.Lattice z := by
  have hm : c % 2 ^ f.fb < 2 ^ f.fb := Nat.mod_lt _ (Nat.two_pow_pos _)
  unfold num decode at h
  dsimp only at h
  split at h
  · split at h <;> cases h
  · split at h
    · cases h
    · split at h <;> rw [toRat_fin, Option.some_inj] at h <;> subst h
      · next he => exact ⟨c.testBit (f.eb + f.fb), 0, _, hm, by simp [mag]⟩
      · next he => exact ⟨_, _, _, hm, by rw [mag, if_neg he, Nat.cast_one, div_one]⟩

section
variable {f : FFormat} (hf : f.Regular)
include hf

/-- Below the sign bit, exponent field and fraction of a finite number fit. -/
theorem FFormat.Finite.below_sign {e m : Nat} (h : f.Finite e m) : e * 2 ^ f.fb + m < 2 ^ (f.eb + f.fb) := by
  obtain ⟨hm, he⟩ := h
  have htop := hf.top
  calc e * 2 ^ f.fb + m < (e + 1) * 2 ^ f.fb := by rw [Nat.succ_mul]; omega
    _ ≤ 2 ^ f.eb * 2 ^ f.fb := Nat.mul_le_mul_right _ (by omega)
    _ = 2 ^ (f.eb + f.fb) := (Nat.pow_add ..).symm

/-- A finite code decodes to its sign, exponent field and fraction. -/
theorem FFormat.num_code (s : Bool) {e m : Nat} (h : f.Finite e m) : f.num (f.code s e m) = some (withSign s (f.mag e m)) := by
  have hlt := h.below_sign hf
  obtain ⟨hm, he⟩ := h
  have htop := hf.top
  have hs : (f.code s e m).testBit (f.eb + f.fb) = s := by
    rw [code, Nat.add_assoc]
    cases s
    · simp [Nat.testBit_lt_two_pow hlt]
    · simp [Nat.testBit_two_pow_add_eq, Nat.testBit_lt_two_pow hlt]
  have hfr : f.code s e m % 2 ^ f.fb = m := by
    have : f.code s e m = m + 2 ^ f.fb * ((if s then 2 ^ f.eb else 0) + e) := by
      rw [code, Nat.pow_add]; split <;> ring
    rw [this, Nat.add_mul_mod_self_left, Nat.mod_eq_of_lt hm]
  have hex : f.code s e m / 2 ^ f.fb % 2 ^ f.eb = e := by
    have : f.code s e m = m + 2 ^ f.fb * (e + 2 ^ f.eb * (if s then 1 else 0)) := by
      rw [code, Nat.pow_add]; split <;> ring
    rw [this, Nat.add_mul_div_left _ _ (Nat.two_pow_pos _), Nat.div_eq_of_lt hm, Nat.zero_add, Nat.add_mul_mod_self_left,
      Nat.mod_eq_of_lt (by omega)]
  have hieee : ¬ (f.sp = .ieee ∧ e = 2 ^ f.eb - 1) := fun ⟨h1, h2⟩ => by have := hf.ieee h1; omega
  have hnan : ¬ (f.sp = .nanOnly ∧ e = 2 ^ f.eb - 1 ∧ m = 2 ^ f.fb - 1) := fun ⟨h1, h2, h3⟩ => by have := hf.nan h1; omega
  rw [num, decode, hs, hfr, hex]
  rw [if_neg hieee, if_neg hnan, mag]
  split
  · next he0 => rw [toRat_fin, Nat.cast_one, div_one, he0]
  · rw [toRat_fin, Nat.cast_one, div_one]

theorem FFormat.code_lt (s : Bool) {e m : Nat} (h : f.Finite e m) : f.code s e m < 2 ^ f.width := by
  have hlt := h.below_sign hf
  have hw : 2 ^ f.width = 2 ^ (f.eb + f.fb) + 2 ^ (f.eb + f.fb) := by
    rw [width, Nat.add_assoc, Nat.pow_add, Nat.pow_one, Nat.two_mul]
  rw [code, hw]
  split <;> omega

theorem FFormat.code_even (s : Bool) (e : Nat) {m : Nat} (h : m % 2 = 0) : f.code s e m % 2 = 0 := by
  obtain ⟨k, hk⟩ : 2 ∣ 2 ^ f.fb := dvd_pow_self 2 (by have := hf.fb; omega)
  have : f.code s e m = 2 * ((if s then 2 ^ f.eb * k else 0) + e * k) + m := by
    rw [code, Nat.pow_add, hk]; split <;> ring
  omega

theorem FFormat.finite_largest : f.Finite f.emax f.fmax := ⟨hf.fmax, .inr ⟨rfl, le_rfl⟩⟩

end

/-! ### Gaps: no number of the format lies between two neighbours -/

theorem FFormat.quantum_zero_le (f : FFormat) (e : Nat) : f.quantum 0 ≤ f.quantum e := by unfold quantum; omega

/-- Between v × 2^q and (v + 1) × 2^q lies no number of the format, when 2^q is its smallest step or v has all its bits. -/
theorem FFormat.Lattice.outside_gap {f : FFormat} {z : ℚ} (hz : f.Lattice z) {q : Int} {v : Nat}
    (h : q = f.quantum 0 ∨ 2 ^ f.fb ≤ v) : z ≤ v * 2 ^ q ∨ ((v : ℚ) + 1) * 2 ^ q ≤ z := by
  obtain ⟨s, e, m, hm, rfl⟩ := hz
  have hu : (0 : ℚ) < 2 ^ q := by positivity
  cases s with
  | true => exact .inl ((neg_nonpos.2 (f.mag_nonneg e m)).trans (by positivity))
  | false =>
    set k : Nat := if e = 0 then m else 2 ^ f.fb + m with hk
    have hmag : withSign false (f.mag e m) = (k : ℚ) * 2 ^ f.quantum e := rfl
    rw [hmag]
    rcases le_or_gt q (f.quantum e) with hq | hq
    · obtain ⟨j, hj⟩ := Int.le.dest hq
      have hp : (k : ℚ) * 2 ^ f.quantum e = ((k * 2 ^ j : Nat) : ℚ) * 2 ^ q := by
        rw [← hj, zpow_add₀ two_ne_zero, zpow_natCast]; push_cast; ring
      rw [hp]
      rcases Nat.lt_or_ge v (k * 2 ^ j) with hv | hv
      · right; gcongr; exact_mod_cast hv
      · left; gcongr
    · left
      have hv : 2 ^ f.fb ≤ v := h.resolve_left (fun h0 => by have := f.quantum_zero_le e; omega)
      have hk2 : k ≤ 2 ^ (f.fb + 1) := by rw [Nat.pow_succ, hk]; split <;> omega
      calc (k : ℚ) * 2 ^ f.quantum e ≤ 2 ^ (f.fb + 1) * 2 ^ (q - 1) := by
            gcongr
            · exact_mod_cast hk2
            · norm_num
            · omega
        _ = 2 ^ f.fb * 2 ^ q := by rw [zpow_sub_one₀ two_ne_zero, pow_succ]; ring
        _ ≤ v * 2 ^ q := by gcongr; exact_mod_cast hv

/-! ### One rounding to a multiple of a step (R42) -/

/-- When a magnitude of lo steps and the fraction ρ of one is rounded up, by the mode. -/
structure UpWhen (r : Rnd) (s : Bool) (lo : Nat) (ρ : ℚ) (up : Bool) : Prop where
  exact : ρ = 0 → up = false
  rtz   : r.mode = 1 → up = false
  rup   : r.mode = 2 → 0 < ρ → up = !s
  rdn   : r.mode = 3 → 0 < ρ → up = s
  less  : r.mode = 0 ∨ r.mode = 4 → ρ < 1 / 2 → up = false
  more  : r.mode = 0 ∨ r.mode = 4 → 1 / 2 < ρ → up = true
  even  : r.mode = 0 → ρ = 1 / 2 → up = (lo % 2 == 1)
  away  : r.mode = 4 → ρ = 1 / 2 → up = true

/-- A fraction of two numbers compares with a half as its double compares with the unit. -/
theorem fraction_half {rem unit : Nat} (hu : 0 < unit) :
    ((rem : ℚ) / unit < 1 / 2 ↔ 2 * rem < unit) ∧ (1 / 2 < (rem : ℚ) / unit ↔ unit < 2 * rem) := by
  have hu' : (0 : ℚ) < unit := by exact_mod_cast hu
  rw [div_lt_div_iff₀ hu' two_pos, div_lt_div_iff₀ two_pos hu', one_mul, mul_comm]
  exact ⟨by exact_mod_cast Iff.rfl, by exact_mod_cast Iff.rfl⟩

/-- `roundUp` follows the modes of R42. -/
theorem roundUp_upWhen (r : Rnd) (s : Bool) (lo : Nat) {rem unit : Nat} (hu : 0 < unit) :
    UpWhen r s lo ((rem : ℚ) / unit) (roundUp r s lo rem unit) := by
  obtain ⟨hless, hmore⟩ := fraction_half (rem := rem) hu
  have hhalf : (rem : ℚ) / unit = 1 / 2 → 2 * rem = unit := fun h => by
    have h1 := mt hless.2 h.not_lt
    have h2 := mt hmore.2 h.symm.not_lt
    omega
  have hpos : 0 < (rem : ℚ) / unit → rem ≠ 0 := by rintro h rfl; simp at h
  have hzero : (rem : ℚ) / unit = 0 → rem = 0 := fun h => by simpa [hu.ne'] using h
  exact {
    exact := fun h => by rw [roundUp, if_pos (hzero h)]
    rtz := fun hm => by simp [roundUp, hm]
    rup := fun hm h => by simp [roundUp, hm, hpos h]
    rdn := fun hm h => by simp [roundUp, hm, hpos h]
    less := fun hm h => by
      have := hless.1 h
      rcases hm with hm | hm <;> simp [roundUp, hm] <;> omega
    more := fun hm h => by
      have := hmore.1 h
      rcases hm with hm | hm <;> simp [roundUp, hm] <;> omega
    even := fun hm h => by
      have := hhalf h
      simp [roundUp, hm, this, show rem ≠ 0 by omega]
    away := fun hm h => by
      have := hhalf h
      simp [roundUp, hm]; omega }

/-- The magnitude X is rounded to v steps of size u; lo steps are the most that do not exceed X. -/
structure RoundedTo (r : Rnd) (s : Bool) (X u : ℚ) (lo v : Nat) : Prop where
  low  : lo * u ≤ X
  high : X < (lo + 1) * u
  near : v = lo ∨ v = lo + 1 ∧ lo * u < X
  rtz  : r.mode = 1 → v = lo
  rup  : r.mode = 2 → if s then v * u ≤ X else X ≤ v * u
  rdn  : r.mode = 3 → if s then X ≤ v * u else v * u ≤ X
  half : r.mode = 0 ∨ r.mode = 4 → |X - v * u| ≤ u / 2
  even : r.mode = 0 → |X - v * u| = u / 2 → v % 2 = 0
  away : r.mode = 4 → |X - v * u| = u / 2 → X < v * u

section
variable {r : Rnd} {s : Bool} {lo : Nat} {ρ X u : ℚ} (hu : 0 < u) (h0 : 0 ≤ ρ) (h1 : ρ < 1) (hX : X = (lo + ρ) * u)
include hu h0 h1 hX

theorem UpWhen.roundedDown (h : UpWhen r s lo ρ false) : RoundedTo r s X u lo lo := by
  have hlow : lo * u ≤ X := by rw [hX]; gcongr; linarith
  have hd : |X - lo * u| = ρ * u := by rw [hX, ← sub_mul, add_sub_cancel_left, abs_of_nonneg (by positivity)]
  have hexact : ¬ 0 < ρ → X ≤ lo * u := fun h => by rw [hX, le_antisymm (not_lt.1 h) h0, add_zero]
  have htie : |X - lo * u| = u / 2 → ρ = 1 / 2 := fun ht => mul_right_cancel₀ hu.ne' (by rw [← hd, ht]; ring)
  exact {
    low := hlow, high := by rw [hX]; gcongr
    near := .inl rfl, rtz := fun _ => rfl
    rup := fun hm => by
      cases s with
      | true => exact hlow
      | false => exact hexact fun hp => nomatch h.rup hm hp
    rdn := fun hm => by
      cases s with
      | false => exact hlow
      | true => exact hexact fun hp => nomatch h.rdn hm hp
    half := fun hm => by
      have : ρ ≤ 1 / 2 := not_lt.1 fun hp => nomatch h.more hm hp
      rw [hd]; nlinarith
    even := fun hm ht => by simpa using h.even hm (htie ht)
    away := fun hm ht => nomatch h.away hm (htie ht) }

theorem UpWhen.roundedUp (h : UpWhen r s lo ρ true) : RoundedTo r s X u lo (lo + 1) := by
  have hpos : 0 < ρ := lt_of_le_of_ne h0 fun h' => nomatch h.exact h'.symm
  have hlow : lo * u < X := by rw [hX]; gcongr; linarith
  have hhigh : X < (lo + 1) * u := by rw [hX]; gcongr
  have hv : ((lo + 1 : Nat) : ℚ) = lo + 1 := Nat.cast_succ lo
  have hd : |X - (lo + 1) * u| = (1 - ρ) * u := by rw [abs_of_neg (sub_neg.2 hhigh), hX]; ring
  exact {
    low := hlow.le, high := hhigh, near := .inr ⟨rfl, hlow⟩
    rtz := fun hm => nomatch h.rtz hm
    rup := fun hm => by
      obtain rfl : s = false := by simpa using (h.rup hm hpos).symm
      rw [hv]; exact hhigh.le
    rdn := fun hm => by
      obtain rfl : s = true := (h.rdn hm hpos).symm
      rw [hv]; exact hhigh.le
    half := fun hm => by
      have : 1 / 2 ≤ ρ := not_lt.1 fun hp => nomatch h.less hm hp
      rw [hv, hd]; nlinarith
    even := fun hm ht => by
      rw [hv, hd] at ht
      have : 1 - ρ = 1 / 2 := mul_right_cancel₀ hu.ne' (by rw [ht]; ring)
      have := h.even hm (by linarith)
      simp at this; omega
    away := fun _ _ => by rw [hv]; exact hhigh }

end

/-- A magnitude n ÷ d × 2^e is rounded to a multiple of 2^q. -/
theorem roundTo_spec (r : Rnd) (s : Bool) (n : Nat) {d : Nat} (hd : 0 < d) (e q : Int) :
    ∃ lo, RoundedTo r s ((n : ℚ) / d * 2 ^ e) (2 ^ q) lo (roundTo r s n d e q) := by
  set a := n * pow2p (e - q) with ha
  set b := d * pow2p (q - e) with hb
  have hb0 : 0 < b := Nat.mul_pos hd (pow2p_pos _)
  have hb' : (0 : ℚ) < b := by exact_mod_cast hb0
  have hX : (n : ℚ) / d * 2 ^ e = ((a / b : Nat) + ((a % b : Nat) : ℚ) / b) * 2 ^ q := by
    rw [← shifted_div n d e q, ← ha, ← hb, add_div_eq_mul_add_div _ _ hb'.ne']
    congr 2
    exact_mod_cast (Nat.div_add_mod' a b).symm
  have h1 : ((a % b : Nat) : ℚ) / b < 1 := (div_lt_one hb').2 (by exact_mod_cast Nat.mod_lt a hb0)
  have hw := roundUp_upWhen r s (a / b) (rem := a % b) hb0
  refine ⟨a / b, ?_⟩
  rw [roundTo, ← ha, ← hb]
  cases hup : roundUp r s (a / b) (a % b) b <;> rw [hup] at hw
  · exact hw.roundedDown (by positivity) (by positivity) h1 hX
  · exact hw.roundedUp (by positivity) (by positivity) h1 hX

/-- A zero is rounded to no steps. -/
theorem roundedTo_zero (r : Rnd) (s : Bool) {u : ℚ} (hu : 0 < u) : RoundedTo r s 0 u 0 0 :=
  UpWhen.roundedDown hu le_rfl one_pos (by simp) {
    exact := fun _ => rfl, rtz := fun _ => rfl, rup := fun _ h => absurd h (lt_irrefl _), rdn := fun _ h => absurd h (lt_irrefl _)
    less := fun _ _ => rfl, more := fun _ h => by norm_num at h, even := fun _ h => by norm_num at h, away := fun _ h => by norm_num at h }

/-! ### The code of a rounded magnitude (R35) -/

section
variable {f : FFormat} (hf : f.Regular)
include hf

/-- A number no larger than the format's largest has the fields of a finite number. -/
theorem FFormat.finite_of_mag_le {e m : Nat} (hm : m < 2 ^ f.fb) (h : f.mag e m ≤ f.mag f.emax f.fmax) : f.Finite e m := by
  have hmax0 : f.emax ≠ 0 := by have := hf.emax; omega
  have hfm := hf.fmax
  refine ⟨hm, ?_⟩
  rcases Nat.lt_trichotomy e f.emax with hlt | rfl | hgt
  · exact .inl hlt
  · refine .inr ⟨rfl, ?_⟩
    rw [mag, mag, if_neg hmax0, if_neg hmax0, mul_le_mul_iff_left₀ (by positivity), Nat.cast_le] at h
    omega
  · refine absurd h (not_le.2 ?_)
    have he0 : e ≠ 0 := by omega
    rw [mag, mag, if_neg hmax0, if_neg he0]
    calc ((2 ^ f.fb + f.fmax : Nat) : ℚ) * 2 ^ f.quantum f.emax < 2 ^ (f.fb + 1) * 2 ^ f.quantum f.emax := by
          gcongr
          exact_mod_cast (show 2 ^ f.fb + f.fmax < 2 ^ (f.fb + 1) by rw [Nat.pow_succ]; omega)
      _ = 2 ^ f.fb * 2 ^ (f.quantum f.emax + 1) := by rw [zpow_add_one₀ two_ne_zero, pow_succ]; ring
      _ ≤ (2 ^ f.fb + m : Nat) * 2 ^ f.quantum e := by
          gcongr
          · exact_mod_cast Nat.le_add_right _ _
          · norm_num
          · unfold quantum; omega

end

/-- The exponent field and the fraction in which `encode` writes v × 2^q. -/
def FFormat.fieldsOf (f : FFormat) (v : Nat) (q : Int) : Nat × Nat :=
  if v < 2 ^ f.fb then (0, v) else ((q + f.bias + f.fb).toNat, v - 2 ^ f.fb)

/-- The fields stand for the magnitude written. -/
theorem FFormat.mag_fieldsOf {f : FFormat} {v : Nat} {q : Int} (hv : v < 2 ^ (f.fb + 1)) (hq : f.quantum 0 ≤ q)
    (h : q = f.quantum 0 ∨ 2 ^ f.fb ≤ v) : (f.fieldsOf v q).2 < 2 ^ f.fb ∧ f.mag (f.fieldsOf v q).1 (f.fieldsOf v q).2 = v * 2 ^ q := by
  rw [Nat.pow_succ] at hv
  unfold fieldsOf
  split
  · next hlt =>
    obtain rfl : q = f.quantum 0 := h.resolve_right (Nat.not_le.2 hlt)
    exact ⟨hlt, rfl⟩
  · next hge =>
    have he : 1 ≤ (q + f.bias + f.fb).toNat ∧ ((q + f.bias + f.fb).toNat : Int) = q + f.bias + f.fb := by
      unfold quantum at hq; omega
    have hquant : f.quantum (q + f.bias + f.fb).toNat = q := by
      unfold quantum; omega
    refine ⟨by dsimp only; omega, ?_⟩
    rw [mag, if_neg (by dsimp only; omega), hquant, Nat.add_sub_cancel' (by omega)]

/-- The code c stands for v × 2^q with a sign, and is even where v is. -/
structure FFormat.Writes (f : FFormat) (s : Bool) (v : Nat) (q : Int) (c : Nat) : Prop where
  num  : f.num c = some (withSign s (v * 2 ^ q))
  lt   : c < 2 ^ f.width
  even : v % 2 = 0 → c % 2 = 0

/-- One bit more than the fraction holds goes into the exponent. -/
theorem FFormat.encode_carry (f : FFormat) (r : Rnd) (sat s : Bool) (q : Int) :
    f.encode r sat s (2 ^ (f.fb + 1)) q = f.encode r sat s (2 ^ f.fb) (q + 1) := by
  have hlt : 2 ^ f.fb < 2 ^ (f.fb + 1) := Nat.pow_lt_pow_right (by omega) (Nat.lt_succ_self _)
  have hdiv : 2 ^ (f.fb + 1) / 2 = 2 ^ f.fb := by rw [Nat.pow_succ, Nat.mul_div_cancel _ two_pos]
  rw [encode, encode, if_pos (le_refl _), if_neg (not_le.2 hlt), hdiv]

section
variable {f : FFormat} (hf : f.Regular) (r : Rnd) (sat s : Bool) {v : Nat} {q : Int} (hq : f.quantum 0 ≤ q)
  (h : q = f.quantum 0 ∨ 2 ^ f.fb ≤ v) (hmax : v * 2 ^ q ≤ f.mag f.emax f.fmax)
include hf hq h hmax

/-- A magnitude within the format is written in its own fields. -/
theorem FFormat.encode_fields (hv : v < 2 ^ (f.fb + 1)) : f.Writes s v q (f.encode r sat s v q) := by
  obtain ⟨hm, hmag⟩ := mag_fieldsOf hv hq h
  have hfin : f.Finite (f.fieldsOf v q).1 (f.fieldsOf v q).2 := finite_of_mag_le hf hm (by rw [hmag]; exact hmax)
  have henc : f.encode r sat s v q = f.code s (f.fieldsOf v q).1 (f.fieldsOf v q).2 := by
    have hin : ¬ (f.emax < (f.fieldsOf v q).1 ∨ ((f.fieldsOf v q).1 = f.emax ∧ f.fmax < (f.fieldsOf v q).2)) := by
      obtain ⟨-, he⟩ := hfin; omega
    rw [encode, if_neg (not_le.2 hv)]
    revert hin
    unfold fieldsOf
    dsimp only
    split <;> exact fun hin => if_neg hin
  rw [henc]
  refine ⟨by rw [num_code hf s hfin, hmag], code_lt hf s hfin, fun hev => code_even hf s _ ?_⟩
  obtain ⟨k, hk⟩ : 2 ∣ 2 ^ f.fb := dvd_pow_self 2 (by have := hf.fb; omega)
  unfold fieldsOf
  split <;> dsimp only <;> omega

/-- A magnitude of v steps of 2^q within the format is written as its exact code. -/
theorem FFormat.encode_writes (hv : v ≤ 2 ^ (f.fb + 1)) : f.Writes s v q (f.encode r sat s v q) := by
  rcases Nat.lt_or_eq_of_le hv with hlt | rfl
  · exact encode_fields hf r sat s hq h hmax hlt
  · have hmul : ((2 ^ f.fb : Nat) : ℚ) * 2 ^ (q + 1) = ((2 ^ (f.fb + 1) : Nat) : ℚ) * 2 ^ q := by
      rw [zpow_add_one₀ two_ne_zero, Nat.pow_succ]; push_cast; ring
    have hw := encode_fields hf r sat s (v := 2 ^ f.fb) (q := q + 1) (by omega) (.inr le_rfl) (by rw [hmul]; exact hmax)
      (Nat.pow_lt_pow_right (by omega) (Nat.lt_succ_self _))
    rw [encode_carry]
    exact ⟨by rw [hw.num, hmul], hw.lt, fun _ => hw.even (Nat.mod_eq_zero_of_dvd (dvd_pow_self 2 (by have := hf.fb; omega)))⟩

end

/-! ### Rounding to a format (R42) -/

/-- The magnitude X is rounded to v steps of 2^q, the format's spacing at X, and the code c stands for them. -/
structure FFormat.RoundsTo (f : FFormat) (r : Rnd) (s : Bool) (X : ℚ) (lo v : Nat) (q : Int) (c : Nat) : Prop where
  rounded : RoundedTo r s X (2 ^ q) lo v
  spaced  : q = f.quantum 0 ∨ 2 ^ f.fb ≤ lo
  writes  : f.Writes s v q c

/-- The rounded magnitude does not pass the largest number of the format, which is no less than the exact one. -/
theorem RoundedTo.le_largest {f : FFormat} {r : Rnd} {s : Bool} {X : ℚ} {lo v : Nat} {q : Int} (hr : RoundedTo r s X (2 ^ q) lo v)
    (hs : q = f.quantum 0 ∨ 2 ^ f.fb ≤ lo) (hm : f.fmax < 2 ^ f.fb) (hX : X ≤ f.mag f.emax f.fmax) : v * 2 ^ q ≤ f.mag f.emax f.fmax := by
  rcases hr.near with rfl | ⟨rfl, hlt⟩
  · exact hr.low.trans hX
  · have hl : f.Lattice (f.mag f.emax f.fmax) := ⟨false, _, _, hm, rfl⟩
    push_cast
    exact (hl.outside_gap hs).resolve_left (not_le.2 (hlt.trans_le hX))

/-- Within the format's range the steps counted have at most one bit more than the fraction, and all of them above the
smallest spacing. -/
theorem RoundedTo.steps {f : FFormat} {r : Rnd} {s : Bool} {n d : Nat} {e : Int} {lo v : Nat} (hn : 0 < n) (hd : 0 < d)
    (hr : RoundedTo r s ((n : ℚ) / d * 2 ^ e) (2 ^ f.lastBit n d e) lo v) :
    lo < 2 ^ (f.fb + 1) ∧ (f.lastBit n d e = f.quantum 0 ∨ 2 ^ f.fb ≤ lo) := by
  obtain ⟨hlo, hhi⟩ := floorLog2_spec hn hd e
  have hu : (0 : ℚ) < 2 ^ f.lastBit n d e := by positivity
  constructor
  · have : (lo : ℚ) * 2 ^ f.lastBit n d e < 2 ^ (f.fb + 1) * 2 ^ f.lastBit n d e := by
      calc (lo : ℚ) * 2 ^ f.lastBit n d e < 2 ^ (floorLog2 n d e + 1) := hr.low.trans_lt hhi
        _ ≤ 2 ^ (((f.fb + 1 : Nat) : Int) + f.lastBit n d e) := zpow_le_zpow_right₀ one_le_two (by unfold FFormat.lastBit; omega)
        _ = 2 ^ (f.fb + 1) * 2 ^ f.lastBit n d e := by rw [zpow_add₀ two_ne_zero, zpow_natCast]
    exact_mod_cast lt_of_mul_lt_mul_right this hu.le
  · refine or_iff_not_imp_left.2 fun hq => ?_
    have hq' : floorLog2 n d e = (f.fb : Int) + f.lastBit n d e := by unfold FFormat.lastBit at hq ⊢; omega
    have : (2 : ℚ) ^ f.fb * 2 ^ f.lastBit n d e < (lo + 1) * 2 ^ f.lastBit n d e := by
      rw [← zpow_natCast, ← zpow_add₀ two_ne_zero, ← hq']
      exact hlo.trans_lt hr.high
    have := lt_of_mul_lt_mul_right this hu.le
    exact Nat.lt_succ_iff.1 (by exact_mod_cast this)

/-- A finite value within the format is rounded to a number of the format next to it. -/
theorem FFormat.round_roundsTo {f : FFormat} (hf : f.Regular) (r : Rnd) (sat s : Bool) (n : Nat) {d : Nat} (hd : 0 < d) (e : Int)
    (hX : (n : ℚ) / d * 2 ^ e ≤ f.mag f.emax f.fmax) :
    ∃ lo v q, f.RoundsTo r s ((n : ℚ) / d * 2 ^ e) lo v q (f.round r sat (.fin s n d e)) := by
  rw [round]
  split
  · next hn =>
    subst hn
    have hfin : f.Finite 0 0 := ⟨Nat.two_pow_pos _, .inl hf.emax⟩
    refine ⟨0, 0, f.quantum 0, ?_, .inl rfl, ?_, code_lt hf s hfin, fun _ => code_even hf s 0 rfl⟩
    · simpa using roundedTo_zero r s (by positivity)
    · rw [num_code hf s hfin]; simp [mag]
  · next hn =>
    obtain ⟨lo, hr⟩ := roundTo_spec r s n hd e (f.lastBit n d e)
    obtain ⟨hlo, hs⟩ := hr.steps (Nat.pos_of_ne_zero hn) hd
    have hv : lo ≤ roundTo r s n d e (f.lastBit n d e) ∧ roundTo r s n d e (f.lastBit n d e) ≤ lo + 1 := by
      rcases hr.near with h | ⟨h, -⟩ <;> omega
    exact ⟨lo, _, _, hr, hs, encode_writes hf r sat s (le_max_right ..) (hs.imp_right (le_trans · hv.1))
      (hr.le_largest hs hf.fmax hX) (by omega)⟩

/-! ### A rounded magnitude among the numbers of the format -/

section
variable {f : FFormat} {r : Rnd} {s : Bool} {X : ℚ} {lo v : Nat} {q : Int} {c : Nat} (h : f.RoundsTo r s X lo v q c)
  {z : ℚ} (hz : f.Lattice z)
include h hz

/-- A number of the format lies beyond the lower neighbour or beyond the upper one, and one of the two is the rounded magnitude. -/
theorem FFormat.RoundsTo.beside : (z ≤ lo * 2 ^ q ∨ lo * 2 ^ q + 2 ^ q ≤ z) ∧ lo * 2 ^ q ≤ X ∧ X < lo * 2 ^ q + 2 ^ q ∧
    ((v : ℚ) * 2 ^ q = lo * 2 ^ q ∨ (v : ℚ) * 2 ^ q = lo * 2 ^ q + 2 ^ q) := by
  have hgap := hz.outside_gap h.spaced
  have hhigh := h.rounded.high
  rw [add_one_mul] at hgap hhigh
  refine ⟨hgap, h.rounded.low, hhigh, ?_⟩
  rcases h.rounded.near with hv | ⟨hv, -⟩ <;> rw [hv]
  · exact .inl rfl
  · right; push_cast; ring

theorem FFormat.RoundsTo.no_number_between : ¬ (X < z ∧ z < v * 2 ^ q) ∧ ¬ (v * 2 ^ q < z ∧ z < X) := by
  obtain ⟨hz | hz, hlow, hhigh, hv | hv⟩ := h.beside hz <;> constructor <;> rintro ⟨h1, h2⟩ <;> linarith

/-- A number of the format lies on the side of the rounded magnitude and no nearer, or on the other side of the step. -/
theorem FFormat.RoundsTo.distance : |X - v * 2 ^ q| ≤ |X - z| ∧ (|X - z| = |X - v * 2 ^ q| → z = v * 2 ^ q) ∨
    2 ^ q - |X - v * 2 ^ q| ≤ |X - z| := by
  obtain ⟨hz | hz, hlow, hhigh, hv | hv⟩ := h.beside hz <;> rw [hv]
  · rw [abs_of_nonneg (sub_nonneg.2 hlow), abs_of_nonneg (sub_nonneg.2 (hz.trans hlow))]
    exact .inl ⟨by linarith, fun _ => by linarith⟩
  · rw [abs_of_neg (sub_neg.2 hhigh), abs_of_nonneg (sub_nonneg.2 (hz.trans hlow))]
    exact .inr (by linarith)
  · rw [abs_of_nonneg (sub_nonneg.2 hlow), abs_of_neg (sub_neg.2 (hhigh.trans_le hz))]
    exact .inr (by linarith)
  · rw [abs_of_neg (sub_neg.2 hhigh), abs_of_neg (sub_neg.2 (hhigh.trans_le hz))]
    exact .inl ⟨by linarith, fun _ => by linarith⟩

theorem FFormat.RoundsTo.nearest (hm : r.mode = 0 ∨ r.mode = 4) : |X - v * 2 ^ q| ≤ |X - z| := by
  have hhalf := h.rounded.half hm
  rcases h.distance hz with ⟨hle, -⟩ | hle
  · exact hle
  · linarith

/-- Another number as near as the rounded one is half a step away. -/
theorem FFormat.RoundsTo.tie (hm : r.mode = 0 ∨ r.mode = 4) (hne : z ≠ v * 2 ^ q) (ht : |X - z| = |X - v * 2 ^ q|) :
    |X - v * 2 ^ q| = 2 ^ q / 2 := by
  have hhalf := h.rounded.half hm
  rcases h.distance hz with ⟨-, heq⟩ | hle
  · exact absurd (heq ht) hne
  · linarith

/-- Where a tie goes up, the other number is the lower neighbour. -/
theorem FFormat.RoundsTo.tie_away (hm : r.mode = 4) (hne : z ≠ v * 2 ^ q) (ht : |X - z| = |X - v * 2 ^ q|) : |z| < |(v : ℚ) * 2 ^ q| := by
  have hhalf := h.tie hz (.inr hm) hne ht
  have hlt := h.rounded.away hm hhalf
  have hpos : (0 : ℚ) ≤ lo * 2 ^ q := by positivity
  obtain ⟨-, hlow, -, hv⟩ := h.beside hz
  rw [hhalf] at ht
  rw [abs_of_neg (sub_neg.2 hlt)] at hhalf
  have hu : (0 : ℚ) < 2 ^ q := by positivity
  have hz' : z = v * 2 ^ q - 2 ^ q := by
    rcases abs_choice (X - z) with hc | hc <;> rw [hc] at ht
    · linarith
    · exact absurd (by linarith) hne
  have hv' : (v : ℚ) * 2 ^ q = lo * 2 ^ q + 2 ^ q := hv.resolve_left (by linarith)
  rw [abs_of_nonneg (by linarith), abs_of_nonneg (by linarith)]
  linarith

end

/-- Settles O8: the rounded magnitude is a neighbour of the exact one, and the sign is carried over both. -/
theorem roundingIsCorrect : Obligations.RoundingIsCorrect := by
  unfold Obligations.RoundingIsCorrect
  intro f hmem r sat s n d e x m hd hx hm hle
  have hf := regular_of_mem hmem
  rw [toRat_fin, Option.some_inj] at hx
  rw [FFormat.largest, FFormat.num_code hf false (FFormat.finite_largest hf), Option.some_inj] at hm
  subst hx hm
  have hX : (0 : ℚ) ≤ (n : ℚ) / d * 2 ^ e := by positivity
  rw [abs_withSign, abs_of_nonneg hX] at hle
  obtain ⟨lo, v, q, h⟩ := FFormat.round_roundsTo hf r sat s n hd e hle
  set X : ℚ := (n : ℚ) / d * 2 ^ e
  have hlat : ∀ c z, f.num c = some z → ∃ w, f.Lattice w ∧ z = withSign s w := fun c z hz =>
    ⟨_, FFormat.lattice_withSign (FFormat.lattice_of_num hz) s, (withSign_withSign s z).symm⟩
  have hy : (if s then v * 2 ^ q ≤ X else X ≤ v * 2 ^ q) ↔ withSign s X ≤ withSign s (v * 2 ^ q) := by cases s <;> simp
  have hy' : (if s then X ≤ v * 2 ^ q else v * 2 ^ q ≤ X) ↔ withSign s (v * 2 ^ q) ≤ withSign s X := by cases s <;> simp
  refine ⟨withSign s (v * 2 ^ q), h.writes.num, h.writes.lt, fun c z hz => ?between, fun hm => ?rtz, fun hm => hy.1 (h.rounded.rup hm),
    fun hm => hy'.1 (h.rounded.rdn hm), fun hm c z hz => ?nearest, fun hm c z hz hne ht => ?even, fun hm c z hz hne ht => ?away⟩
  case rtz =>
    rw [abs_withSign, abs_withSign, abs_of_nonneg hX, abs_of_nonneg (by positivity), h.rounded.rtz hm]
    exact h.rounded.low
  all_goals obtain ⟨w, hw, rfl⟩ := hlat c z hz
  case between =>
    obtain ⟨h1, h2⟩ := h.no_number_between hw
    cases s
    · exact ⟨h1, h2⟩
    · simp only [withSign_true, neg_lt_neg_iff]
      exact ⟨fun hb => h2 hb.symm, fun hb => h1 hb.symm⟩
  case nearest =>
    rw [withSign_sub, withSign_sub, abs_withSign, abs_withSign]
    exact h.nearest hw hm
  case even =>
    rw [withSign_sub, withSign_sub, abs_withSign, abs_withSign] at ht
    exact h.writes.even (h.rounded.even hm (h.tie hw (.inl hm) (fun he => hne (by rw [he])) ht))
  case away =>
    rw [withSign_sub, withSign_sub, abs_withSign, abs_withSign] at ht
    rw [abs_withSign, abs_withSign]
    exact h.tie_away hw hm (fun he => hne (by rw [he])) ht

end Sys2Proof.Machine
end

section
/-! ## Proofs: the matrix unit's tables, memory rows and commands -/

namespace Sys2Proof.Machine

/-! ### Accumulators, rings, chains and firing slots -/

section
variable (T : Tile)

theorem Tile.acc_setAcc {k : Nat} (a : Acc) (h : k < 4) : (T.setAcc k a).acc k = a := by simp [acc, setAcc, h]

theorem Tile.acc_setAcc_other {k j : Nat} (a : Acc) (h : j ≠ k) : (T.setAcc k a).acc j = T.acc j := by
  unfold acc setAcc; split
  · simp [h.symm]
  · rfl

theorem Tile.ring_setRing {k : Nat} (r : Ring) (h : k < 8) : (T.setRing k r).ring k = r := by simp [ring, setRing, h]

theorem Tile.ring_setRing_other {k j : Nat} (r : Ring) (h : j ≠ k) : (T.setRing k r).ring j = T.ring j := by
  unfold ring setRing; split
  · simp [h.symm]
  · rfl

theorem Tile.chain_setChain {k : Nat} (c : Chain) (h : k < 4) : (T.setChain k c).chain k = c := by simp [chain, setChain, h]

theorem Tile.fslot_setFslot {k : Nat} (a : Option Armed) (h : k < 4) : (T.setFslot k a).fslot k = a := by simp [fslot, setFslot, h]

/-- There are four firing slots. -/
theorem Tile.fslot_lt {T : Tile} {k : Nat} {a : Armed} (h : T.fslot k = some a) : k < 4 := by
  by_contra hk; simp [fslot, hk] at h

@[simp] theorem Tile.acc_wake (k : Nat) : T.wake.acc k = T.acc k := rfl
@[simp] theorem Tile.ring_wake (k : Nat) : T.wake.ring k = T.ring k := rfl
@[simp] theorem Tile.chain_wake (k : Nat) : T.wake.chain k = T.chain k := rfl
@[simp] theorem Tile.fslot_wake (k : Nat) : T.wake.fslot k = T.fslot k := rfl
@[simp] theorem Tile.acc_dropHead (k : Nat) : T.dropHead.acc k = T.acc k := rfl
@[simp] theorem Tile.spad_dropHead : T.dropHead.spad = T.spad := rfl
@[simp] theorem Tile.phase_dropHead : T.dropHead.phase = T.phase := rfl
@[simp] theorem Tile.mq_setAcc (k : Nat) (a : Acc) : (T.setAcc k a).mq = T.mq := rfl
@[simp] theorem Tile.spad_setAcc (k : Nat) (a : Acc) : (T.setAcc k a).spad = T.spad := rfl
@[simp] theorem Tile.phase_setAcc (k : Nat) (a : Acc) : (T.setAcc k a).phase = T.phase := rfl
@[simp] theorem Tile.ring_setAcc (k j : Nat) (a : Acc) : (T.setAcc k a).ring j = T.ring j := rfl
@[simp] theorem Tile.mq_setRing (k : Nat) (r : Ring) : (T.setRing k r).mq = T.mq := rfl
@[simp] theorem Tile.spad_setRing (k : Nat) (r : Ring) : (T.setRing k r).spad = T.spad := rfl
@[simp] theorem Tile.phase_setRing (k : Nat) (r : Ring) : (T.setRing k r).phase = T.phase := rfl
@[simp] theorem Tile.acc_setRing (k j : Nat) (r : Ring) : (T.setRing k r).acc j = T.acc j := rfl
@[simp] theorem Tile.phase_setFslot (k : Nat) (a : Option Armed) : (T.setFslot k a).phase = T.phase := rfl
@[simp] theorem Tile.fires_setFslot (k : Nat) (a : Option Armed) : (T.setFslot k a).fires = T.fires := rfl
@[simp] theorem Tile.spad_setFslot (k : Nat) (a : Option Armed) : (T.setFslot k a).spad = T.spad := rfl
@[simp] theorem Tile.chain_setFslot (k j : Nat) (a : Option Armed) : (T.setFslot k a).chain j = T.chain j := rfl
@[simp] theorem Tile.fires_setChain (k : Nat) (c : Chain) : (T.setChain k c).fires = T.fires := rfl
@[simp] theorem Tile.spad_setChain (k : Nat) (c : Chain) : (T.setChain k c).spad = T.spad := rfl
@[simp] theorem Tile.phase_setChain (k : Nat) (c : Chain) : (T.setChain k c).phase = T.phase := rfl
@[simp] theorem Tile.fslot_setChain (k j : Nat) (c : Chain) : (T.setChain k c).fslot j = T.fslot j := rfl
@[simp] theorem Tile.acc_raise (w : Warns) (k : Nat) : (T.raise w).acc k = T.acc k := rfl
@[simp] theorem Tile.ring_raise (w : Warns) (k : Nat) : (T.raise w).ring k = T.ring k := rfl

theorem Tile.mq_dropHead {T : Tile} {c : MCmd} {r : List MCmd} (h : T.mq = c :: r) : T.dropHead.mq = r := by rw [dropHead, h]; rfl

end

/-! ### Rows of memory -/

theorem memBytes_congr {m m' : List Host.Cell} {a n : Nat} (h : ∀ b, a ≤ b → b < a + n → memGet m b = memGet m' b) :
    memBytes m a n = memBytes m' a n := by
  induction n generalizing a with
  | zero => rfl
  | succ n ih =>
    rw [memBytes, memBytes, h a (by omega) (by omega), ih (fun b hb hb' => h b (by omega) (by omega))]

/-- A number stored leaves every number apart from it alone. -/
theorem memNat_memPutNat_apart (m : List Host.Cell) {a n b k : Nat} (v : Nat) (h : b + k ≤ a ∨ a + n ≤ b) :
    memNat (memPutNat m a n v) b k = memNat m b k := by
  rw [memNat, memNat, memBytes_congr fun x _ _ => memGet_memPutNat_other m a n v (by omega)]

/-- M rows of n bytes, at a pitch. -/
def putRows (m : List Host.Cell) (a pitch n M : Nat) (v : Nat → Nat) : List Host.Cell :=
  (List.range M).foldl (fun m i => memPutNat m (a + i * pitch) n (v i)) m

theorem putRows_succ (m : List Host.Cell) (a pitch n M : Nat) (v : Nat → Nat) :
    putRows m a pitch n (M + 1) v = memPutNat (putRows m a pitch n M v) (a + M * pitch) n (v M) := by
  rw [putRows, List.range_succ, List.foldl_append]; rfl

theorem putRows_wf {m : List Host.Cell} (h : Memory.wf m = true) (a pitch n M : Nat) (v : Nat → Nat) :
    Memory.wf (putRows m a pitch n M v) = true := by
  induction M with
  | zero => exact h
  | succ M ih => rw [putRows_succ]; exact memPutNat_wf ih _ _ _

/-- Rows that do not overlap read back. -/
theorem memNat_putRows {m : List Host.Cell} (h : Memory.wf m = true) (a : Nat) {pitch n : Nat} (hp : n ≤ pitch) {M i : Nat}
    (v : Nat → Nat) (hi : i < M) : memNat (putRows m a pitch n M v) (a + i * pitch) n = v i % 256 ^ n := by
  induction M with
  | zero => omega
  | succ M ih =>
    rw [putRows_succ]
    rcases Nat.lt_succ_iff_lt_or_eq.1 hi with hlt | rfl
    · have : (i + 1) * pitch ≤ M * pitch := Nat.mul_le_mul_right _ hlt
      rw [Nat.succ_mul] at this
      rw [memNat_memPutNat_apart _ _ (by omega), ih hlt]
    · exact memNat_memPutNat (putRows_wf h ..) _ _ _

theorem packElems_lt (w : Nat) (l : List Nat) : packElems w l < 2 ^ (w * l.length) := by
  induction l with
  | nil => simp [packElems]
  | cons e es ih =>
    have he : e % 2 ^ w < 2 ^ w := Nat.mod_lt _ (Nat.two_pow_pos w)
    have hm : 2 ^ w * (packElems w es + 1) ≤ 2 ^ w * 2 ^ (w * es.length) := Nat.mul_le_mul_left _ ih
    rw [packElems, List.length_cons, Nat.mul_succ, Nat.pow_add, Nat.mul_comm (2 ^ (w * es.length))]
    rw [Nat.mul_succ] at hm
    omega

/-- A packed row fits the bytes of its row (R39). -/
theorem packElems_mod_rowBytes (w : Nat) (l : List Nat) : packElems w l % 256 ^ rowBytes l.length w = packElems w l := by
  refine Nat.mod_eq_of_lt ((packElems_lt w l).trans_le ?_)
  rw [show 256 = 2 ^ 8 from rfl, ← Nat.pow_mul, rowBytes]
  exact Nat.pow_le_pow_right two_pos (by rw [Nat.mul_comm]; omega)

/-! ### A command at the head of the queue (R124, R135, R143 to R145) -/

theorem unitsMove_of_moves {s : State} {t : Nat} (h : Moves s t) : (s.tile t).unitsMove = true := by
  obtain ⟨hp, hf⟩ := h
  simp [Tile.unitsMove, hp, hf]

theorem onlyTile_setTile (s : State) (t : Nat) (T : Tile) : OnlyTile s (s.setTile t T) t :=
  ⟨rfl, fun _ hu => State.tile_setTile_other s T hu⟩

/-- A tile whose strand runs is put back and reads as it was put. -/
theorem tile_setTile_running {s : State} {t : Nat} {U : Tile} (hp : U.phase = .running) : (s.setTile t U).tile t = U :=
  State.tile_setTile s t (Tile.ne_reset_of_phase (by rw [hp]; decide))

/-- The tile that a command leaves is the tile of the next state, and no other tile changes. -/
theorem accumulatorCommand_done {s : State} {t : Nat} (hm : Moves s t) {U : Tile} (hc : (s.tile t).command = some U)
    (hp : U.phase = (s.tile t).phase) :
    ∃ s', exec (.accumulatorCommand t) s = .next s' ∧ s'.tile t = U.wake ∧ OnlyTile s s' t := by
  refine ⟨s.setTile t U.wake, ?_, tile_setTile_running (hp.trans hm.1), onlyTile_setTile ..⟩
  show execAccumulatorCommand t s = _
  simp [execAccumulatorCommand, unitsMove_of_moves hm, hc]

section
variable {T : Tile} {r : List MCmd}

theorem command_mzero {c : Nat} (h : T.mq = .mzero c :: r) (hf : T.fslot c = none) :
    T.command = some (T.dropHead.setAcc c { T.acc c with elems := [] }) := by
  simp [Tile.command, h, Tile.headHeld, MCmd.accs, hf]

theorem command_mdis {c : Nat} (h : T.mq = .mdis c :: r) (hf : T.fslot c = none) : T.command = some T.dropHead := by
  simp [Tile.command, h, Tile.headHeld, MCmd.accs, hf]

theorem command_arm {op : MmaOp} (h : T.mq = .mma op :: r) (ha : op.arm = true) (hf : T.fslot op.acc = none) :
    T.command = some (T.dropHead.setFslot op.acc (some { op := op, t := 0, stop := false })) := by
  simp [Tile.command, h, Tile.headHeld, MCmd.accs, hf, ha]

theorem command_mflush {c addr pitch code sb : Nat} {h : Shape} {sat : Bool} {mode : BitVec 3} {seed : Word}
    (hq : T.mq = .mflush c h addr pitch code sat mode seed sb :: r) (hf : T.fslot c = none) (hs : T.sbMust sb = false) :
    T.command = some ((T.dropHead.flushAcc c h addr pitch code sat { mode := mode.toNat, seed := seed, i := 0 } 0).sbLeave sb) := by
  simp [Tile.command, hq, Tile.headHeld, MCmd.accs, hf, hs]

end

/-! ### A flush (R145) -/

/-- The number that a row of a flushed accumulator packs to. -/
def Acc.packedRow (a : Acc) (k : CKind) (sat : Bool) (r : Rnd) (n i0 i : Nat) : Nat :=
  packElems k.width ((List.range n).map (fun j => (k.encode { r with i := i0 + i * 128 + j } sat (accVal a.int (a.get i j))).1))

/-- A flush writes the rows and sticky bits, and nothing else of the tile. -/
theorem flushAcc_eq (T : Tile) (acc : Nat) (h : Shape) (addr pitch code : Nat) (sat : Bool) (r : Rnd) (i0 : Nat) :
    ∃ w, T.flushAcc acc h addr pitch code sat r i0 = { T with
      warn := w
      spad := putRows T.spad addr pitch (rowBytes (shapeOf h).2 (ckind code).width) (shapeOf h).1
        ((T.acc acc).packedRow (ckind code) sat r (shapeOf h).2 i0) } := by
  unfold Tile.flushAcc putRows Acc.packedRow
  generalize T.acc acc = a
  dsimp only
  generalize List.range (shapeOf h).1 = l
  induction l generalizing T with
  | nil => exact ⟨T.warn, rfl⟩
  | cons i l ih =>
    rw [List.foldl_cons, List.foldl_cons, List.map_map]
    obtain ⟨w, hw⟩ := ih _
    exact ⟨w, hw⟩

end Sys2Proof.Machine
end

section
/-! ## Proofs: a dense integer fire -/

namespace Sys2Proof.Machine

/-! ### Elements of a packed run (R39) -/

/-- The low bits of a number of bytes. -/
theorem memNat_mod (m : List Host.Cell) (a : Nat) {n k : Nat} (h : k ≤ n) : memNat m a n % 256 ^ k = memNat m a k := by
  induction k generalizing n a with
  | zero => rw [Nat.pow_zero, Nat.mod_one]; rfl
  | succ k ih =>
    obtain ⟨n, rfl⟩ : ∃ j, n = j + 1 := ⟨n - 1, by omega⟩
    have hs : ∀ j, memNat m a (j + 1) = (memGet m a).toNat + 256 * memNat m (a + 1) j := fun j => rfl
    have hb := (memGet m a).isLt
    rw [hs, hs, ← ih (a + 1) (Nat.le_of_succ_le_succ h), Nat.pow_succ, Nat.mul_comm (256 ^ k), Nat.mod_mul,
      Nat.add_mul_mod_self_left, Nat.mod_eq_of_lt hb, Nat.add_mul_div_left _ _ (by omega), Nat.div_eq_of_lt hb, Nat.zero_add]

/-- An element of a slot is the element of the packed run that starts there. -/
theorem runElem_memNat (T : Tile) {w addr n i : Nat} (h : w * (i + 1) ≤ 8 * n) :
    runElem w (memNat T.spad addr n) i = packedAt T w addr i := by
  set k := w * (i + 1) / 8 + 1 with hk
  rw [Nat.mul_succ] at h hk
  have hbits : w * i + w ≤ 8 * k := by omega
  -- both runs are long enough for the element, and only its bits count
  have low : ∀ x : Nat, x / 2 ^ (w * i) % 2 ^ w = x % 2 ^ (w * i + w) / 2 ^ (w * i) := fun x => by
    rw [Nat.pow_add, Nat.mod_mul_right_div_self]
  have hdvd : ∀ j, w * i + w ≤ 8 * j → 2 ^ (w * i + w) ∣ 256 ^ j := fun j hj => by
    rw [show 256 = 2 ^ 8 from rfl, ← Nat.pow_mul]; exact Nat.pow_dvd_pow 2 hj
  have hmin : w * i + w ≤ 8 * min k n := by omega
  rw [runElem, packedAt, Nat.mul_succ, ← hk, low, low (memNat T.spad addr k), ← Nat.mod_mod_of_dvd _ (hdvd _ hmin),
    memNat_mod _ _ (Nat.min_le_right k n), ← Nat.mod_mod_of_dvd (memNat T.spad addr k) (hdvd _ hmin), memNat_mod _ _ (Nat.min_le_left k n)]

/-! ### Sums by groups of eight (R46) -/

theorem filterMap_below (a k n : Nat) :
    (List.range n).filterMap (fun i => if a + i < k then some (a + i) else none) = List.range' a (min n (k - a)) := by
  induction n with
  | zero => simp
  | succ n ih =>
    rw [List.range_succ, List.filterMap_append, ih]
    by_cases h : a + n < k
    · rw [show min n (k - a) = n by omega, show min (n + 1) (k - a) = n + 1 by omega, List.range'_concat]
      simp [h]
    · rw [show min n (k - a) = min (n + 1) (k - a) by omega]
      simp [h]

theorem flatMap_groupKs (x : FireIn) (g : Nat) : (List.range g).flatMap x.groupKs = List.range (min (8 * g) x.k) := by
  induction g with
  | zero => simp
  | succ g ih =>
    rw [List.range_succ, List.flatMap_append, ih, List.flatMap_singleton, FireIn.groupKs, filterMap_below]
    rcases Nat.le_total (8 * g) x.k with h | h
    · have happ := List.range'_append_1 (s := 0) (m := 8 * g) (n := min 8 (x.k - 8 * g))
      rw [Nat.zero_add] at happ
      rw [Nat.min_eq_left h, List.range_eq_range', List.range_eq_range', happ]
      congr 1; omega
    · rw [Nat.min_eq_right h, show x.k - 8 * g = 0 by omega, show min (8 * (g + 1)) x.k = x.k by omega]
      simp

/-- The groups together hold every k once. -/
theorem flatMap_all_groupKs (x : FireIn) : (List.range ((x.k + 7) / 8)).flatMap x.groupKs = List.range x.k := by
  rw [flatMap_groupKs, Nat.min_eq_right (by omega)]

/-- The product of A[m][k] and B[k][n]. -/
def FireIn.product (x : FireIn) (m n k : Nat) : Int :=
  ((x.aAt m k).map (fun a => (ckind x.op.fa).intVal a * (ckind x.op.fb).intVal (x.bAt k n))).sum

theorem groupInt_eq (x : FireIn) (m n g : Nat) :
    x.groupInt m n g = (if x.op.neg then -1 else 1) * ((x.groupKs g).map (x.product m n)).sum := by
  have hone : (fun k => ((x.aAt m k).map (fun a => (ckind x.op.fa).intVal a * (ckind x.op.fb).intVal (x.bAt k n))).foldl (· + ·) 0) =
      x.product m n := funext fun k => List.sum_eq_foldl.symm
  rw [FireIn.groupInt, hone, ← List.sum_eq_foldl]
  split <;> simp

theorem sum_groupInt (x : FireIn) (m n : Nat) : ((List.range ((x.k + 7) / 8)).map (x.groupInt m n)).sum =
    (if x.op.neg then -1 else 1) * ((List.range x.k).map (x.product m n)).sum := by
  rw [← flatMap_all_groupKs, List.map_flatMap, List.flatMap_def, List.sum_flatten, List.map_map, ← List.sum_map_mul_left]
  exact congrArg List.sum (List.map_congr_left fun g _ => groupInt_eq x m n g)

/-! ### The accumulator after a fire (R133) -/

/-- Integer groups add up modulo 2^96. -/
theorem accumulate_int (x : FireIn) (r : Rnd) (m n : Nat) (e : BitVec 96) : (x.accumulate true r m n e).1 =
    BitVec.ofInt 96 (e.toInt + (if x.op.neg then -1 else 1) * ((List.range x.k).map (x.product m n)).sum) := by
  rw [← sum_groupInt, FireIn.accumulate]
  generalize List.range ((x.k + 7) / 8) = l
  simp only [if_true]
  generalize false = b
  induction l generalizing e b with
  | nil => simp
  | cons g l ih =>
    rw [List.foldl_cons, ih, List.map_cons, List.sum_cons, BitVec.ofInt_add, BitVec.ofInt_toInt, ← BitVec.ofInt_add, add_assoc]

/-- After a run of writes of a table each key holds what was written there. -/
theorem get_foldl_set {α : Type} [DecidableEq α] {d : α} {ι β : Type} {key : ι → Nat} {g : ι → α} {o : ι → β → β} {p : ι}
    {l : List ι} (hinj : ∀ q ∈ l, key q = key p → q = p) {st : Sparse α × β} (hwf : Sparse.wfFrom d 0 st.1 = true)
    (hp : p ∈ l ∨ Sparse.get d st.1 (key p) = g p) :
    Sparse.get d (l.foldl (fun (st : Sparse α × β) q => (Sparse.set d st.1 (key q) (g q), o q st.2)) st).1 (key p) = g p := by
  induction l generalizing st with
  | nil => exact hp.resolve_left List.not_mem_nil
  | cons q l ih =>
    refine ih (fun q' hq' => hinj q' (List.mem_cons_of_mem q hq')) (Sparse.set_wf hwf (Nat.zero_le _) _) ?_
    by_cases hk : key q = key p
    · obtain rfl := hinj q List.mem_cons_self hk
      exact .inr (Sparse.get_set_wf hwf _ _)
    · rw [Sparse.get_set_other _ _ (Ne.symm hk)]
      exact hp.imp_left fun h => (List.mem_cons.1 h).resolve_left fun he => hk (by rw [he])

theorem shapeOf_le (h : Shape) : (shapeOf h).2 ≤ 128 := by cases h <;> decide

theorem mem_regionOf {h : Shape} {m n : Nat} : (m, n) ∈ regionOf h ↔ m < (shapeOf h).1 ∧ n < (shapeOf h).2 := by
  simp [regionOf]

/-- The accumulator that a fire of an integer operation adds to, in its mode. -/
structure IntegerFire (x : FireIn) (a : Acc) : Prop where
  int   : intMode x.op.fa x.op.fb = true
  arm   : x.op.arm = false
  mode  : x.op.ovw = true ∨ a.int = true
  table : Sparse.wfFrom 0 0 a.elems = true

theorem perform_int {x : FireIn} {a : Acc} (h : IntegerFire x a) (seed : Word) : (x.perform false seed a).1.int = true := by
  rw [FireIn.perform, h.int]

theorem get_perform {x : FireIn} {a : Acc} (h : IntegerFire x a) (seed : Word) {m n : Nat} (hm : m < (shapeOf x.op.shape).1)
    (hn : n < (shapeOf x.op.shape).2) : (x.perform false seed a).1.get m n = BitVec.ofInt 96
      ((if x.op.ovw then 0 else (a.get m n).toInt) + (if x.op.neg then -1 else 1) * ((List.range x.k).map (x.product m n)).sum) := by
  obtain ⟨hint, harm, hmode, hwf⟩ := h
  set b : Acc := if x.op.ovw then { elems := [], int := true } else a with hb
  have hstart : (if (false || (!x.op.arm && x.op.ovw)) = true then ({ elems := [], int := true } : Acc)
      else if (!(false || (!x.op.arm && x.op.ovw)) && a.int != true) = true then a.toMode true { mode := x.op.mode.toNat, seed := seed, i := 0 }
      else a) = b := by
    rw [hb, harm]
    rcases hmode with ho | ho <;> simp [ho]
  have hbwf : Sparse.wfFrom 0 0 b.elems = true := by rw [hb]; split <;> [rfl; exact hwf]
  have hget : (b.get m n).toInt = if x.op.ovw then 0 else (a.get m n).toInt := by rw [hb]; split <;> rfl
  rw [← hget, ← accumulate_int]
  rw [FireIn.perform, hint]
  dsimp only
  rw [hstart]
  exact get_foldl_set (key := fun q : Nat × Nat => q.1 * 128 + q.2) (p := (m, n)) (st := (b.elems, false))
    (g := fun q => (x.accumulate true { mode := x.op.mode.toNat, seed := seed, i := 0 } q.1 q.2 (b.get q.1 q.2)).1)
    (o := fun q ov => ov || (x.accumulate true { mode := x.op.mode.toNat, seed := seed, i := 0 } q.1 q.2 (b.get q.1 q.2)).2)
    (fun q hq hk => by
      have hq2 := (mem_regionOf.1 hq).2
      have hle := shapeOf_le x.op.shape
      exact Prod.ext (by dsimp only at hk ⊢; omega) (by dsimp only at hk ⊢; omega)) hbwf (.inl (mem_regionOf.2 ⟨hm, hn⟩))

/-! ### The MMA at the head of the queue fires (R127, R131, R133) -/

/-- A ring with one more slot claimed. -/
def Ring.claimOne (r : Ring) : Ring := { r with claimed := r.claimed + 1 }

/-- A ring whose first filled slot has not been claimed. -/
structure Ring.Offers (r : Ring) : Prop where
  claimed : r.claimed = 0
  filled  : 0 < r.filled
  head    : r.head < r.count

/-- The slot that is claimed is the one at the head. -/
theorem Ring.Offers.next {r : Ring} (h : r.Offers) : (r.head + r.claimed) % r.count = r.head := by
  rw [h.claimed, Nat.add_zero, Nat.mod_eq_of_lt h.head]

/-- A pop gives the claim back. -/
theorem Ring.pop_claimOne (r : Ring) : r.claimOne.pop = { r with head := (r.head + 1) % r.count, filled := r.filled - 1 } := by
  simp [Ring.pop, Ring.claimOne]

/-- An operation whose two rings differ and offer a slot each. -/
structure Tile.Supplies (T : Tile) (op : MmaOp) : Prop where
  ltA   : op.ringA < 8
  ltB   : op.ringB < 8
  ne    : op.ringA ≠ op.ringB
  offers : ∀ g, g = op.ringA ∨ g = op.ringB → (T.ring g).Offers

/-- The tile once a slot of each ring is claimed. -/
def Tile.claimed (T : Tile) (op : MmaOp) : Tile :=
  (T.setRing op.ringA (T.ring op.ringA).claimOne).setRing op.ringB (T.ring op.ringB).claimOne

/-- What a fire reads from its slots. -/
def Tile.reads (T : Tile) (op : MmaOp) (sl : Nat × Nat) : FireIn :=
  let A := T.ring op.ringA
  let B := T.ring op.ringB
  let kj := (mmaDepth (shapeOf op.shape).1 (ckind op.fa).width op.sp A.slot).getD (0, 0)
  { op := op, k := kj.1, j := kj.2, a := memNat T.spad (A.range sl.1).1 A.slot, b := memNat T.spad (B.range sl.2).1 B.slot }

section
variable (T : Tile) (op : MmaOp)

@[simp] theorem Tile.mq_claimed : (T.claimed op).mq = T.mq := by rw [claimed, mq_setRing, mq_setRing]
@[simp] theorem Tile.spad_claimed : (T.claimed op).spad = T.spad := by rw [claimed, spad_setRing, spad_setRing]
@[simp] theorem Tile.phase_claimed : (T.claimed op).phase = T.phase := by rw [claimed, phase_setRing, phase_setRing]
@[simp] theorem Tile.acc_claimed (k : Nat) : (T.claimed op).acc k = T.acc k := by rw [claimed, acc_setRing, acc_setRing]

end

section
variable {T : Tile} {op : MmaOp} (h : T.Supplies op)
include h

theorem Tile.Supplies.ring_claimed {g : Nat} (hg : g = op.ringA ∨ g = op.ringB) : (T.claimed op).ring g = (T.ring g).claimOne := by
  unfold claimed
  rcases hg with rfl | rfl
  · rw [ring_setRing_other _ _ h.ne, ring_setRing _ _ h.ltA]
  · rw [ring_setRing _ _ h.ltB]

theorem Tile.Supplies.claim_eq : T.claim op = some (((T.ring op.ringA).head, (T.ring op.ringB).head), T.claimed op) := by
  have hA := h.offers _ (.inl rfl)
  have hB := h.offers _ (.inr rfl)
  have hnA : (T.ring op.ringA).unclaimed ≠ 0 := by have := hA.filled; rw [Ring.unclaimed, hA.claimed]; omega
  have hnB : (T.ring op.ringB).unclaimed ≠ 0 := by have := hB.filled; rw [Ring.unclaimed, hB.claimed]; omega
  have hother := ring_setRing_other T { T.ring op.ringA with claimed := (T.ring op.ringA).claimed + 1 } h.ne.symm
  simp only [claim, if_neg hnA, hother, if_neg hnB, hA.next, hB.next]
  rfl

/-- The MMA at the head fires when nothing holds it and no earlier engine write meets its slots. -/
theorem Tile.Supplies.fireHead_eq {r : List MCmd} (hq : T.mq = .mma op :: r) (harm : op.arm = false) (hf : T.fslot op.acc = none)
    (hsb : T.sbClash [(T.ring op.ringA).range (T.ring op.ringA).head, (T.ring op.ringB).range (T.ring op.ringB).head] false = false) :
    T.fireHead = some ((T.claimed op).dropHead.fireNow op ((T.ring op.ringA).head, (T.ring op.ringB).head) false op.seed) := by
  have hheld : T.headHeld (.mma op) = false := by simp [headHeld, MCmd.accs, hf]
  have hA := h.ring_claimed (.inl rfl)
  have hB := h.ring_claimed (.inr rfl)
  have hhead : (T.claimed op).slotsAtHead op ((T.ring op.ringA).head, (T.ring op.ringB).head) = true := by
    simp [slotsAtHead, hA, hB, h.ne, Ring.claimOne]
  have hclash : (T.claimed op).sbClash [((T.claimed op).ring op.ringA).range (T.ring op.ringA).head,
      ((T.claimed op).ring op.ringB).range (T.ring op.ringB).head] false = false := by rw [hA, hB]; exact hsb
  simp only [fireHead, hq, harm, hheld, h.claim_eq, hhead, hclash, Bool.or_self, Bool.not_true, Bool.false_eq_true, if_false]

end

section
variable {U : Tile} {op : MmaOp} (sl : Nat × Nat) (seed : Word)

/-- A supported fire accumulates what it reads, and pops its two rings. -/
structure SlotsFired (U V : Tile) (op : MmaOp) (sl : Nat × Nat) (seed : Word) : Prop where
  acc   : V.acc op.acc = ((U.reads op sl).perform false seed (U.acc op.acc)).1
  ring  : ∀ g, g = op.ringA ∨ g = op.ringB → V.ring g = (U.ring g).pop
  mq    : V.mq = U.mq
  spad  : V.spad = U.spad
  phase : V.phase = U.phase

theorem fireNow_fired (hn : op.null = false) (hacc : op.acc < 4) (hA : op.ringA < 8) (hB : op.ringB < 8) (hne : op.ringA ≠ op.ringB) :
    SlotsFired U (U.fireNow op sl false seed) op sl seed := by
  have hfire : U.fireNow op sl false seed =
      let p := (U.reads op sl).perform false seed (U.acc op.acc)
      let W := (U.setAcc op.acc p.1).raise (p.2 ||| warnOf warnMfb (op.arm && op.ovw))
      let W := W.setRing op.ringA (W.ring op.ringA).pop
      W.setRing op.ringB (W.ring op.ringB).pop := by
    unfold Tile.fireNow Tile.reads
    simp only [hn, Bool.false_eq_true, if_false]
  rw [hfire]
  constructor
  case mq => simp only [Tile.mq_setRing, Tile.raise_mq, Tile.mq_setAcc]
  case spad => simp only [Tile.spad_setRing, Tile.raise_spad, Tile.spad_setAcc]
  case phase => simp only [Tile.phase_setRing, Tile.raise_phase, Tile.phase_setAcc]
  case acc => simp only [Tile.acc_setRing, Tile.acc_raise, Tile.acc_setAcc _ _ hacc]
  case ring =>
    rintro g (rfl | rfl)
    · simp only [Tile.ring_setRing_other _ _ hne, Tile.ring_setRing _ _ hA, Tile.ring_raise, Tile.ring_setAcc]
    · simp only [Tile.ring_setRing_other _ _ hne.symm, Tile.ring_setRing _ _ hB, Tile.ring_raise, Tile.ring_setAcc]

end

/-- A dense depth fills the slot of ring A with whole rows. -/
theorem mmaDepth_dense {m wa sa k j : Nat} (h : mmaDepth m wa .dense sa = some (k, j)) : m * wa * k = 8 * sa := by
  unfold mmaDepth at h
  simp only [sparsityOf, Nat.add_zero, if_true] at h
  split at h
  · cases h
  · next hn =>
    obtain ⟨hmod, -⟩ := not_or.1 hn
    simp only [Option.some.injEq, Prod.mk.injEq] at h
    rw [← h.1]
    exact Nat.mul_div_cancel' (Nat.dvd_of_mod_eq_zero (not_not.1 hmod))

/-- What a dense fire multiplies are the elements of its two slots (R131, R132). -/
theorem sum_product_eq_dotInt {T : Tile} {op : MmaOp} {k j m n : Nat} (hsp : op.sp = .dense)
    (hk : mmaDepth (shapeOf op.shape).1 (ckind op.fa).width .dense (T.ring op.ringA).slot = some (k, j))
    (hb : k * (shapeOf op.shape).2 * (ckind op.fb).width ≤ 8 * (T.ring op.ringB).slot) (hm : m < (shapeOf op.shape).1)
    (hn : n < (shapeOf op.shape).2) :
    let x := T.reads op ((T.ring op.ringA).head, (T.ring op.ringB).head)
    ((List.range x.k).map (x.product m n)).sum = dotInt T op k m n := by
  intro x
  have hxk : x.k = k := by
    show ((mmaDepth _ _ op.sp _).getD (0, 0)).1 = k
    rw [hsp, hk]; rfl
  rw [dotInt, hxk]
  refine congrArg List.sum (List.map_congr_left fun i hi => ?_)
  have hi : i < k := List.mem_range.1 hi
  have hrow : m * k + i + 1 ≤ (shapeOf op.shape).1 * k := by
    calc m * k + i + 1 ≤ (m + 1) * k := by rw [Nat.succ_mul]; omega
      _ ≤ _ := Nat.mul_le_mul_right _ hm
  have hcol : (if op.tb then n * k + i else i * (shapeOf op.shape).2 + n) + 1 ≤ k * (shapeOf op.shape).2 := by
    split
    · calc n * k + i + 1 ≤ (n + 1) * k := by rw [Nat.succ_mul]; omega
        _ ≤ _ := by rw [Nat.mul_comm k]; exact Nat.mul_le_mul_right _ hn
    · calc i * (shapeOf op.shape).2 + n + 1 ≤ (i + 1) * (shapeOf op.shape).2 := by rw [Nat.succ_mul]; omega
        _ ≤ _ := Nat.mul_le_mul_right _ hi
  have hA : x.aAt m i = [packedAt T (ckind op.fa).width ((T.ring op.ringA).base + (T.ring op.ringA).head * (T.ring op.ringA).slot) (m * k + i)] := by
    have hbits : (ckind op.fa).width * (m * k + i + 1) ≤ 8 * (T.ring op.ringA).slot := by
      rw [← mmaDepth_dense hk, Nat.mul_right_comm, Nat.mul_comm]
      exact Nat.mul_le_mul_right _ hrow
    rw [← runElem_memNat T hbits, FireIn.aAt, hxk]
    exact if_pos hsp
  have hB : x.bAt i n = packedAt T (ckind op.fb).width ((T.ring op.ringB).base + (T.ring op.ringB).head * (T.ring op.ringB).slot)
      (if op.tb then n * k + i else i * (shapeOf op.shape).2 + n) := by
    have hbits : (ckind op.fb).width * ((if op.tb then n * k + i else i * (shapeOf op.shape).2 + n) + 1) ≤ 8 * (T.ring op.ringB).slot :=
      (Nat.mul_le_mul_left _ hcol).trans (by rw [Nat.mul_comm]; exact hb)
    rw [← runElem_memNat T hbits, FireIn.bAt, hxk]; rfl
  rw [FireIn.product, hA, hB, List.map_singleton, List.sum_singleton]
  rfl

/-- What the fire of the MMA at the head does to its tile. -/
structure HeadFired (T V : Tile) (op : MmaOp) (r : List MCmd) : Prop where
  acc   : V.acc op.acc = ((T.reads op ((T.ring op.ringA).head, (T.ring op.ringB).head)).perform false op.seed (T.acc op.acc)).1
  ring  : ∀ g, g = op.ringA ∨ g = op.ringB → V.ring g = { T.ring g with
    head := ((T.ring g).head + 1) % (T.ring g).count, filled := (T.ring g).filled - 1 }
  mq    : V.mq = r
  spad  : V.spad = T.spad
  phase : V.phase = T.phase

theorem Tile.Supplies.headFired {T : Tile} {op : MmaOp} (h : T.Supplies op) {r : List MCmd} (hq : T.mq = .mma op :: r) (hn : op.null = false)
    (hacc : op.acc < 4) :
    HeadFired T ((T.claimed op).dropHead.fireNow op ((T.ring op.ringA).head, (T.ring op.ringB).head) false op.seed) op r := by
  have hf := fireNow_fired (U := (T.claimed op).dropHead) ((T.ring op.ringA).head, (T.ring op.ringB).head) op.seed hn hacc h.ltA h.ltB h.ne
  have hring : ∀ g, g = op.ringA ∨ g = op.ringB → (T.claimed op).dropHead.ring g = (T.ring g).claimOne := fun g hg => h.ring_claimed hg
  have hreads : ∀ sl, (T.claimed op).dropHead.reads op sl = T.reads op sl := fun sl => by
    rw [reads, reads, hring _ (.inl rfl), hring _ (.inr rfl), spad_dropHead, spad_claimed]; rfl
  exact {
    acc := by rw [hf.acc, hreads, acc_dropHead, acc_claimed]
    ring := fun g hg => by rw [hf.ring g hg, hring g hg, Ring.pop_claimOne]
    mq := hf.mq.trans (mq_dropHead ((T.mq_claimed op).trans hq))
    spad := by rw [hf.spad, spad_dropHead, spad_claimed]
    phase := by rw [hf.phase, phase_dropHead, phase_claimed] }

/-- The tile that the fire at the head leaves is the tile of the next state; a fire is counted. -/
theorem fire_done {s : State} {t : Nat} (hm : Moves s t) {V : Tile} (hV : (s.tile t).fireHead = some V) (hp : V.phase = (s.tile t).phase) :
    ∃ s', exec (.fire t 0) s = .next s' ∧ s'.tile t = V.wake ∧ s'.pmem = s.pmem := by
  have honly : OnlyCounters (s.setTile t V.wake) ((s.setTile t V.wake).count V.vf 4 1) := count_only _ _ 4 1 (by decide)
  refine ⟨_, ?_, (honly.tile t).trans (tile_setTile_running (hp.trans hm.1)), (congrArg State.pmem honly.rest :)⟩
  show execFire t 0 s = _
  simp only [execFire, unitsMove_of_moves hm, hV, Bool.not_true, Bool.false_eq_true, if_false, if_true]

end Sys2Proof.Machine
end

section
/-! ## Proofs: tokens, the retirement of fires, exchanges -/

namespace Sys2Proof.Machine

/-! ### A token (R138, R139) -/

section
variable {T : Tile} {cc : Nat} {c : Chain} {a : Armed}

theorem mayEmit_of (hst : c.st = .running) (hstop : c.stopped = false) (hmode : c.mode = 0) (hdone : c.done = c.t) (hpen : c.pen = false)
    (ha : T.fslot c.fslotNo = some a) (has : a.stop = false) : T.mayEmit c = true := by
  simp [Tile.mayEmit, hst, hstop, hmode, hdone, hpen, ha, has]

/-- The fire that a token of a chain without flushes starts. -/
def tokenFire (cc : Nat) (c : Chain) (a : Armed) (n : Nat) : Fire := {
  id := n + 2, op := a.op, chain := some cc, first := c.firstTok, last := false, isEnd := c.endTok
  seed := mix (a.op.seed + BitVec.ofNat 64 a.t), slots := none, faddr := c.faddr.toNat, sbIn := n, sbOut := n + 1, performed := false }

/-- The chain once its token is out. -/
def Chain.emitted (c : Chain) : Chain := {
  c with t := c.t + 1, cnt := advanceCounters c.bound (c.lm1 + 1) 0 c.cnt, stopped := c.endTok }

/-- One more fire under way. -/
def Tile.addFire (T : Tile) (f : Fire) : Tile := { T with fires := T.fires ++ [f] }

@[simp] theorem Tile.fires_addFire (f : Fire) : (T.addFire f).fires = T.fires ++ [f] := rfl
@[simp] theorem Tile.chain_addFire (f : Fire) (k : Nat) : (T.addFire f).chain k = T.chain k := rfl
@[simp] theorem Tile.fslot_addFire (f : Fire) (k : Nat) : (T.addFire f).fslot k = T.fslot k := rfl
@[simp] theorem Tile.phase_addFire (f : Fire) : (T.addFire f).phase = T.phase := rfl

/-- A token of a chain without flushes that claims no slots. -/
theorem emit_plain (hmode : c.mode = 0) (hfen : c.fen = false) (n : Nat) : T.emit cc c a n =
    ((T.setFslot c.fslotNo (some { a with t := a.t + 1 })).setChain cc c.emitted).addFire (tokenFire cc c a n) := by
  unfold Tile.emit tokenFire Chain.emitted Tile.addFire
  simp [hmode, hfen, Tile.setChain, Tile.setFslot]

/-- The tile after a token: its fire is under way, its chain has advanced, its slot has counted it. -/
theorem emit_fields (hmode : c.mode = 0) (hfen : c.fen = false) (n : Nat) (hcc : cc < 4) (ha : T.fslot c.fslotNo = some a) :
    (T.emit cc c a n).fires = T.fires ++ [tokenFire cc c a n] ∧ (T.emit cc c a n).chain cc = c.emitted ∧
      (T.emit cc c a n).fslot c.fslotNo = some { a with t := a.t + 1 } ∧ (T.emit cc c a n).phase = T.phase := by
  rw [emit_plain hmode hfen]
  refine ⟨?_, ?_, ?_, ?_⟩
  · rw [Tile.fires_addFire, Tile.fires_setChain, Tile.fires_setFslot]
  · rw [Tile.chain_addFire, Tile.chain_setChain _ _ hcc]
  · rw [Tile.fslot_addFire, Tile.fslot_setChain, Tile.fslot_setFslot _ _ (Tile.fslot_lt ha)]
  · rw [Tile.phase_addFire, Tile.phase_setChain, Tile.phase_setFslot]

end

/-- The tile that a token leaves is the tile of the next state. -/
theorem tokenEmit_done {s : State} {t cc : Nat} {a : Armed} (hm : Moves s t) (he : (s.tile t).mayEmit ((s.tile t).chain cc) = true)
    (ha : (s.tile t).fslot ((s.tile t).chain cc).fslotNo = some a) {V : Tile} (hV : (s.tile t).emit cc ((s.tile t).chain cc) a s.nextId = V)
    (hp : V.phase = (s.tile t).phase) : ∃ s', exec (.tokenEmit t cc) s = .next s' ∧ s'.tile t = V.wake := by
  refine ⟨{ s with nextId := s.nextId + 3 }.setTile t V.wake, ?_, tile_setTile_running (U := V.wake) (hp.trans hm.1)⟩
  show execTokenEmit t cc s = _
  simp only [execTokenEmit, unitsMove_of_moves hm, he, ha, hV, Bool.not_true, Bool.or_self, Bool.false_eq_true, if_false]

/-! ### A fire retires (R140) -/

/-- A fire fewer under way. -/
def Tile.dropFire (T : Tile) (id : Nat) : Tile := { T with fires := T.fires.filter (fun g => g.id != id) }

@[simp] theorem Tile.fires_dropFire (T : Tile) (id : Nat) : (T.dropFire id).fires = T.fires.filter (fun g => g.id != id) := rfl
@[simp] theorem Tile.spad_dropFire (T : Tile) (id : Nat) : (T.dropFire id).spad = T.spad := rfl
@[simp] theorem Tile.phase_dropFire (T : Tile) (id : Nat) : (T.dropFire id).phase = T.phase := rfl

/-- The chain once a fire of it has retired. -/
def Chain.counted (c : Chain) (ends : Bool) : Chain := { c with done := c.done + 1, st := if ends then .done else c.st }

section
variable {T : Tile} {f : Fire} {cc : Nat} (hl : f.last = false) (hc : f.chain = some cc) (he : f.isEnd = true ∨ (T.chain cc).err = false)
include hl hc he

/-- A fire without a flush leaves the list of fires and is counted by its chain; an end token frees its slot. -/
theorem retireFire_plain : T.retireFire f =
    if f.isEnd then ((T.dropFire f.id).setChain cc ((T.chain cc).counted true)).setFslot f.op.acc none
    else (T.dropFire f.id).setChain cc ((T.chain cc).counted false) := by
  unfold Tile.retireFire Tile.dropFire Chain.counted
  rcases he with hend | herr
  · simp [hl, hc, hend]
  · cases f.isEnd <;> simp [hl, hc, herr]

theorem retireFire_fields (hcc : cc < 4) : (T.retireFire f).fires = T.fires.filter (fun g => g.id != f.id) ∧
    (T.retireFire f).chain cc = (T.chain cc).counted f.isEnd ∧ (f.isEnd = true → f.op.acc < 4 → (T.retireFire f).fslot f.op.acc = none) ∧
      (T.retireFire f).spad = T.spad ∧ (T.retireFire f).phase = T.phase := by
  rw [retireFire_plain hl hc he]
  cases f.isEnd with
  | true =>
    refine ⟨?_, ?_, fun _ hacc => Tile.fslot_setFslot _ _ hacc, ?_, ?_⟩
    · rw [if_pos rfl, Tile.fires_setFslot, Tile.fires_setChain, Tile.fires_dropFire]
    · rw [if_pos rfl, Tile.chain_setFslot, Tile.chain_setChain _ _ hcc]
    · rw [if_pos rfl, Tile.spad_setFslot, Tile.spad_setChain, Tile.spad_dropFire]
    · rw [if_pos rfl, Tile.phase_setFslot, Tile.phase_setChain, Tile.phase_dropFire]
  | false =>
    refine ⟨?_, Tile.chain_setChain _ _ hcc, nofun, ?_, ?_⟩
    · rw [if_neg Bool.false_ne_true, Tile.fires_setChain, Tile.fires_dropFire]
    · rw [if_neg Bool.false_ne_true, Tile.spad_setChain, Tile.spad_dropFire]
    · rw [if_neg Bool.false_ne_true, Tile.phase_setChain, Tile.phase_dropFire]

end

/-- The tile that a retired fire leaves is the tile of the next state. -/
theorem fireRetire_done {s : State} {t id : Nat} {f : Fire} (hm : Moves s t) (hf : (s.tile t).fires.find? (fun g => g.id == id) = some f)
    (hp : f.performed = true) (hl : f.last = false) {V : Tile} (hV : (s.tile t).retireFire f = V) (hph : V.phase = (s.tile t).phase) :
    ∃ s', exec (.fireRetire t id) s = .next s' ∧ s'.tile t = V.wake ∧ OnlyTile s s' t := by
  refine ⟨s.setTile t V.wake, ?_, tile_setTile_running (hph.trans hm.1), onlyTile_setTile ..⟩
  show execFireRetire t id s = _
  simp only [execFireRetire, unitsMove_of_moves hm, hf, hp, hl, hV, Bool.not_true, Bool.false_and, Bool.or_self, Bool.false_eq_true, if_false]

/-! ### Mirror tiles exchange their blocks (R148) -/

/-- A side of an exchange takes the other's bytes and drops its request. -/
theorem endSwap_kept (T : Tile) (q : TswapReq) (v : Nat) : (T.endSwap q 0 (some v)).spad = memPutNat T.spad q.addr q.len v ∧
    (T.endSwap q 0 (some v)).tswaps = T.tswaps.drop 1 ∧ (T.endSwap q 0 (some v)).phase = T.phase := by
  unfold Tile.endSwap
  dsimp only
  rw [deliver_kept]
  exact ⟨rfl, rfl, rfl⟩

theorem tswapExchange_swaps {s : State} {t u : Nat} {p q : TswapReq} {pr qr : List TswapReq} (hmv : Moves s t)
    (hu : u = mirrorOf t (s.tile t).crect) (hne : u ≠ t) (hback : mirrorOf u (s.tile u).crect = t) (hi : (s.tile u).inst = (s.tile t).inst)
    (hj : (s.tile u).tidx = (s.tile t).tidx) (hmu : Moves s u) (hp : (s.tile t).tswaps = p :: pr) (hq : (s.tile u).tswaps = q :: qr)
    (hlen : p.len = q.len) (hsp : (s.tile t).sbMust p.id = false) (hsq : (s.tile u).sbMust q.id = false) :
    ∃ s', exec (.tswapExchange t) s = .next s' ∧
      (s'.tile t).spad = memPutNat (s.tile t).spad p.addr p.len (memNat (s.tile u).spad q.addr q.len) ∧
      (s'.tile u).spad = memPutNat (s.tile u).spad q.addr q.len (memNat (s.tile t).spad p.addr p.len) ∧
      (s'.tile t).tswaps = pr ∧ (s'.tile u).tswaps = qr ∧ s' = { s with tiles := s'.tiles } ∧
      ∀ v, v ≠ t → v ≠ u → s'.tile v = s.tile v := by
  set V := (s.tile t).endSwap p 0 (some (memNat (s.tile u).spad q.addr q.len)) with hV
  set W := (s.tile u).endSwap q 0 (some (memNat (s.tile t).spad p.addr p.len)) with hW
  obtain ⟨hVspad, hVt, hVp⟩ := endSwap_kept (s.tile t) p (memNat (s.tile u).spad q.addr q.len)
  obtain ⟨hWspad, hWt, hWp⟩ := endSwap_kept (s.tile u) q (memNat (s.tile t).spad p.addr p.len)
  have ht : ((s.setTile t V).setTile u W).tile t = V := by
    rw [State.tile_setTile_other _ _ hne.symm, tile_setTile_running (hVp.trans hmv.1)]
  have hu' : ((s.setTile t V).setTile u W).tile u = W := tile_setTile_running (hWp.trans hmu.1)
  refine ⟨(s.setTile t V).setTile u W, ?_, ?_, ?_, ?_, ?_, rfl, fun v hvt hvu => ?_⟩
  · show execTswapExchange t s = _
    simp only [execTswapExchange, ← hu, hp, hq, hne, hback, hi, hj, unitsMove_of_moves hmv, unitsMove_of_moves hmu, hsp, hsq, ← hlen,
      not_true_eq_false, Bool.not_true, Bool.false_eq_true, or_self, if_false, ne_eq]
    rw [hV, hW, hlen]
  · rw [ht, hVspad]
  · rw [hu', hWspad]
  · rw [ht, hVt, hp]; rfl
  · rw [hu', hWt, hq]; rfl
  · rw [State.tile_setTile_other _ _ hvu, State.tile_setTile_other _ _ hvt]

end Sys2Proof.Machine
end

section
/-! ## Proofs: the steps of the matrix unit -/

namespace Sys2Proof.Machine

/-- A flush at the head writes every row of its region. -/
theorem mflush_writes {s : State} {t c addr pitch code sb : Nat} {h : Shape} {sat : Bool} {mode : BitVec 3} {seed : Word} {r : List MCmd}
    (hmv : Moves s t) (hq : (s.tile t).mq = .mflush c h addr pitch code sat mode seed sb :: r) (hf : (s.tile t).fslot c = none)
    (hs : (s.tile t).sbMust sb = false) (hwf : Memory.wf (s.tile t).spad = true) (hp : rowBytes (shapeOf h).2 (ckind code).width ≤ pitch) :
    ∃ s', exec (.accumulatorCommand t) s = .next s' ∧ (s'.tile t).mq = r ∧ (s'.tile t).accs = (s.tile t).accs ∧ OnlyTile s s' t ∧
      ∀ m, m < (shapeOf h).1 → memNat (s'.tile t).spad (addr + m * pitch) (rowBytes (shapeOf h).2 (ckind code).width) =
        ((s.tile t).acc c).packedRow (ckind code) sat { mode := mode.toNat, seed := seed, i := 0 } (shapeOf h).2 0 m := by
  obtain ⟨w, hw⟩ := flushAcc_eq (s.tile t).dropHead c h addr pitch code sat { mode := mode.toNat, seed := seed, i := 0 } 0
  have hc := command_mflush hq hf hs
  rw [hw] at hc
  obtain ⟨s', hx, ht, honly⟩ := accumulatorCommand_done hmv hc rfl
  refine ⟨s', hx, ?_, ?_, honly, fun m hm => ?_⟩
  · rw [ht]; exact Tile.mq_dropHead hq
  · rw [ht]; rfl
  · rw [ht]
    refine (memNat_putRows hwf addr hp _ hm).trans ?_
    have := packElems_mod_rowBytes (ckind code).width ((List.range (shapeOf h).2).map (fun n =>
      ((ckind code).encode { mode := mode.toNat, seed := seed, i := 0 + m * 128 + n } sat
        (accVal ((s.tile t).acc c).int (((s.tile t).acc c).get m n))).1))
    rwa [List.length_map, List.length_range] at this

/-- Settles O43: one lemma for each step of the matrix unit, in the order of the statement. -/
theorem matrixStepsComplete : Obligations.MatrixStepsComplete := by
  unfold Obligations.MatrixStepsComplete
  intro s t hmv
  refine ⟨?mzero, ?mdis, ?arm, ?mflush, ?fire, ?token, ?retire, ?swap⟩
  case mzero =>
    intro c r hq hc hf
    obtain ⟨s', hx, ht, honly⟩ := accumulatorCommand_done hmv (command_mzero hq hf) rfl
    refine ⟨s', hx, ?_, ?_, ?_, ?_, ?_, honly⟩ <;> rw [ht]
    · intro m n
      rw [Tile.acc_wake, Tile.acc_setAcc _ _ hc]; rfl
    · rw [Tile.acc_wake, Tile.acc_setAcc _ _ hc]
    · exact Tile.mq_dropHead hq
    · exact fun k hk => Tile.acc_setAcc_other _ _ hk
    · rfl
  case mdis =>
    intro c r hq hf
    obtain ⟨s', hx, ht, honly⟩ := accumulatorCommand_done hmv (command_mdis hq hf) rfl
    refine ⟨s', hx, ?_, ?_, honly⟩ <;> rw [ht]
    · exact Tile.mq_dropHead hq
    · rfl
  case arm =>
    intro op r hq ha hacc hf
    obtain ⟨s', hx, ht, honly⟩ := accumulatorCommand_done hmv (command_arm hq ha hf) rfl
    refine ⟨s', hx, ?_, ?_, honly⟩ <;> rw [ht]
    · exact Tile.fslot_setFslot _ _ hacc
    · exact Tile.mq_dropHead hq
  case mflush =>
    intro c h addr pitch code sat mode seed sb r hq hf hs hwf w rb hp
    obtain ⟨s', hx, hmq, haccs, honly, hrows⟩ := mflush_writes hmv hq hf hs hwf hp
    refine ⟨s', hx, hmq, haccs, honly, fun m hm => (hrows m hm).trans ?_⟩
    simp only [Acc.packedRow, Nat.zero_add]; rfl
  case fire =>
    intro op r k j hq harm hn hsp hfa hfa' hfb hfb' hacc hA hB hne hf hring hk hb hsb hmode hwf
    have hsup : (s.tile t).Supplies op := ⟨hA, hB, hne, fun g hg => by
      obtain ⟨h1, h2, h3⟩ := hring g hg
      exact ⟨h1, h2, h3⟩⟩
    have hint : IntegerFire ((s.tile t).reads op (((s.tile t).ring op.ringA).head, ((s.tile t).ring op.ringB).head)) ((s.tile t).acc op.acc) :=
      ⟨by simp [intMode, Tile.reads, hfa, hfb], harm, hmode, hwf⟩
    have hV := hsup.headFired hq hn hacc
    obtain ⟨s', hx, ht, hmem⟩ := fire_done hmv (hsup.fireHead_eq hq harm hf hsb) hV.phase
    refine ⟨s', hx, ?_, ?_, fun m n hm hn' => ?_, fun g hg => ?_, ?_, hmem⟩ <;> rw [ht]
    · rw [Tile.wake_mq, hV.mq]
    · rw [Tile.acc_wake, hV.acc, perform_int hint]
    · rw [Tile.acc_wake, hV.acc, get_perform hint op.seed hm hn', sum_product_eq_dotInt hsp hk hb hm hn']
      rfl
    · rw [Tile.ring_wake, hV.ring g hg]
    · rw [Tile.wake_spad, hV.spad]
  case token =>
    intro cc a c hcc hst hstop hmode hdone hpen hfen ha has
    obtain ⟨hfires, hchain, hslot, hphase⟩ := emit_fields hmode hfen s.nextId hcc ha
    obtain ⟨s', hx, ht⟩ := tokenEmit_done hmv (mayEmit_of hst hstop hmode hdone hpen ha has) ha rfl hphase
    refine ⟨s', tokenFire cc c a s.nextId, hx, ?_, rfl, rfl, rfl, rfl, rfl, rfl, rfl, ?_⟩
    · rw [ht, Tile.wake_fires, hfires]
    · rw [ht, Tile.chain_wake, Tile.fslot_wake, hchain, hslot]
      exact ⟨rfl, rfl, rfl, rfl⟩
  case retire =>
    intro id f cc hf hp hl hc hcc he
    have hid : f.id = id := by simpa using List.find?_some hf
    obtain ⟨hfires, hchain, hslot, hspad, hphase⟩ := retireFire_fields hl hc he hcc
    obtain ⟨s', hx, ht, honly⟩ := fireRetire_done hmv hf hp hl rfl hphase
    refine ⟨s', hx, ?_⟩
    rw [ht, Tile.wake_fires, Tile.chain_wake, Tile.fslot_wake, Tile.wake_spad, hfires, hchain, hspad, hid]
    exact ⟨rfl, rfl, fun hend => ⟨if_pos hend, hslot hend⟩, fun hend => if_neg (by simp [hend]), rfl, honly⟩
  case swap =>
    exact fun u p q pr qr hu hne hback hi hj hmu hp hq hlen hsp hsq => tswapExchange_swaps hmv hu hne hback hi hj hmu hp hq hlen hsp hsq

end Sys2Proof.Machine
end
section
/-! ## Proofs: the fields of a word -/

namespace Sys2Proof

/-! ### Slots of a word: fields added to zero bits are read back (R15, R54) -/

/-- A slot of a word: how many bits, and from which bit on. -/
@[ext] structure Slot where
  width : Nat
  lo : Nat
  deriving DecidableEq

/-- Two slots share no bit. -/
abbrev Slot.Apart (s t : Slot) : Prop := s.lo + s.width ≤ t.lo ∨ t.lo + t.width ≤ s.lo

/-- The bits of a number in a slot. -/
def Slot.read (s : Slot) (w : Nat) : Nat := w / 2 ^ s.lo % 2 ^ s.width

theorem Slot.read_add_self {s : Slot} {m v : Nat} (hm : s.read m = 0) (hv : v < 2 ^ s.width) : s.read (m + v * 2 ^ s.lo) = v := by
  unfold read at *
  rw [Nat.add_mul_div_right _ _ (Nat.two_pow_pos _), Nat.add_mod, hm, Nat.zero_add, Nat.mod_mod, Nat.mod_eq_of_lt hv]

/-- A value added to the zero bits of a slot carries into no bit above it. -/
theorem Slot.div_add {s : Slot} {m v : Nat} (hm : s.read m = 0) (hv : v < 2 ^ s.width) :
    (m + v * 2 ^ s.lo) / 2 ^ (s.lo + s.width) = m / 2 ^ (s.lo + s.width) := by
  rw [read] at hm
  rw [pow_add, ← Nat.div_div_eq_div_mul, ← Nat.div_div_eq_div_mul, Nat.add_mul_div_right _ _ (Nat.two_pow_pos _),
    ← Nat.div_add_mod (m / 2 ^ s.lo) (2 ^ s.width), hm, Nat.add_zero, Nat.mul_add_div (Nat.two_pow_pos _), Nat.div_eq_of_lt hv,
    Nat.mul_div_cancel_left _ (Nat.two_pow_pos _), Nat.add_zero]

theorem Slot.read_add_apart {s t : Slot} {m v : Nat} (hm : s.read m = 0) (hv : v < 2 ^ s.width) (h : s.Apart t) :
    t.read (m + v * 2 ^ s.lo) = t.read m := by
  unfold read
  rcases h with h | h
  · obtain ⟨k, hk⟩ := Nat.exists_eq_add_of_le h
    rw [hk, pow_add, ← Nat.div_div_eq_div_mul, Slot.div_add hm hv, Nat.div_div_eq_div_mul]
  · obtain ⟨k, hk⟩ := Nat.exists_eq_add_of_le h
    rw [show v * 2 ^ s.lo = v * 2 ^ k * 2 ^ t.width * 2 ^ t.lo by rw [hk, pow_add, pow_add]; ring,
      Nat.add_mul_div_right _ _ (Nat.two_pow_pos _), Nat.add_mul_mod_self_right]

/-- `pack`, by recursion on the fields: each value is added at its place. -/
def addFields (m : Nat) : List (Nat × Nat) → Nat
  | [] => m
  | (v, lo) :: fs => addFields (m + v * 2 ^ lo) fs

theorem pack_eq_addFields (m : Nat) (fs : List (Nat × Nat)) : pack m fs = addFields m fs := by
  induction fs generalizing m with
  | nil => exact Machine.pack_nil m
  | cons f fs ih => exact (Machine.pack_cons m f.1 f.2 fs).trans (ih _)

/-- A field may be taken into the constant part. -/
theorem addFields_insert (m v lo : Nat) (fs gs : List (Nat × Nat)) :
    addFields m (fs ++ (v, lo) :: gs) = addFields (m + v * 2 ^ lo) (fs ++ gs) := by
  induction fs generalizing m with
  | nil => rfl
  | cons f fs ih => exact (ih _).trans (by rw [Nat.add_right_comm]; rfl)

/-- The fields of a word, value and place, have the widths of the slots. -/
inductive Fields : List (Nat × Nat) → List Slot → Prop
  | nil : Fields [] []
  | cons {n : Nat} (x : BitVec n) (lo : Nat) {fs : List (Nat × Nat)} {ss : List Slot} (h : Fields fs ss) :
    Fields ((x.toNat, lo) :: fs) (⟨n, lo⟩ :: ss)

/-- The slots lie apart, on zero bits of m. -/
abbrev Fit (m : Nat) (ss : List Slot) : Prop := (∀ s ∈ ss, s.read m = 0) ∧ ss.Pairwise Slot.Apart

/-- A slot is one of a list's, or apart from all of them. -/
def readable (ss : List Slot) (t : Slot) : Bool :=
  ss.all fun s => (s.lo == t.lo && s.width == t.width) || (s.lo != t.lo && ((s.lo + s.width).ble t.lo || (t.lo + t.width).ble s.lo))

theorem readable_iff (ss : List Slot) (t : Slot) : readable ss t = true ↔ ∀ s ∈ ss, s = t ∨ (s.lo ≠ t.lo ∧ s.Apart t) := by
  simp [readable, Slot.Apart, Slot.ext_iff, and_comm]

/-- The value of the field at bit lo, or b where none is. -/
def fieldAt (b lo : Nat) : List (Nat × Nat) → Nat
  | [] => b
  | (v, k) :: fs => fieldAt (if k = lo then v else b) lo fs

variable {fs : List (Nat × Nat)} {ss : List Slot} {m : Nat}

/-- A packed word holds its fields, and the constant part beside them. -/
theorem read_addFields (hf : Fields fs ss) (hm : Fit m ss) {t : Slot} (ht : readable ss t = true) :
    t.read (addFields m fs) = fieldAt (t.read m) t.lo fs := by
  induction hf generalizing m with
  | nil => rfl
  | @cons n x lo fs ss _ ih =>
    obtain ⟨h0, hap⟩ := hm
    rw [List.forall_mem_cons] at h0
    rw [readable_iff, List.forall_mem_cons] at ht
    rw [List.pairwise_cons] at hap
    rw [addFields, ih ⟨fun s hs => (Slot.read_add_apart h0.1 x.isLt (hap.1 s hs)).trans (h0.2 s hs), hap.2⟩ ((readable_iff _ _).2 ht.2), fieldAt]
    rcases ht.1 with rfl | ⟨hne, hapart⟩
    · rw [Slot.read_add_self h0.1 x.isLt, if_pos rfl]
    · rw [Slot.read_add_apart h0.1 x.isLt hapart, if_neg hne]

/-- A packed word is at most the one whose fields are all ones. -/
theorem addFields_le {k : Nat} (hf : Fields fs ss) (hm : m ≤ k) : addFields m fs ≤ addFields k (ss.map fun s => (2 ^ s.width - 1, s.lo)) := by
  induction hf generalizing m k with
  | nil => exact hm
  | @cons n x lo fs ss _ ih => exact ih (Nat.add_le_add hm (Nat.mul_le_mul_right _ (Nat.le_sub_one_of_lt x.isLt)))

/-- An instruction's word of 32 bits decodes to it. -/
def Decodes (i : Instr) : Prop := encodeWord i < 2 ^ 32 ∧ rawDecode (encodeWord i) = .ok i

/-- The word of an instruction decodes to it when the decoder finds the instruction in any word with the same fields. -/
theorem decodes_of_fields {i : Instr} (hi : encodeWord i = addFields m fs) (hf : Fields fs ss) (hm : Fit m ss)
    (hlt : addFields m (ss.map fun s => (2 ^ s.width - 1, s.lo)) < 2 ^ 32)
    (h : ∀ w, (∀ hi lo, readable ss ⟨hi - lo + 1, lo⟩ = true → fld w hi lo = fieldAt (m / 2 ^ lo % 2 ^ (hi - lo + 1)) lo fs) →
      rawDecode w = .ok i) :
    Decodes i := by
  rw [Decodes, hi]
  exact ⟨(addFields_le hf le_rfl).trans_lt hlt, h _ fun _ _ ht => read_addFields hf hm ht⟩

/-! ### The codes of a field (R56) -/

theorem Width.ofCode?_eq_some {n : Nat} {x : Width} : Width.ofCode? n = some x ↔ n = x.code := by
  constructor
  · unfold Width.ofCode?
    split <;> rintro ⟨⟩ <;> rfl
  · rintro rfl
    cases x <;> rfl

@[simp] theorem Width.ofCode?_toNat (x : Width) : Width.ofCode? x.field.toNat = some x := Width.ofCode?_eq_some.2 x.code_eq_toNat.symm

theorem FFmt.ofCode?_eq_some {n : Nat} {x : FFmt} : FFmt.ofCode? n = some x ↔ n = x.code := by
  constructor
  · unfold FFmt.ofCode?
    split <;> rintro ⟨⟩ <;> rfl
  · rintro rfl
    cases x <;> rfl

@[simp] theorem FFmt.ofCode?_toNat (x : FFmt) : FFmt.ofCode? x.field.toNat = some x := FFmt.ofCode?_eq_some.2 x.code_eq_toNat.symm

theorem LoadSize.ofCode?_eq_some {n : Nat} {x : LoadSize} : LoadSize.ofCode? n = some x ↔ n = x.code := by
  constructor
  · unfold LoadSize.ofCode?
    split <;> rintro ⟨⟩ <;> rfl
  · rintro rfl
    cases x <;> rfl

@[simp] theorem LoadSize.ofCode?_toNat (x : LoadSize) : LoadSize.ofCode? x.field.toNat = some x := LoadSize.ofCode?_eq_some.2 x.code_eq_toNat.symm

theorem Scope.ofCode?_eq_some {n : Nat} {x : Scope} : Scope.ofCode? n = some x ↔ n = x.code := by
  constructor
  · unfold Scope.ofCode?
    split <;> rintro ⟨⟩ <;> rfl
  · rintro rfl
    cases x <;> rfl

@[simp] theorem Scope.ofCode?_toNat (x : Scope) : Scope.ofCode? x.field.toNat = some x := Scope.ofCode?_eq_some.2 x.code_eq_toNat.symm

theorem BrCond.ofCode?_eq_some {n : Nat} {x : BrCond} : BrCond.ofCode? n = some x ↔ n = x.code := by
  constructor
  · unfold BrCond.ofCode?
    split <;> rintro ⟨⟩ <;> rfl
  · rintro rfl
    cases x <;> rfl

@[simp] theorem BrCond.ofCode?_toNat (x : BrCond) : BrCond.ofCode? x.field.toNat = some x := BrCond.ofCode?_eq_some.2 x.code_eq_toNat.symm

theorem AmoOp.ofCode?_eq_some {n : Nat} {x : AmoOp} : AmoOp.ofCode? n = some x ↔ n = x.code := by
  constructor
  · unfold AmoOp.ofCode?
    split <;> rintro ⟨⟩ <;> rfl
  · rintro rfl
    cases x <;> rfl

@[simp] theorem AmoOp.ofCode?_toNat (x : AmoOp) : AmoOp.ofCode? x.field.toNat = some x := AmoOp.ofCode?_eq_some.2 x.code_eq_toNat.symm

theorem VCond.ofCode?_eq_some {n : Nat} {x : VCond} : VCond.ofCode? n = some x ↔ n = x.code := by
  constructor
  · unfold VCond.ofCode?
    split <;> rintro ⟨⟩ <;> rfl
  · rintro rfl
    cases x <;> rfl

@[simp] theorem VCond.ofCode?_toNat (x : VCond) : VCond.ofCode? x.field.toNat = some x := VCond.ofCode?_eq_some.2 x.code_eq_toNat.symm

theorem ROp.ofCode?_eq_some {n : Nat} {x : ROp} : ROp.ofCode? n = some x ↔ n = x.code := by
  constructor
  · unfold ROp.ofCode?
    split <;> rintro ⟨⟩ <;> rfl
  · rintro rfl
    cases x <;> rfl

@[simp] theorem ROp.ofCode?_toNat (x : ROp) : ROp.ofCode? x.field.toNat = some x := ROp.ofCode?_eq_some.2 x.code_eq_toNat.symm

theorem Shape.ofCode?_eq_some {n : Nat} {x : Shape} : Shape.ofCode? n = some x ↔ n = x.code := by
  constructor
  · unfold Shape.ofCode?
    split <;> rintro ⟨⟩ <;> rfl
  · rintro rfl
    cases x <;> rfl

@[simp] theorem Shape.ofCode?_toNat (x : Shape) : Shape.ofCode? x.field.toNat = some x := Shape.ofCode?_eq_some.2 x.code_eq_toNat.symm

theorem Sparsity.ofCode?_eq_some {n : Nat} {x : Sparsity} : Sparsity.ofCode? n = some x ↔ n = x.code := by
  constructor
  · unfold Sparsity.ofCode?
    split <;> rintro ⟨⟩ <;> rfl
  · rintro rfl
    cases x <;> rfl

@[simp] theorem Sparsity.ofCode?_toNat (x : Sparsity) : Sparsity.ofCode? x.field.toNat = some x := Sparsity.ofCode?_eq_some.2 x.code_eq_toNat.symm

theorem PageUnit.ofCode?_eq_some {n : Nat} {x : PageUnit} : PageUnit.ofCode? n = some x ↔ n = x.code := by
  constructor
  · unfold PageUnit.ofCode?
    split <;> rintro ⟨⟩ <;> rfl
  · rintro rfl
    cases x <;> rfl

@[simp] theorem PageUnit.ofCode?_toNat (x : PageUnit) : PageUnit.ofCode? x.field.toNat = some x := PageUnit.ofCode?_eq_some.2 x.code_eq_toNat.symm

/-- The width field of STS has three bits (R61). -/
def Width.wide (x : Width) : BitVec 3 := BitVec.ofNat 3 x.code
theorem Width.code_eq_wide (x : Width) : x.code = x.wide.toNat := by cases x <;> rfl
@[simp] theorem Width.ofCode?_wide (x : Width) : Width.ofCode? x.wide.toNat = some x := Width.ofCode?_eq_some.2 x.code_eq_wide.symm

/-- The condition field of VCMP has four bits (R61). -/
def VCond.wide (x : VCond) : BitVec 4 := BitVec.ofNat 4 x.code
theorem VCond.code_eq_wide (x : VCond) : x.code = x.wide.toNat := by cases x <;> rfl
@[simp] theorem VCond.ofCode?_wide (x : VCond) : VCond.ofCode? x.wide.toNat = some x := VCond.ofCode?_eq_some.2 x.code_eq_wide.symm

@[simp] theorem bitOf_toNat (b : Bool) : bitOf b.toNat = b := by cases b <;> rfl

@[simp] theorem need_some_bind {α β : Type} (x : α) (k : α → Except DecodeError β) : (need (some x) >>= k) = k x := rfl

@[simp] theorem zeros_zero (k : Except DecodeError Instr) : zeros 0 k = k := rfl

end Sys2Proof
end
section
/-! ## Proofs: an instruction is decoded from its word

One lemma per group of kinds. Each case shows the word as a sum of fields (`decodes_of_fields`); the decoder of its major opcode then
finds the instruction by reading the fields. -/

namespace Sys2Proof
open Machine (integerWord flowWord controlWord memoryWord engineWord fibreWord platformWord vectorWord vectorFloatWord matrixWord chainWord)

theorem integer_decodes {i : Instr} (h : (integerWord i || vectorWord i) = true) : Decodes i := by
  cases i <;> cases h
  all_goals
    refine decodes_of_fields (by
      delta encodeWord
      simp only [pack_eq_addFields, Width.code_eq_toNat]
      exact rfl) (by repeat constructor) (by decide) (by decide) fun w hr => ?_
    simp (disch := decide) [rawDecode, decodeMajor01, decodeMajor02, decodeMajor03, decodeMajor04, decodeMajor05, decodeMajor06,
      decodeMajor07, decodeMajor08, decodeMajor09, decodeMajor0A, decodeMajor0D, decodeMajor20, decodeMajor21, hr, fieldAt]

theorem flow_decodes {i : Instr} (h : flowWord i = true) : Decodes i := by
  cases i <;> cases h
  all_goals
    refine decodes_of_fields (by
      delta encodeWord
      simp only [pack_eq_addFields, Width.code_eq_wide, FFmt.code_eq_toNat, LoadSize.code_eq_toNat, BrCond.code_eq_toNat,
        bitCode_eq_toNat]
      exact rfl) (by repeat constructor) (by decide) (by decide) fun w hr => ?_
    simp (disch := decide) [rawDecode, decodeMajor0E, decodeMajor0F, decodeMajor10, decodeMajor11, decodeMajor12, decodeMajor14,
      decodeMajor15, hr, fieldAt]

theorem control_decodes {i : Instr} (h : (controlWord i || fibreWord i || platformWord i) = true) : Decodes i := by
  cases i <;> cases h
  all_goals
    refine decodes_of_fields (by
      delta encodeWord
      simp only [pack_eq_addFields, PageUnit.code_eq_toNat]
      exact rfl) (by repeat constructor) (by decide) (by decide) fun w hr => ?_
    simp (disch := decide) [rawDecode, decodeMajor13, decodeMajor1E, decodeMajor33, decodeMajor39, decodeMajor3D, decodeMajor3F, hr,
      fieldAt]

theorem memory_decodes {i : Instr} (h : memoryWord i = true) : Decodes i := by
  cases i <;> cases h
  case vld d b c p q o | vst d b c p q o =>
    cases q
    all_goals
      refine decodes_of_fields (by
        delta encodeWord
        simp only [pack_eq_addFields, Scope.code_eq_toNat]
        exact addFields_insert _ _ _ [_, _, _, _] [_]) (by repeat constructor) (by decide) (by decide) fun w hr => ?_
      simp (disch := decide) [rawDecode, decodeMajor2E, decodeMajor2F, hr, fieldAt, bitCode, bitOf]
  all_goals
    refine decodes_of_fields (by
      delta encodeWord
      simp only [pack_eq_addFields, Width.code_eq_toNat, Scope.code_eq_toNat, AmoOp.code_eq_toNat, bitCode_eq_toNat]
      exact rfl) (by repeat constructor) (by decide) (by decide) fun w hr => ?_
    simp (disch := decide) [rawDecode, decodeMajor16, decodeMajor17, decodeMajor18, decodeMajor19, decodeMajor1A, decodeMajor1B,
      decodeMajor1C, decodeMajor1D, decodeMajor2E, decodeMajor2F, hr, fieldAt]

theorem engine_decodes {i : Instr} (h : (engineWord i || matrixWord i || chainWord i) = true) : Decodes i := by
  cases i <;> cases h
  all_goals
    refine decodes_of_fields (by
      delta encodeWord
      simp only [pack_eq_addFields, Width.code_eq_toNat, Shape.code_eq_toNat, Sparsity.code_eq_toNat, bitCode_eq_toNat]
      exact rfl) (by repeat constructor) (by decide) (by decide) fun w hr => ?_
    simp (disch := decide) [rawDecode, decodeMajor1F, decodeMajor30, decodeMajor31, decodeMajor32, decodeMajor33, decodeMajor34,
      decodeMajor35, decodeMajor36, decodeMajor37, decodeMajor38, decodeMajor3B, decodeMajor3C, hr, fieldAt]

theorem vectorFloat_decodes {i : Instr} (h : vectorFloatWord i = true) : Decodes i := by
  cases i <;> cases h
  all_goals
    refine decodes_of_fields (by
      delta encodeWord
      simp only [pack_eq_addFields, Width.code_eq_toNat, VCond.code_eq_wide, ROp.code_eq_toNat, bitCode_eq_toNat]
      exact rfl) (by repeat constructor) (by decide) (by decide) fun w hr => ?_
    simp (disch := decide) [rawDecode, decodeMajor22, decodeMajor23, decodeMajor24, decodeMajor25, decodeMajor26, decodeMajor27,
      decodeMajor28, hr, fieldAt]

end Sys2Proof
end
section
/-! ## Proofs: a word that decodes is the word of its instruction -/

namespace Sys2Proof

/-! ### A word is the sum of its fields -/

/-- The bits of a word below bit k. -/
def below (w k : Nat) : Int := (w % 2 ^ k : Nat)

@[simp] theorem below_zero (w : Nat) : below w 0 = 0 := by simp [below, Nat.mod_one]

theorem below_all {w : Nat} (h : w < 2 ^ 32) : below w 32 = w := by rw [below, Nat.mod_eq_of_lt h]

theorem fld_mul (w : Nat) {hi lo : Nat} (h : lo ≤ hi) : (fld w hi lo : Int) * 2 ^ lo = below w (hi + 1) - below w lo := by
  have hk : 2 ^ (hi + 1) = 2 ^ lo * 2 ^ (hi - lo + 1) := by rw [← pow_add]; congr 1; omega
  rw [eq_sub_iff_add_eq, below, below, fld, hk, Nat.mod_mul]
  push_cast
  ring

theorem fld_eq_iff {w n hi lo : Nat} (h : lo ≤ hi) : fld w hi lo = n ↔ below w (hi + 1) - below w lo = n * 2 ^ lo := by
  rw [← fld_mul w h, Int.mul_eq_mul_right_iff (by positivity), Nat.cast_inj]

theorem toNat_ofNat_fld (w : Nat) {n hi lo : Nat} (h : hi - lo + 1 = n) : (BitVec.ofNat n (fld w hi lo)).toNat = fld w hi lo := by
  rw [BitVec.toNat_ofNat, fld, h, Nat.mod_mod]

theorem bitCode_bitOf_fld (w k : Nat) : bitCode (bitOf (fld w k k)) = fld w k k := by
  have h : fld w k k < 2 := by rw [fld, Nat.sub_self]; exact Nat.mod_lt _ (by decide)
  interval_cases fld w k k <;> rfl

theorem fld_bit_of {w k n : Nat} (h : fld w (k + 1) k = n) : fld w k k = n % 2 := by
  rw [← h, fld, fld, Nat.sub_self, Nat.add_sub_cancel_left, Nat.mod_mod_of_dvd _ (by decide), pow_one]

theorem cast_pack (m : Nat) (fs : List (Nat × Nat)) : (pack m fs : Int) = m + (fs.map fun f => (f.1 : Int) * 2 ^ f.2).sum := by
  induction fs generalizing m with
  | nil => simp [Machine.pack_nil]
  | cons f fs ih => rw [Machine.pack_cons, ih, List.map_cons, List.sum_cons]; push_cast; ring

theorem pack_eq_iff {m w : Nat} {fs : List (Nat × Nat)} (hw : w < 2 ^ 32) :
    pack m fs = w ↔ (m : Int) + (fs.map fun f => (f.1 : Int) * 2 ^ f.2).sum = below w 32 := by
  rw [below_all hw, ← cast_pack, Nat.cast_inj]

/-! ### Each major's decoder (R60, R61) -/

/-- What a decoder answers for a word is a word's instruction, and the word is that instruction's. -/
def Reads (w : Nat) (r : Except DecodeError Instr) : Prop := ∀ i, r = .ok i → i.isWord = true ∧ encodeWord i = w

theorem reads_error {w : Nat} {e : DecodeError} : Reads w (.error e) ↔ True := iff_true_intro fun _ h => by cases h

theorem reads_ok {w : Nat} {i : Instr} : Reads w (.ok i) ↔ i.isWord = true ∧ encodeWord i = w :=
  ⟨fun h => h i rfl, fun h j hj => by cases hj; exact h⟩

theorem reads_zeros {w n : Nat} {k : Except DecodeError Instr} : Reads w (zeros n k) ↔ (n = 0 → Reads w k) := by
  unfold zeros
  split <;> simp [*, reads_error]

theorem reads_need {α : Type} {w : Nat} {o : Option α} {k : α → Except DecodeError Instr} :
    Reads w (need o >>= k) ↔ ∀ x, o = some x → Reads w (k x) := by
  cases o with
  | none => exact iff_of_true (fun _ h => by cases h) (fun _ h => by cases h)
  | some a => exact ⟨fun h x hx => by cases hx; exact h, fun h => h a rfl⟩

/-- Major opcodes of scalar words, memory words, ports and channels, with their decoders. -/
def scalarMajors : List (Nat × (Nat → Except DecodeError Instr)) :=
  [(0x01, decodeMajor01), (0x02, decodeMajor02), (0x03, decodeMajor03), (0x04, decodeMajor04), (0x05, decodeMajor05),
    (0x06, decodeMajor06), (0x07, decodeMajor07), (0x08, decodeMajor08), (0x09, decodeMajor09), (0x0a, decodeMajor0A),
    (0x0d, decodeMajor0D), (0x0e, decodeMajor0E), (0x0f, decodeMajor0F), (0x10, decodeMajor10), (0x11, decodeMajor11),
    (0x12, decodeMajor12), (0x13, decodeMajor13), (0x14, decodeMajor14), (0x15, decodeMajor15), (0x16, decodeMajor16),
    (0x17, decodeMajor17), (0x18, decodeMajor18), (0x19, decodeMajor19), (0x1a, decodeMajor1A), (0x1b, decodeMajor1B),
    (0x1c, decodeMajor1C), (0x1d, decodeMajor1D), (0x1e, decodeMajor1E), (0x1f, decodeMajor1F)]

/-- Major opcodes of VLD and VST, with their decoders. -/
def vectorMemoryMajors : List (Nat × (Nat → Except DecodeError Instr)) :=
  [(0x2e, decodeMajor2E), (0x2f, decodeMajor2F)]

/-- Major opcodes of vector, matrix, engine, fibre and system words, and of the hints, with their decoders. -/
def unitMajors : List (Nat × (Nat → Except DecodeError Instr)) :=
  [(0x20, decodeMajor20), (0x21, decodeMajor21), (0x22, decodeMajor22), (0x23, decodeMajor23), (0x24, decodeMajor24),
    (0x25, decodeMajor25), (0x26, decodeMajor26), (0x27, decodeMajor27), (0x28, decodeMajor28), (0x30, decodeMajor30),
    (0x31, decodeMajor31), (0x32, decodeMajor32), (0x33, decodeMajor33), (0x34, decodeMajor34), (0x35, decodeMajor35),
    (0x36, decodeMajor36), (0x37, decodeMajor37), (0x38, decodeMajor38), (0x39, decodeMajor39), (0x3b, decodeMajor3B),
    (0x3c, decodeMajor3C), (0x3d, decodeMajor3D), (0x3f, decodeMajor3F)]

/-- Every major opcode with its decoder (R60). -/
def majors : List (Nat × (Nat → Except DecodeError Instr)) := scalarMajors ++ vectorMemoryMajors ++ unitMajors

/-- A word of no major is no instruction; another is read by its major's decoder. -/
theorem rawDecode_major (w : Nat) : rawDecode w = .error .reservedMajor ∨
    ∃ f, majors.lookup (fld w 31 26) = some f ∧ rawDecode w = f w := by
  unfold rawDecode
  split
  any_goals exact .inl rfl
  all_goals exact .inr ⟨_, by rw [‹fld w 31 26 = _›]; rfl, rfl⟩

theorem scalarMajors_read {w : Nat} (hw : w < 2 ^ 32) : ∀ p ∈ scalarMajors, fld w 31 26 = p.1 → Reads w (p.2 w) := by
  simp only [scalarMajors, List.forall_mem_cons, List.not_mem_nil, false_imp_iff, implies_true, and_true, decodeMajor01, decodeMajor02,
    decodeMajor03, decodeMajor04, decodeMajor05, decodeMajor06, decodeMajor07, decodeMajor08, decodeMajor09, decodeMajor0A, decodeMajor0D,
    decodeMajor0E, decodeMajor0F, decodeMajor10, decodeMajor11, decodeMajor12, decodeMajor13, decodeMajor14, decodeMajor15, decodeMajor16,
    decodeMajor17, decodeMajor18, decodeMajor19, decodeMajor1A, decodeMajor1B, decodeMajor1C, decodeMajor1D, decodeMajor1E, decodeMajor1F]
  refine ⟨?_, ?_, ?_, ?_, ?_, ?_, ?_, ?_, ?_, ?_, ?_, ?_, ?_, ?_, ?_, ?_, ?_, ?_, ?_, ?_, ?_, ?_, ?_, ?_, ?_, ?_, ?_, ?_, ?_⟩
  all_goals
    intro h
    repeat' split
  all_goals
    simp only [reads_zeros, reads_need, reads_error, reads_ok, Width.ofCode?_eq_some, FFmt.ofCode?_eq_some, LoadSize.ofCode?_eq_some,
      BrCond.ofCode?_eq_some, Scope.ofCode?_eq_some, AmoOp.ofCode?_eq_some]
  all_goals
    intros
    refine ⟨rfl, ?_⟩
    delta encodeWord
    refine (pack_eq_iff hw).2 ?_
    simp (disch := decide) only [fld_eq_iff, List.map_cons, List.map_nil, List.sum_cons, List.sum_nil, toNat_ofNat_fld, bitCode_bitOf_fld,
      fld_mul, below_zero, Nat.reduceAdd, Nat.cast_ofNat] at *
    omega

theorem vectorMemoryMajors_read {w : Nat} (hw : w < 2 ^ 32) : ∀ p ∈ vectorMemoryMajors, fld w 31 26 = p.1 → Reads w (p.2 w) := by
  simp only [vectorMemoryMajors, List.forall_mem_cons, List.not_mem_nil, false_imp_iff, implies_true, and_true, decodeMajor2E,
    decodeMajor2F]
  refine ⟨?_, ?_⟩
  all_goals
    intro h
    repeat' split
  all_goals
    simp only [reads_zeros, reads_need, reads_error, reads_ok, Width.ofCode?_eq_some, Scope.ofCode?_eq_some]
  all_goals
    intros
    refine ⟨rfl, ?_⟩
    have hq := fld_bit_of ‹fld w 9 8 = _›
    delta encodeWord
    refine (pack_eq_iff hw).2 ?_
    simp (disch := decide) only [fld_eq_iff, List.map_cons, List.map_nil, List.sum_cons, List.sum_nil, toNat_ofNat_fld, bitCode_bitOf_fld,
      fld_mul, below_zero, Nat.reduceAdd, Nat.cast_ofNat] at *
    omega

theorem unitMajors_read {w : Nat} (hw : w < 2 ^ 32) : ∀ p ∈ unitMajors, fld w 31 26 = p.1 → Reads w (p.2 w) := by
  simp only [unitMajors, List.forall_mem_cons, List.not_mem_nil, false_imp_iff, implies_true, and_true, decodeMajor20, decodeMajor21,
    decodeMajor22, decodeMajor23, decodeMajor24, decodeMajor25, decodeMajor26, decodeMajor27, decodeMajor28, decodeMajor30, decodeMajor31,
    decodeMajor32, decodeMajor33, decodeMajor34, decodeMajor35, decodeMajor36, decodeMajor37, decodeMajor38, decodeMajor39, decodeMajor3B,
    decodeMajor3C, decodeMajor3D, decodeMajor3F]
  refine ⟨?_, ?_, ?_, ?_, ?_, ?_, ?_, ?_, ?_, ?_, ?_, ?_, ?_, ?_, ?_, ?_, ?_, ?_, ?_, ?_, ?_, ?_, ?_⟩
  all_goals
    intro h
    repeat' split
  all_goals
    simp only [reads_zeros, reads_need, reads_error, reads_ok, Width.ofCode?_eq_some, VCond.ofCode?_eq_some, ROp.ofCode?_eq_some,
      Shape.ofCode?_eq_some, Sparsity.ofCode?_eq_some, PageUnit.ofCode?_eq_some]
  all_goals
    intros
    refine ⟨rfl, ?_⟩
    delta encodeWord
    refine (pack_eq_iff hw).2 ?_
    simp (disch := decide) only [fld_eq_iff, List.map_cons, List.map_nil, List.sum_cons, List.sum_nil, toNat_ofNat_fld, bitCode_bitOf_fld,
      fld_mul, below_zero, Nat.reduceAdd, Nat.cast_ofNat] at *
    omega

theorem majors_read {w : Nat} (hw : w < 2 ^ 32) : ∀ p ∈ majors, fld w 31 26 = p.1 → Reads w (p.2 w) := by
  simp only [majors, List.forall_mem_append]
  exact ⟨⟨scalarMajors_read hw, vectorMemoryMajors_read hw⟩, unitMajors_read hw⟩

/-- A word that the opcode map reads is the word of what it reads. -/
theorem rawDecode_reads {w : Nat} (hw : w < 2 ^ 32) : Reads w (rawDecode w) := by
  rcases rawDecode_major w with h | ⟨f, hf, h⟩
  · rw [h]; exact reads_error.2 trivial
  · rw [h]
    obtain ⟨l₁, l₂, hl, -⟩ := List.lookup_eq_some_iff.1 hf
    exact majors_read hw (fld w 31 26, f) (by rw [hl]; simp) rfl

theorem isWord_decodes {i : Instr} (h : i.isWord = true) : Decodes i := by
  simp only [Machine.isWord_kind, Machine.accessOnly, Machine.executeOnly, Bool.or_eq_true] at h
  rcases h with (((h | h) | h) | ((h | h) | h) | h) | ((h | h) | h) | h
  exacts [integer_decodes (by simp [h]), flow_decodes h, control_decodes (by simp [h]), memory_decodes h, engine_decodes (by simp [h]),
    control_decodes (by simp [h]), control_decodes (by simp [h]), integer_decodes (by simp [h]), vectorFloat_decodes h,
    engine_decodes (by simp [h]), engine_decodes (by simp [h])]

theorem decodeWord_eq_ok {w : Nat} {i : Instr} : decodeWord w = .ok i ↔ rawDecode w = .ok i ∧ i.wf = true := by
  unfold decodeWord
  cases rawDecode w with
  | error e => simp
  | ok j => by_cases hj : j.wf = true <;> simp [hj] <;> rintro rfl <;> simp [hj]

/-- Settles O57: a word is the sum of its fields, which the decoder reads back one by one; and what the decoder of a major opcode
accepts leaves no bit of the word out of the fields. -/
theorem decodeAndEncodeAgree : Obligations.DecodeAndEncodeAgree := by
  unfold Obligations.DecodeAndEncodeAgree
  refine ⟨fun i hi hw => ?_, fun w i hw h => ?_⟩
  · obtain ⟨hlt, hd⟩ := isWord_decodes hi
    exact ⟨hlt, decodeWord_eq_ok.2 ⟨hd, hw⟩⟩
  · obtain ⟨hd, hwf⟩ := decodeWord_eq_ok.1 h
    obtain ⟨hi, he⟩ := rawDecode_reads hw i hd
    exact ⟨hi, hwf, he⟩

end Sys2Proof
end
section
/-! ## Proofs: words of the spec, and the words that trap -/

namespace Sys2Proof.Machine

/-- Settles O56: every word of the statement is written out, so both sides are computed. -/
theorem wordsDecode : Obligations.WordsDecode := by
  unfold Obligations.WordsDecode
  decide

/-- Settles O17: an unassigned word traps before issue, TRAP once the front is ready. -/
theorem trapWordsTrap : Obligations.TrapWordsTrap := by
  unfold Obligations.TrapWordsTrap
  refine ⟨fun w s h => ?_, fun n s h => ?_⟩
  · show execUnassignedEncoding w s = _
    rw [execUnassignedEncoding, if_pos h]
  · show execTrap n s = _
    rw [execTrap, issue_ready h]

end Sys2Proof.Machine
end
section
/-! ## Proofs: hint words -/

namespace Sys2Proof.Machine

/-- The first address of a hint group that a word at pc joins (R57). -/
def Hints.groupFirst (h : Hints) (pc : Pc) : Pc := if h.any then h.first else pc

/-- The tile once a hint word has issued on a front, whose hints become h. -/
def Tile.hinted (T : Tile) (f : Front) (h : Hints) (again : Bool) : Tile :=
  ((T.setFront f { T.front f with pc := (T.front f).pc + 4, hints := h }).warnIf warnHint again).wake

section
variable {T : Tile} {f : Front} {h : Hints} {again : Bool}

theorem Tile.hinted_kept : T.hinted f h again =
    { T with fa := (T.hinted f h again).fa, fx := (T.hinted f h again).fx, warn := T.warn ||| warnOf warnHint again } := by
  cases f <;> cases again <;> simp [hinted, Tile.setFront, warnIf, warnBit, warnOf, wake]

theorem Tile.hinted_front : (T.hinted f h again).front f = { T.front f with pc := (T.front f).pc + 4, wait := .none, hints := h } := by
  cases f <;> cases again <;> rfl

theorem Tile.hinted_other : (T.hinted f h again).front f.other = { T.front f.other with wait := .none } := by
  cases f <;> cases again <;> rfl

theorem Tile.hinted_phase : (T.hinted f h again).phase = T.phase := by rw [hinted_kept]

end

/-- The counters aside, only the tile in focus has changed. -/
theorem OnlyCounters.quiet_setTile {s t : State} {T : Tile} (h : OnlyCounters (s.setTile s.focus.1 T) t) : Quiet s t {} where
  rest := by
    have htiles : t.tiles = (s.setTile s.focus.1 T).tiles := by rw [h.rest]
    rw [List.append_nil, htiles]
    exact h.rest
  tiles u hu := (h.tile u).trans (State.tile_setTile_other s T hu)
  vfs := h.vfs
  agenda := by rw [List.append_nil]; exact h.agenda

section
variable {s : State} {i : Instr} {again : Hints → Bool} {put : Hints → Hints}

/-- Where a hint word may issue, it answers its own tile, counted; its kind is put into the group with the group's first address. -/
theorem issueHint_ready (h : Ready s { instr := i }) :
    issueHint s i again put = .next (s.counted (s.setTile s.focus.1 (s.cur.hinted s.focus.2
      (put { s.hints with first := s.hints.groupFirst s.pc }) (again { s.hints with first := s.hints.groupFirst s.pc })))) := by
  have hgroup : (if s.hints.any then s.hints else { s.hints with first := s.pc }) = { s.hints with first := s.hints.groupFirst s.pc } := by
    unfold Hints.groupFirst
    split <;> rfl
  rw [← hgroup]
  have hruns : (s.tile s.focus.1).runs s.focus.2 = true := h.runs
  have hgate : ({ instr := i } : Form).gate (s.tile s.focus.1) s.focus.1 s.focus.2 = none := h.gate
  simp only [issueHint, hruns, hgate, Bool.not_true, Bool.false_eq_true, if_false]
  rfl

/-- A hint word that sets one kind, and looks at that kind alone, takes its hint. -/
theorem issueHint_taken (h : Ready s { instr := i }) (hagain : ∀ p, again { s.hints with first := p } = again s.hints)
    (hput : ∀ p, put { s.hints with first := p } = { put s.hints with first := p }) :
    ∃ t, issueHint s i again put = .next t ∧ HintTaken s t (put s.hints) (again s.hints) := by
  refine ⟨_, issueHint_ready h, ?_⟩
  rw [hagain, hput]
  set T := s.cur.hinted s.focus.2 { put s.hints with first := s.hints.groupFirst s.pc } (again s.hints) with hT
  have hcount := counted_only s (s.setTile s.focus.1 T)
  have hreset : T ≠ Tile.reset := Tile.ne_reset_of_phase (by rw [hT, Tile.hinted_phase, h.phase]; decide)
  have hcur : (s.counted (s.setTile s.focus.1 T)).cur = T := hcount.cur.trans (State.tile_setTile s s.focus.1 hreset)
  exact {
    quiet := hcount.quiet_setTile
    kept := by rw [hcur]; exact Tile.hinted_kept
    front := by rw [hcur]; exact Tile.hinted_front
    other := by rw [hcur]; exact Tile.hinted_other }

end

/-- Settles O11: each hint word sets its own kind, and neither reads nor moves the group's first address. -/
theorem hintWordsComplete : Obligations.HintWordsComplete := by
  unfold Obligations.HintWordsComplete
  refine fun s => ⟨fun p h => ?_, fun p h => ?_, fun p h => ?_⟩
  · show ∃ t, execHimm p s = .next t ∧ _
    exact issueHint_taken h (fun _ => rfl) fun _ => rfl
  · show ∃ t, execHmod p s = .next t ∧ _
    exact issueHint_taken h (fun _ => rfl) fun _ => rfl
  · show ∃ t, execHpri p s = .next t ∧ _
    exact issueHint_taken h (fun _ => rfl) fun _ => rfl

end Sys2Proof.Machine
end
section
/-! ## Proofs: every instruction answers a next state

An entry of `exec` is a tree of branches; `repeat' first` walks it, closing a branch that names its next state and splitting any other. -/

namespace Sys2Proof.Machine

/-- An outcome is a next state. -/
def Answers (o : Out) : Prop := ∃ t, o = .next t

theorem answers_next (t : State) : Answers (.next t) := ⟨t, rfl⟩

section
variable (s : State)

theorem issue_answers (fm : Form) (body : State → Issue → Verdict) : Answers (issue s fm body) := by
  unfold issue
  dsimp only
  repeat' first | with_reducible exact answers_next _ | split

theorem issueHint_answers (i : Instr) (again : Hints → Bool) (put : Hints → Hints) : Answers (issueHint s i again put) := by
  unfold issueHint
  dsimp only
  repeat' first | with_reducible exact answers_next _ | split

/-- Unfolded to where it issues, a word answers what `issue` answers, whatever its meaning. -/
theorem word_answers {i : Instr} (h : i.isWord = true) : Answers (exec i s) := by
  cases i <;> cases h
  case himm | hmod | hpri => delta exec; simp only [execHimm, execHmod, execHpri]; exact issueHint_answers s _ _ _
  all_goals
    delta exec
    simp only [execAdd, execSub, execAndd, execOrr, execXorr, execAndn, execSll, execSrl, execSra, execSlt, execSltu, execMinn, execMaxx,
      execMinu, execMaxu, execMul, execMulh, execMulhu, execDiv, execDivu, execRem, execRemu, execClz, execFfs, execPopc, execBrev,
      execBext, execBins, execSext, execAddi, execAndi, execOri, execXori, execSlti, execSethi, execSlli, execSrli, execSrai, execSel,
      execFadd, execFsub, execFmul, execFmin, execFmax, execFcmpEq, execFcmpNe, execFcmpLt, execFcmpLe, execFcmpUn, execFfma, execFcvt,
      execBr, execJal, execJalr, execLds, execSts, execEret, execCsrw, execCsrx, execCsrr, execQstat, execQdrain, execRstat, execTrap,
      execNop, execEndStrand, execLd, execSt, execAmo, execCas, execRed, execFence, execPromote, execHash, execClaim, execCfulfil,
      execCabandon, execCpin, execCunpin, execVlds, execVldt, execVld, execVsts, execVst, execSignal, execWaitch, execBlock, execUnblock,
      execRset, execRpush, execCopy, execCopyc, execMcast, execSopen, execSclose, execScfg, execBinit, execBexpect, execBarrive,
      execBwait, execBtest, execInstantiate, execDecr, execGcancelJob, execGcancelPhase, execGcancelGraph, execGcancelTask, execFwpush,
      execFwpop, execCarrive, execCwait, execLdx, execStx, execFcfg, execFrun, execFstat, execFreeze, execScrub, execInvpg, execWaysetCw,
      execWaysetShare, execLehrArm, execLehrStat, execLehrDisarm, execJcfg, execPerfsel, execVadd, execVsub, execVmul, execVmulh,
      execVmin, execVmax, execVabs, execVneg, execVand, execVor, execVxor, execVsll, execVsrl, execVsra, execVclz, execVffs, execVpopc,
      execVaddF, execVsubF, execVmulF, execVminF, execVmaxF, execVabsF, execVnegF, execVfma, execVfms, execVcmp, execVsel, execVbcast,
      execVextr, execViota, execVperm, execVscl, execVcvt, execVred, execVscan, execVexp2, execVlog2, execVrcp, execVrsq, execVtanh,
      execKand, execKor, execKnot, execKpopc, execMma, execMmaArm, execMdis, execMzero, execMflush, execMload, execMsca, execCset,
      execCgo, execCstat, execTswap, issueTile, issueS, alu2, alu1, aluImm, shiftImm, fRounding, fExact, claimOp, blockOn, startCopy,
      onBarrier, gcancel, capable, capableImage, vec2, vec1, vecF, vecRop, vecSpecial, issueMma]
    exact issue_answers s _ _

theorem runWrite_answers (i : Instr) : Answers (runWrite i s) := by
  unfold runWrite
  split
  all_goals
    dsimp only [execLqdWrite, execLqsWiWrite, execOvrRegister, execOvrResume, execFrrRegister, execFrrRiWrite, execPagesResident,
      execRequeue, execCancelRecord, execFrameRelease, execActivate, execDeactivate, execReloadRing, execClosePhase, execReopenPhase,
      execEndJob, execPartitionWrite, execLatencyMonitorWrite, execProxyPairRegister, execLifecycleChange, execModuleReset, execDie1Reset,
      execRegisterWrite]
    repeat' first | with_reducible exact answers_next _ | split

theorem windowAccess_answers (d off : Nat) (r : HostReq) : Answers (windowAccess s d off r) := by
  unfold windowAccess
  dsimp only
  repeat' first | with_reducible exact answers_next _ | exact runWrite_answers _ _ | split

theorem execHostAccess_answers (r : HostReq) : Answers (execHostAccess r s) := by
  unfold execHostAccess
  repeat' first | with_reducible exact answers_next _ | exact windowAccess_answers _ _ _ _ | split

theorem execGlobalRequest_answers (id : Nat) : Answers (execGlobalRequest id s) := by
  dsimp only [execGlobalRequest]
  repeat' first | with_reducible exact answers_next _ | split

/-- Along each of its branches an event of the part answers a next state. -/
theorem event_answers {i : Instr} (h : i.isWord = false) : Answers (exec i s) := by
  have hwrite := runWrite_answers s i
  cases i <;> cases h
  case hostAccess r => exact execHostAccess_answers s r
  case globalRequest id => exact execGlobalRequest_answers s id
  case lqdWrite | lqsWiWrite | ovrRegister | ovrResume | frrRegister | frrRiWrite | pagesResident | requeue | cancelRecord | frameRelease
    | activate | deactivate | reloadRing | closePhase | reopenPhase | endJob | partitionWrite | latencyMonitorWrite | proxyPairRegister |
    lifecycleChange | moduleReset | die1Reset | registerWrite => exact hwrite
  all_goals
    delta exec
    dsimp only [execUnassignedEncoding, execDecouplingDeadlock, execStrandRetire, execLocalLoadFill, execFire, execTokenEmit,
      execFireRetire, execTswapExchange, execPacketIntake, execSpillRefill, execDecrementApply, execPlacementPass, execOperandToken,
      execStrandStart, execTaskDone, execGraphWatchdog, execEventEntry, execEventRetire, execPayloadArrival, execBlockArrival,
      execGlobalResponse, execRetryReissue, execPromoteRequest, execGatherSendHome, execClaimResultDelivery, execLeaseExpiry,
      execOperationCompletion, execFibreFire, execFibreFault, execUncorrectableError, execCrcRetransmit, execSliceEnd, execRestore,
      execLatencyWindowClose, execCounterWrap, execRecordDecrement, execPhaseJoin, execPhaseLeave, execGateOpen, execGateRefuse,
      execReservedKindMessage, execSpanPacketForward, execPredecrementRetry, execProxyForward, execProxyTimeout, execJackSwitch,
      execJackAdderFire, execUalinkRequest, execFlitForward, execDie1Rejoin, execPowerGood, execTempWarning, execThermalTrip,
      execAccumulatorCommand, execPeerAccessArrival, execClusterArrival, execHostFreezeCommand, execLehrEpochOpen, execLehrEpochClose]
    repeat' first | with_reducible exact answers_next _ | split

theorem exec_answers (i : Instr) : Answers (exec i s) := by
  cases h : i.isWord with
  | true => exact word_answers s h
  | false => exact event_answers s h

end

/-- Settles O58: a word issues, waits or traps; an event acts or finds nothing to do; and time passes. -/
theorem everyInstructionAnswers : Obligations.EveryInstructionAnswers := by
  unfold Obligations.EveryInstructionAnswers
  refine ⟨fun i s => exec_answers s i, fun s => ?_⟩
  unfold step
  split
  · exact exec_answers _ _
  · exact answers_next _

end Sys2Proof.Machine
end
section
/-! ## Proofs: numbers modulo 2^n as bit vectors -/

namespace Sys2Proof.Machine

/-! ### Signed readings, remainders and extensions (R15, R16, R80) -/

section
variable (n : Nat)

theorem signedOf_eq_toInt (v : Nat) : signedOf n v = (BitVec.ofNat n v).toInt := by
  rw [signedOf, BitVec.toInt_eq_toNat_cond, BitVec.toNat_ofNat]
  cases n with
  | zero => simp [Nat.mod_one]
  | succ n =>
    have hp : 2 ^ (n + 1) = 2 * 2 ^ n := Nat.pow_succ'
    rw [Nat.add_sub_cancel]
    push_cast
    congr 1
    simp only [eq_iff_iff]
    omega

theorem signedOf_toNat (x : BitVec n) : signedOf n x.toNat = x.toInt := by rw [signedOf_eq_toInt, BitVec.ofNat_toNat, BitVec.setWidth_eq]

theorem wrapInt_eq_toNat (z : Int) : wrapInt n z = (BitVec.ofInt n z).toNat := by rw [wrapInt, BitVec.toNat_ofInt]; rfl

theorem sext_eq_toNat (w v : Nat) : sext n w v = ((BitVec.ofNat n v).signExtend w).toNat := by
  rw [sext, wrapInt_eq_toNat, signedOf_eq_toInt, BitVec.signExtend]

theorem extS_toNat (x : BitVec n) : extS n x.toNat = x.signExtend 64 := by
  rw [extS, sext_eq_toNat, BitVec.ofNat_toNat, BitVec.setWidth_eq, BitVec.ofNat_toNat, BitVec.setWidth_eq]

theorem extZ_toNat (x : BitVec n) : extZ x.toNat = x.setWidth 64 := BitVec.ofNat_toNat 64 x

end

/-! ### The operations of R81 and R82 -/

section
variable {n : Nat} (x y : BitVec n)

theorem aluSub_toNat : aluSub n x.toNat y.toNat = (x - y).toNat := by
  rw [aluSub, Nat.mod_eq_of_lt y.isLt, BitVec.toNat_sub, Nat.add_comm]

theorem aluAndn_toNat : aluAndn n x.toNat y.toNat = (x &&& ~~~y).toNat := by
  rw [aluAndn, Nat.mod_eq_of_lt y.isLt, BitVec.toNat_and, BitVec.toNat_not]

theorem aluSll_toNat : aluSll n x.toNat y.toNat = (x <<< (y.toNat % n)).toNat := by
  rw [aluSll, BitVec.toNat_shiftLeft, Nat.shiftLeft_eq]

theorem aluSrl_toNat : aluSrl n x.toNat y.toNat = (x >>> (y.toNat % n)).toNat := by
  rw [aluSrl, Nat.mod_eq_of_lt x.isLt, BitVec.toNat_ushiftRight, Nat.shiftRight_eq_div_pow]

theorem aluSra_toNat : aluSra n x.toNat y.toNat = (x.sshiftRight (y.toNat % n)).toNat := by
  rw [aluSra, wrapInt_eq_toNat, signedOf_toNat, BitVec.sshiftRight, Int.shiftRight_eq_div_pow]; rfl

theorem aluSlt_toNat : extZ (aluSlt n x.toNat y.toNat) = if x.slt y then 1 else 0 := by
  rw [aluSlt, signedOf_toNat, signedOf_toNat, BitVec.slt]
  by_cases h : x.toInt < y.toInt <;> simp [h, extZ]

theorem aluSltu_toNat : extZ (aluSltu n x.toNat y.toNat) = if x.ult y then 1 else 0 := by
  rw [aluSltu, BitVec.ult]
  by_cases h : x.toNat < y.toNat <;> simp [h, extZ]

theorem aluMin_toNat : aluMin n x.toNat y.toNat = (if x.sle y then x else y).toNat := by
  rw [aluMin, signedOf_toNat, signedOf_toNat, BitVec.sle, apply_ite BitVec.toNat]
  simp only [decide_eq_true_eq]

theorem aluMax_toNat : aluMax n x.toNat y.toNat = (if x.sle y then y else x).toNat := by
  rw [aluMax, signedOf_toNat, signedOf_toNat, BitVec.sle, apply_ite BitVec.toNat]
  simp only [decide_eq_true_eq]

theorem min_toNat : min x.toNat y.toNat = (if x.ule y then x else y).toNat := by
  rw [BitVec.ule, apply_ite BitVec.toNat, Nat.min_def]
  simp only [decide_eq_true_eq]

theorem max_toNat : max x.toNat y.toNat = (if x.ule y then y else x).toNat := by
  rw [BitVec.ule, apply_ite BitVec.toNat, Nat.max_def]
  simp only [decide_eq_true_eq]

/-- The upper half of a number of twice the bits. -/
theorem setWidth_shift_ofInt (z : Int) : ((BitVec.ofInt (2 * n) z >>> n).setWidth n) = BitVec.ofInt n (z / 2 ^ n) := by
  have hsplit : z % 2 ^ (2 * n) = z + 2 ^ n * -(2 ^ n * (z / 2 ^ (2 * n))) := by
    rw [Int.emod_def, Nat.two_mul, pow_add]; ring
  apply BitVec.eq_of_toNat_eq
  rw [BitVec.toNat_setWidth, BitVec.toNat_ushiftRight, BitVec.toNat_ofInt, BitVec.toNat_ofInt, Nat.shiftRight_eq_div_pow]
  zify
  rw [Int.toNat_of_nonneg (Int.emod_nonneg z (by positivity)), Int.toNat_of_nonneg (Int.emod_nonneg _ (by positivity)), hsplit,
    Int.add_mul_ediv_left _ _ (by positivity), ← mul_neg, Int.add_mul_emod_self_left]

theorem aluMulh_toNat : aluMulh n x.toNat y.toNat =
    (((x.signExtend (2 * n) * y.signExtend (2 * n)) >>> n).setWidth n).toNat := by
  rw [aluMulh, wrapInt_eq_toNat, signedOf_toNat, signedOf_toNat, BitVec.signExtend, BitVec.signExtend, ← BitVec.ofInt_mul,
    setWidth_shift_ofInt]

theorem aluMulhu_toNat : aluMulhu n x.toNat y.toNat = (((x.setWidth (2 * n) * y.setWidth (2 * n)) >>> n).setWidth n).toNat := by
  have hn : 2 ^ n ≤ 2 ^ (2 * n) := Nat.pow_le_pow_right (by omega) (by omega)
  have hp : x.toNat * y.toNat < 2 ^ (2 * n) := by
    rw [Nat.two_mul, Nat.pow_add]; exact Nat.mul_lt_mul'' x.isLt y.isLt
  rw [aluMulhu, BitVec.toNat_setWidth, BitVec.toNat_ushiftRight, BitVec.toNat_mul, BitVec.toNat_setWidth, BitVec.toNat_setWidth,
    Nat.mod_eq_of_lt (x.isLt.trans_le hn), Nat.mod_eq_of_lt (y.isLt.trans_le hn), Nat.mod_eq_of_lt hp, Nat.shiftRight_eq_div_pow]

theorem toNat_eq_zero_iff : x.toNat = 0 ↔ x = 0 := by rw [← BitVec.toNat_inj]; rfl

theorem ofInt_tdiv : BitVec.ofInt n (x.toInt.tdiv y.toInt) = x.sdiv y :=
  BitVec.eq_of_toInt_eq (by rw [BitVec.toInt_ofInt, BitVec.toInt_sdiv])

theorem aluDiv_toNat : aluDiv n x.toNat y.toNat = (if y = 0 then BitVec.allOnes n else x.sdiv y).toNat := by
  rw [aluDiv, apply_ite BitVec.toNat, BitVec.toNat_allOnes, wrapInt_eq_toNat, signedOf_toNat, signedOf_toNat, ofInt_tdiv]
  simp only [toNat_eq_zero_iff]

theorem aluDivu_toNat : aluDivu n x.toNat y.toNat = (if y = 0 then BitVec.allOnes n else x / y).toNat := by
  rw [aluDivu, apply_ite BitVec.toNat, BitVec.toNat_allOnes, BitVec.toNat_udiv]
  simp only [toNat_eq_zero_iff]

theorem aluRem_toNat : aluRem n x.toNat y.toNat = (if y = 0 then x else x.srem y).toNat := by
  rw [aluRem, apply_ite BitVec.toNat, wrapInt_eq_toNat, signedOf_toNat, signedOf_toNat, ← BitVec.toInt_srem, BitVec.ofInt_toInt]
  simp only [toNat_eq_zero_iff]

theorem aluRemu_toNat : aluRemu n x.toNat y.toNat = (if y = 0 then x else x % y).toNat := by
  rw [aluRemu, apply_ite BitVec.toNat, BitVec.toNat_umod]
  simp only [toNat_eq_zero_iff]

end
end Sys2Proof.Machine
end
section
/-! ## Proofs: the rules of an issuing word

What a word finds at its gate and among its operands, what its start and its result leave alone, and how its effect is shown to be the
whole of what it does. -/

namespace Sys2Proof.Machine

/-! ### At the gate (R25, R64) -/

/-- The causes that a word's fields do not raise. -/
theorem gate_eq_none_iff {fm : Form} {T : Tile} {t : Nat} {f : Front} : fm.gate T t f = none ↔
    (!fm.unit || (isJack t && decide (0x13 < encodeWord fm.instr / 2 ^ 26))) = false ∧ fm.frontOk f = true ∧ (fm.svc && !T.slv) = false ∧
      fm.dirOk f = true := by
  simp only [Form.gate, ite_eq_iff, reduceCtorEq, and_false, and_true, false_or, Bool.not_eq_true', Bool.not_eq_true, Bool.not_eq_false]

theorem Ready.dst_ok {s : State} {fm : Form} (h : Ready s fm) {d : Reg} (hd : d ∈ fm.ws) : dstSOk s.focus.2 d = true := by
  obtain ⟨-, -, -, hdir⟩ := gate_eq_none_iff.1 h.gate
  simp only [Form.dirOk, Bool.and_eq_true, List.all_eq_true] at hdir
  obtain ⟨⟨⟨⟨-, -⟩, hws⟩, -⟩, -⟩ := hdir
  exact hws d hd

/-- A word that raises no cause of its other fields traps on the direction of the port it names. -/
theorem gate_wrong_dir {fm : Form} {T : Tile} {t : Nat} {f : Front} (h : fm.gate T t f = none) :
    ({ fm with dir := false } : Form).gate T t f = some 0x04 := by
  obtain ⟨hunit, hfront, hsvc, -⟩ := gate_eq_none_iff.1 h
  have hfront' : ({ fm with dir := false } : Form).frontOk f = true := hfront
  unfold Form.gate
  dsimp only
  rw [hunit, hfront', hsvc]
  rfl

/-! ### What a word has at hand -/

theorem operands_s (s : State) (fm : Form) (k : Nat) : (s.operands fm).s k = s.src fm.rs k := start_s fm s.cur s.focus.2 k
@[simp] theorem operands_himm (s : State) (fm : Form) : (s.operands fm).himm = s.hints.himm := rfl
@[simp] theorem begun_focus (s : State) (fm : Form) : (s.begun fm).focus = s.focus := rfl

/-! ### The tile once a word's sources are read -/

section
variable {fm : Form} (T : Tile) (f : Front)

theorem start_sport (hrs : fm.rs = []) (q : Nat) : (fm.start T f).2.sport q = T.sport q := by
  by_cases hq : q < 8
  · rw [(start_done fm T f).ports q hq, hrs]
    exact (List.append_nil _).trans (List.append_nil _)
  · rw [Tile.sport, Tile.sport, dif_neg hq, dif_neg hq]

theorem start_vport (hrv : fm.rv = []) (q : Nat) : (fm.start T f).2.vport q = T.vport q := by
  by_cases hq : q < 4
  · rw [(start_done fm T f).vports q hq, hrv]
    exact (List.append_nil _).trans (List.append_nil _)
  · rw [Tile.vport, Tile.vport, dif_neg hq, dif_neg hq]

theorem start_ended (g : Front) : ((fm.start T f).2.front g).ended = (T.front g).ended := by
  have hg : g = f ∨ g = f.other := by cases f <;> cases g <;> decide
  rcases hg with rfl | rfl
  · rw [(start_done fm T g).front]; rfl
  · rw [(start_done fm T f).other]

theorem start_reg (r : Nat) : ((fm.start T f).2.front f).reg r = (T.front f).reg r := by
  by_cases hr : 0 < r ∧ r < 24
  · exact (start_done fm T f).regs r hr.1 hr.2
  · unfold FrontState.reg
    split
    · rw [if_pos (by omega), if_pos (by omega)]
    · rfl

/-- A word that reads no vector changes no vector register and no vector port at its start. -/
theorem start_kept (hrv : fm.rv = []) : (fm.start T f).2 = { T with
    fa := (fm.start T f).2.fa, fx := (fm.start T f).2.fx, sq := (fm.start T f).2.sq, warn := (fm.start T f).2.warn } := by
  obtain ⟨l, hl⟩ := T.takeAllS_kept' f fm.rs
  unfold Form.start
  rw [hrv]
  dsimp only [Tile.takeAllV]
  rw [hl]
  cases f <;> cases fm.hintIgnored (T.front _).hints <;> rfl

end

/-- Reading its sources leaves the tile but for its fronts, ports, vector registers and sticky bits. -/
theorem begun_tile_kept {s : State} {fm : Form} (h : Ready s fm) : (s.begun fm).tile s.focus.1 = { s.cur with
    fa := ((s.begun fm).tile s.focus.1).fa, fx := ((s.begun fm).tile s.focus.1).fx, sq := ((s.begun fm).tile s.focus.1).sq,
    vq := ((s.begun fm).tile s.focus.1).vq, vregs := ((s.begun fm).tile s.focus.1).vregs, warn := ((s.begun fm).tile s.focus.1).warn } := by
  have hb : (s.begun fm).tile s.focus.1 = _ := begun_cur h
  rw [hb]
  exact (start_done fm s.cur s.focus.2).kept

/-! ### A scalar result on its tile (R17, R28) -/

section
variable (T : Tile) (f : Front) (d : Reg) (v : Word)

theorem putS_sport_other {q : Nat} (h : q + 24 ≠ d.toNat) : (T.putS f d v).sport q = T.sport q := by
  unfold Tile.putS
  split
  · exact T.sport_modFront f _ q
  · exact T.sport_setSport_other _ (by omega)

theorem putS_vport (q : Nat) : (T.putS f d v).vport q = T.vport q := by
  unfold Tile.putS
  split
  · exact T.vport_modFront f _ q
  · rfl

theorem putS_reg (h0 : 0 < d.toNat) (h : d.toNat < 24) : ((T.putS f d v).front f).reg d.toNat = v := by
  rw [Tile.putS, if_pos h, Tile.front_modFront, FrontState.reg_setReg _ _ h0 h]

theorem putS_reg_other {r : Nat} (h : r ≠ d.toNat) : ((T.putS f d v).front f).reg r = (T.front f).reg r := by
  unfold Tile.putS
  split
  · rw [Tile.front_modFront, FrontState.reg_setReg_other _ _ h]
  · rw [Tile.front_setSport]

theorem putS_kept : T.putS f d v = { T with fa := (T.putS f d v).fa, fx := (T.putS f d v).fx, sq := (T.putS f d v).sq } := by
  unfold Tile.putS
  split
  · cases f <;> rfl
  · rfl

end

/-! ### The rounding that a word samples (R44, R45) -/

section
variable {T T' : Tile} {f : Front} {fm : Form} {x : Effect}

/-- The front's generator has been advanced by one draw, to g. -/
theorem TileDone.draw (h : TileDone T T' f fm x) (hf : x.front = id) (h5 : (T.front f).rmode = 5) {g : Word}
    (hg : (T.front f).sgen + goldenRatio = g) :
    TileDone T (T'.modFront f (fun F => { F with sgen := g })) f fm { x with draws := true } := by
  have h' := h.onFront (fun F => { F with sgen := g }) hf (fun _ _ => rfl) (fun _ => rfl)
  refine { h' with front := ?_ }
  rw [h'.front, hg]
  simp [hf, h5]

/-- A word that would draw takes no draw outside SR. -/
theorem TileDone.noDraw (h : TileDone T T' f fm x) (hd : x.draws = false) {draws : Bool} (hn : (draws && (T.front f).rmode == 5) = false) :
    TileDone T T' f fm { x with draws := draws } := by
  obtain ⟨hkept, hother, hfront, hregs, hports, hvregs, hvports, hwarn⟩ := h
  refine ⟨hkept, hother, ?_, hregs, hports, hvregs, hvports, hwarn⟩
  rw [hd] at hfront
  rw [hn]; exact hfront

theorem Tile.sample_fst (T : Tile) (f : Front) (draws : Bool) : (T.sample f draws).1 =
    if draws && (T.front f).rmode == 5 then { mode := 5, seed := mix ((T.front f).sgen + goldenRatio), i := 0 }
    else { mode := (T.front f).rmode.toNat, seed := 0, i := 0 } := by
  rw [Tile.sample]; split <;> rfl

theorem Tile.sample_snd (T : Tile) (f : Front) (draws : Bool) : (T.sample f draws).2 =
    if draws && (T.front f).rmode == 5 then T.modFront f (fun F => { F with sgen := (T.front f).sgen + goldenRatio }) else T := by
  have hset : ∀ g, T.setFront f { T.front f with sgen := g } = T.modFront f (fun F => { F with sgen := g }) := fun g => by
    cases f <;> rfl
  rw [← hset, Tile.sample, FrontState.draw]
  split <;> rfl

/-- A word that samples has drawn where it is in SR. -/
theorem TileDone.sample (h : TileDone T T' f fm x) (hd : x.draws = false) (hf : x.front = id) (draws : Bool) :
    TileDone T (T'.sample f draws).2 f fm { x with draws := draws } := by
  have hr : (T'.front f).rmode = (T.front f).rmode := by rw [h.front, hf]; rfl
  have hg : (T'.front f).sgen = (T.front f).sgen := by rw [h.front, hd, hf]; rfl
  rw [Tile.sample_snd, hr, hg]
  split
  · next hc =>
    obtain ⟨rfl, h5⟩ : draws = true ∧ (T.front f).rmode = 5 := by simpa using hc
    exact h.draw hf h5 rfl
  · next hc => exact h.noDraw hd (by simpa using hc)

end

theorem start_sample (s : State) (fm : Form) (draws : Bool) :
    ((fm.start s.cur s.focus.2).2.sample s.focus.2 draws).1 = sampledIf s draws := by
  have hfront := (start_done fm s.cur s.focus.2).front
  have hr : ((fm.start s.cur s.focus.2).2.front s.focus.2).rmode = s.rmode := by rw [hfront]; rfl
  have hg : ((fm.start s.cur s.focus.2).2.front s.focus.2).sgen = (s.cur.front s.focus.2).sgen := by rw [hfront]; rfl
  rw [Tile.sample_fst, sampledIf, sampled, hr, hg]
  cases draws <;> by_cases h5 : s.rmode = 5 <;> simp [h5]

/-! ### A word that leaves everything but its own tile -/

/-- u is s but for the tile in focus, which is T. -/
structure CurOnly (s u : State) (T : Tile) : Prop where
  rest   : u = { s with tiles := u.tiles }
  others : ∀ v, v ≠ s.focus.1 → u.tile v = s.tile v
  cur    : u.tile s.focus.1 = T

section
variable {s u : State} {fm : Form} {T : Tile} {x : Effect}

theorem Ready.curOnly_begun (h : Ready s fm) : CurOnly s (s.begun fm) (fm.start s.cur s.focus.2).2 :=
  ⟨rfl, fun _ hv => State.tile_setTile_other s _ hv, begun_cur h⟩

theorem CurOnly.setTile (h : CurOnly s u T) {T' : Tile} (hne : T' ≠ Tile.reset) : CurOnly s (u.setTile s.focus.1 T') T' :=
  ⟨congrArg (fun w => w.setTile s.focus.1 T') h.rest, fun v hv => (State.tile_setTile_other u T' hv).trans (h.others v hv),
    State.tile_setTile u s.focus.1 hne⟩

theorem CurOnly.modTile (h : CurOnly s u T) {g : Tile → Tile} (hne : g T ≠ Tile.reset) : CurOnly s (u.modTile s.focus.1 g) (g T) := by
  rw [State.modTile, h.cur]
  exact h.setTile hne

/-- A tile on which a word has issued is not wiped. -/
theorem Ready.done_ne_reset (h : Ready s fm) (hd : TileDone s.cur T s.focus.2 fm x)
    (hb : (x.body s.cur).phase = s.cur.phase := by rfl) : T ≠ Tile.reset :=
  hd.ne_reset (by rw [hb, h.phase]; decide)

/-- A word whose effect is made on its own tile, on the serial numbers, the transactions and the agenda has been executed with it. -/
theorem CurOnly.executed_sending (hc : CurOnly s u T) (h : Ready s fm) {body : State → Issue → Verdict}
    (hu : body (s.begun fm) (s.operands fm) =
      .done { u with nextId := s.nextId + x.ids, txns := s.txns ++ x.txns, agenda := s.agenda ++ x.posts })
    (hd : TileDone s.cur T s.focus.2 fm x) : ∃ t, issue s fm body = .next t ∧ Executed s t fm x := by
  have hcur : u.cur = T := by rw [State.cur, show u.focus = s.focus by rw [hc.rest], hc.cur]
  refine done_executed h hu ?_ hc.others ?_
  · exact congrArg (fun w : State => { w with nextId := s.nextId + x.ids, txns := s.txns ++ x.txns, agenda := s.agenda ++ x.posts }) hc.rest
  · exact hcur ▸ hd

/-- A word whose effect is made on its own tile alone has been executed with it. -/
theorem CurOnly.executed (hc : CurOnly s u T) (h : Ready s fm) {body : State → Issue → Verdict}
    (hu : body (s.begun fm) (s.operands fm) = .done u) (hd : TileDone s.cur T s.focus.2 fm x)
    (hi : x.ids = 0 := by rfl) (ht : x.txns = [] := by rfl) (hp : x.posts = [] := by rfl) :
    ∃ t, issue s fm body = .next t ∧ Executed s t fm x := by
  refine hc.executed_sending h (hu.trans ?_) hd
  rw [hi, ht, hp, List.append_nil, List.append_nil, hc.rest]; rfl

end

/-- What a word makes of its own tile is seen once it is counted, and it is the whole effect. -/
theorem CurOnly.quiet {s u t : State} {T : Tile} (hc : CurOnly s u T) (ho : OnlyCounters u t) : Quiet s t {} ∧ t.cur = T := by
  have hu := hc.rest
  have htiles : t.tiles = u.tiles := by rw [ho.rest]
  have hvf : ∀ v, u.vf v = s.vf v := fun v => by rw [hu]; rfl
  have hagenda : u.agenda = s.agenda := by rw [hu]
  refine ⟨⟨?_, fun v hv => (ho.tile v).trans (hc.others v hv), fun v => hvf v ▸ ho.vfs v, ?_⟩, ?_⟩
  · rw [htiles, List.append_nil]
    exact ho.rest.trans (congrArg (fun w : State => { w with vfs := t.vfs, agenda := t.agenda }) hu)
  · rw [← hagenda, List.append_nil]; exact ho.agenda
  · rw [ho.cur, State.cur, show u.focus = s.focus by rw [hu], hc.cur]

/-- A word whose meaning raises a cause takes its trap. -/
theorem issue_traps {s : State} {fm : Form} (h : Ready s fm) {body : State → Issue → Verdict} {code : Nat} {v : Word}
    (hu : body (s.begun fm) (s.operands fm) = .trap code v) : issue s fm body = .next (preciseTrap s code v) := by rw [issue_ready h, hu]

/-- A word that is done on its tile, whatever it sends. -/
theorem TileDone.sends {T T' : Tile} {f : Front} {fm : Form} {x : Effect} (h : TileDone T T' f fm x) (n : Nat) (ps : List Instr) :
    TileDone T T' f fm { x with ids := n, posts := ps } :=
  ⟨h.kept, h.other, h.front, h.regs, h.ports, h.vregs, h.vports, h.warn⟩

/-! ### Words that work on their own tile -/

/-- A word that works on its own tile alone completes with the effect made there. -/
theorem issueTile_completes {i : Instr} {fm : Form} {body : Tile → Front → Issue → Tile} {x : State → Effect}
    (hx : ∀ s, exec i s = issueTile s fm body)
    (hd : ∀ s, TileDone s.cur (body (fm.start s.cur s.focus.2).2 s.focus.2 (s.operands fm)) s.focus.2 fm (x s))
    (hb : ∀ s, (x s).body = id := by intro; rfl) (hi : ∀ s, (x s).ids = 0 := by intro; rfl)
    (ht : ∀ s, (x s).txns = [] := by intro; rfl) (hp : ∀ s, (x s).posts = [] := by intro; rfl) : Completes i fm x := by
  intro s h
  obtain ⟨t, ht, he⟩ := issueTile_executed h body (hd s) (by rw [hb, id, h.phase]; decide) (hi s) (ht s) (hp s)
  exact ⟨t, (hx s).trans ht, he⟩

/-- A word that computes one scalar from its operands and the tile they are read in completes with it. -/
theorem issueS_completes {i : Instr} {fm : Form} {d : Reg} {val : Tile → Front → Issue → Word} {v : State → Word}
    (hx : ∀ s, exec i s = issueS s fm d val)
    (hv : ∀ s, val (Form.start { fm with ws := [d] } s.cur s.focus.2).2 s.focus.2 (s.operands { fm with ws := [d] }) = v s) :
    Completes i { fm with ws := [d] } (fun s => { dst := [(d, v s)] }) := by
  intro s h
  obtain ⟨t, ht, he⟩ := issueS_executed fm d val h
  exact ⟨t, (hx s).trans ht, by dsimp only; rw [← hv s]; exact he⟩

end Sys2Proof.Machine
end
section
/-! ## Proofs: the integer words of two sources -/

namespace Sys2Proof.Machine

/-! ### Two sources at a width (R81, R82) -/

/-- A row of R81 or R82: its word is a two-source word with an operation, whose extended result is the row's. -/
def IsAluRow (p : (Reg → Reg → Reg → Width → Instr) × (∀ n, BitVec n → BitVec n → Word)) : Prop :=
  ∃ sgn op, (∀ d a b w s, exec (p.1 d a b w) s = alu2 s (p.1 d a b w) d a b w sgn op) ∧
    ∀ n (x y : BitVec n), (if sgn then extS n (op n x.toNat y.toNat) else extZ (op n x.toNat y.toNat)) = p.2 n x y

/-- A row whose operation gives a number of n bits, extended by sign. -/
theorem isAluRow_signed {mk : Reg → Reg → Reg → Width → Instr} (op : Nat → Nat → Nat → Nat)
    {r : ∀ n, BitVec n → BitVec n → BitVec n}
    (hx : ∀ d a b w s, exec (mk d a b w) s = alu2 s (mk d a b w) d a b w true op)
    (h : ∀ n (x y : BitVec n), op n x.toNat y.toNat = (r n x y).toNat) : IsAluRow (mk, fun n x y => (r n x y).signExtend 64) :=
  ⟨true, op, hx, fun n x y => by rw [if_pos rfl, h, extS_toNat]⟩

/-- A row whose operation gives a number of n bits, extended by zero. -/
theorem isAluRow_unsigned {mk : Reg → Reg → Reg → Width → Instr} (op : Nat → Nat → Nat → Nat)
    {r : ∀ n, BitVec n → BitVec n → BitVec n}
    (hx : ∀ d a b w s, exec (mk d a b w) s = alu2 s (mk d a b w) d a b w false op)
    (h : ∀ n (x y : BitVec n), op n x.toNat y.toNat = (r n x y).toNat) : IsAluRow (mk, fun n x y => (r n x y).setWidth 64) :=
  ⟨false, op, hx, fun n x y => by rw [if_neg Bool.false_ne_true, h, extZ_toNat]⟩

/-- The word of a row completes with the row's result. -/
theorem IsAluRow.completes {p : (Reg → Reg → Reg → Width → Instr) × (∀ n, BitVec n → BitVec n → Word)} (h : IsAluRow p)
    (d a b : Reg) (w : Width) : Completes (p.1 d a b w) { instr := p.1 d a b w, rs := [a, b], ws := [d] }
      (fun s => { dst := [(d, p.2 w.nbits (lowA s [a, b] w) (lowB s [a, b] w))] }) := by
  obtain ⟨sgn, op, hx, hv⟩ := h
  refine issueS_completes (hx d a b w) fun s => ?_
  rw [← hv, operands_s, operands_s, lowA, lowB, BitVec.toNat_setWidth, BitVec.toNat_setWidth]

theorem aluTable_rows : ∀ p ∈ aluTable, IsAluRow p := by
  simp only [aluTable, List.forall_mem_cons, List.not_mem_nil, false_imp_iff, implies_true, and_true]
  exact ⟨isAluRow_signed aluAdd (fun _ _ _ _ _ => rfl) fun _ x y => (BitVec.toNat_add x y).symm,
    isAluRow_signed aluSub (fun _ _ _ _ _ => rfl) fun _ => aluSub_toNat,
    isAluRow_signed (fun _ a b => a &&& b) (fun _ _ _ _ _ => rfl) fun _ x y => (BitVec.toNat_and x y).symm,
    isAluRow_signed (fun _ a b => a ||| b) (fun _ _ _ _ _ => rfl) fun _ x y => (BitVec.toNat_or x y).symm,
    isAluRow_signed (fun _ a b => a ^^^ b) (fun _ _ _ _ _ => rfl) fun _ x y => (BitVec.toNat_xor x y).symm,
    isAluRow_signed aluAndn (fun _ _ _ _ _ => rfl) fun _ => aluAndn_toNat,
    isAluRow_signed aluSll (fun _ _ _ _ _ => rfl) fun _ => aluSll_toNat,
    isAluRow_unsigned aluSrl (fun _ _ _ _ _ => rfl) fun _ => aluSrl_toNat,
    isAluRow_signed aluSra (fun _ _ _ _ _ => rfl) fun _ => aluSra_toNat,
    ⟨false, aluSlt, fun _ _ _ _ _ => rfl, fun _ => aluSlt_toNat⟩,
    ⟨false, aluSltu, fun _ _ _ _ _ => rfl, fun _ => aluSltu_toNat⟩,
    isAluRow_signed aluMin (fun _ _ _ _ _ => rfl) fun _ => aluMin_toNat,
    isAluRow_signed aluMax (fun _ _ _ _ _ => rfl) fun _ => aluMax_toNat,
    isAluRow_unsigned (fun _ a b => min a b) (fun _ _ _ _ _ => rfl) fun _ => min_toNat,
    isAluRow_unsigned (fun _ a b => max a b) (fun _ _ _ _ _ => rfl) fun _ => max_toNat⟩

theorem mulTable_rows : ∀ p ∈ mulTable, IsAluRow p := by
  simp only [mulTable, List.forall_mem_cons, List.not_mem_nil, false_imp_iff, implies_true, and_true]
  exact ⟨isAluRow_signed aluMul (fun _ _ _ _ _ => rfl) fun _ x y => (BitVec.toNat_mul x y).symm,
    isAluRow_signed aluMulh (fun _ _ _ _ _ => rfl) fun _ => aluMulh_toNat,
    isAluRow_unsigned aluMulhu (fun _ _ _ _ _ => rfl) fun _ => aluMulhu_toNat,
    isAluRow_signed aluDiv (fun _ _ _ _ _ => rfl) fun _ => aluDiv_toNat,
    isAluRow_unsigned aluDivu (fun _ _ _ _ _ => rfl) fun _ => aluDivu_toNat,
    isAluRow_signed aluRem (fun _ _ _ _ _ => rfl) fun _ => aluRem_toNat,
    isAluRow_unsigned aluRemu (fun _ _ _ _ _ => rfl) fun _ => aluRemu_toNat⟩

/-- Settles O1: each row of R81 is a two-source word. -/
theorem aluWordsComplete : Obligations.AluWordsComplete := by
  unfold Obligations.AluWordsComplete
  exact fun p hp => (aluTable_rows p hp).completes

/-- Settles O2: each row of R82 is a two-source word. -/
theorem multiplyDivideWordsComplete : Obligations.MultiplyDivideWordsComplete := by
  unfold Obligations.MultiplyDivideWordsComplete
  exact fun p hp => (mulTable_rows p hp).completes

end Sys2Proof.Machine
end
section
/-! ## Proofs: the bit words -/

namespace Sys2Proof.Machine

/-! ### Counting and reversing bits (R83, R50) -/

/-- The bits used of a number below 2^n. -/
theorem bitLen_eq {n a : Nat} (h : a < 2 ^ n) : bitLen n a = if a = 0 then 0 else a.log2 + 1 := by
  induction n with
  | zero => simp [bitLen, Nat.lt_one_iff.1 h]
  | succ n ih =>
    rw [bitLen]
    split
    · next ht =>
      have hle : 2 ^ n ≤ a := Nat.ge_two_pow_of_testBit ht
      have h0 : a ≠ 0 := by have := Nat.two_pow_pos n; omega
      rw [if_neg h0, (Nat.log2_eq_iff h0).2 ⟨hle, h⟩]
    · next ht => exact ih (Nat.lt_of_testBit n (by simpa using ht) (Nat.testBit_two_pow_self ..) fun j hj => by
        rw [Nat.testBit_lt_two_pow (h.trans_le (Nat.pow_le_pow_right two_pos hj)), Nat.testBit_two_pow_of_ne (by omega)])

theorem lowBit_eq_find (a i n : Nat) :
    lowBit a i n = match (List.range' i n).find? (fun j => a.testBit j) with | some j => j + 1 | none => 0 := by
  induction n generalizing i with
  | zero => rfl
  | succ n ih =>
    rw [lowBit, List.range'_succ, List.find?_cons]
    cases h : a.testBit i with
    | true => rfl
    | false => exact ih (i + 1)

theorem popCount_eq_length (n a : Nat) : popCount n a = ((List.range n).filter (fun i => a.testBit i)).length := by
  induction n with
  | zero => rfl
  | succ n ih =>
    rw [popCount, ih, List.range_succ, List.filter_append, List.length_append, Nat.add_comm]
    cases h : a.testBit n <;> simp [h]

theorem revBits_lt (n a : Nat) : revBits n a < 2 ^ n := by
  induction n generalizing a with
  | zero => exact one_pos
  | succ n ih =>
    have := ih (a / 2)
    have : a % 2 * 2 ^ n ≤ 1 * 2 ^ n := Nat.mul_le_mul_right _ (by omega)
    rw [revBits, Nat.pow_succ]; omega

theorem testBit_revBits (n a i : Nat) : (revBits n a).testBit i = (decide (i < n) && a.testBit (n - 1 - i)) := by
  induction n generalizing a with
  | zero => simp [revBits]
  | succ n ih =>
    rw [revBits, Nat.mul_comm, Nat.testBit_two_pow_mul_add _ (revBits_lt n _), ih]
    split
    · next h =>
      rw [← Nat.testBit_succ, decide_eq_true h, decide_eq_true (show i < n + 1 by omega), show n + 1 - 1 - i = n - 1 - i + 1 by omega]
    · next h =>
      rcases Nat.eq_or_lt_of_le (Nat.not_lt.1 h) with rfl | hlt
      · simp
      · rw [decide_eq_false (show ¬ i < n + 1 by omega), Bool.false_and]
        exact Nat.testBit_lt_two_pow ((Nat.mod_lt a two_pos).trans_le (Nat.le_self_pow (by omega) 2))

section
variable {n : Nat} (x : BitVec n)

theorem aluClz_eq : extZ (aluClz n x.toNat) = if x = 0 then BitVec.ofNat 64 n else BitVec.ofNat 64 (n - 1 - Nat.log2 x.toNat) := by
  rw [aluClz, bitLen_eq x.isLt]
  simp only [toNat_eq_zero_iff]
  split
  · rfl
  · rw [extZ, Nat.add_comm, Nat.sub_sub]

theorem aluFfs_eq : extZ (aluFfs n x.toNat) =
    match (List.range n).find? (fun i => x.getLsbD i) with | some i => BitVec.ofNat 64 (i + 1) | none => 0 := by
  rw [aluFfs, lowBit_eq_find, ← List.range_eq_range']
  change extZ (match (List.range n).find? (fun i => x.getLsbD i) with | some i => i + 1 | none => 0) = _
  cases (List.range n).find? (fun i => x.getLsbD i) <;> rfl

theorem revBits_toNat : revBits n x.toNat = x.reverse.toNat := by
  apply Nat.eq_of_testBit_eq
  intro i
  rw [testBit_revBits, BitVec.testBit_toNat, BitVec.testBit_toNat, BitVec.getLsbD_reverse, BitVec.getMsbD]

end

/-! ### The field F (R83) -/

theorem fieldPos_eq (c : Word) : fieldPos c = fld c.toNat 5 0 := by
  rw [fieldPos, BitVec.extractLsb'_toNat, Nat.shiftRight_eq_div_pow]; rfl

theorem fieldLength_eq (c : Word) : fieldLength c = fld c.toNat 14 8 := by
  rw [fieldLength, BitVec.extractLsb'_toNat, Nat.shiftRight_eq_div_pow]; rfl

/-- The mask holds the bits of F. -/
theorem getLsbD_fieldMask (n p l j : Nat) : (fieldMask n p l).getLsbD j = (decide (p ≤ j) && decide (j < p + fieldLen n p l)) := by
  have hm : 2 ^ min (p + l) n - 2 ^ min p n = (2 ^ fieldLen n p l - 1) * 2 ^ min p n := by
    rw [Nat.sub_mul, ← Nat.pow_add, one_mul, fieldLen]; congr 2; omega
  rw [fieldMask, BitVec.getLsbD_ofNat, hm, Nat.testBit_mul_two_pow, Nat.testBit_two_pow_sub_one, fieldLen, Bool.eq_iff_iff]
  simp only [Bool.and_eq_true, decide_eq_true_eq]
  omega

/-- The bits p to p + k − 1 of a number replaced by the low bits of another. -/
theorem testBit_replace (v u p k j : Nat) : (v - v / 2 ^ p % 2 ^ k * 2 ^ p + u % 2 ^ k * 2 ^ p).testBit j =
    if p ≤ j ∧ j < p + k then u.testBit (j - p) else v.testBit j := by
  have hsplit : v - v / 2 ^ p % 2 ^ k * 2 ^ p + u % 2 ^ k * 2 ^ p = 2 ^ p * (2 ^ k * (v / 2 ^ p / 2 ^ k) + u % 2 ^ k) + v % 2 ^ p := by
    have h1 := Nat.div_add_mod v (2 ^ p)
    have h2 := Nat.div_add_mod (v / 2 ^ p) (2 ^ k)
    have h3 : v = 2 ^ p * (2 ^ k * (v / 2 ^ p / 2 ^ k)) + v / 2 ^ p % 2 ^ k * 2 ^ p + v % 2 ^ p := by
      rw [Nat.mul_comm _ (2 ^ p), ← Nat.mul_add, h2, h1]
    rw [Nat.mul_add, Nat.mul_comm (u % 2 ^ k)]
    omega
  rw [hsplit, Nat.testBit_two_pow_mul_add _ (Nat.mod_lt _ (Nat.two_pow_pos p)), Nat.testBit_mod_two_pow]
  split
  · next h => rw [if_neg (by omega), decide_eq_true h, Bool.true_and]
  · next h =>
    rw [Nat.testBit_two_pow_mul_add _ (Nat.mod_lt _ (Nat.two_pow_pos k)), Nat.testBit_mod_two_pow, Nat.div_div_eq_div_mul, ← Nat.pow_add,
      Nat.testBit_div_two_pow]
    split
    · next hk => rw [if_pos (by omega), decide_eq_true hk, Bool.true_and]
    · next hk => rw [if_neg (by omega)]; congr 1; omega

section
variable (n : Nat) (a c d : Word)

theorem aluBext_toNat : aluBext n a.toNat c.toNat =
    ((a.setWidth n &&& fieldMask n (fieldPos c) (fieldLength c)) >>> fieldPos c).toNat := by
  apply Nat.eq_of_testBit_eq
  intro j
  rw [aluBext, ← fieldPos_eq, ← fieldLength_eq, Nat.testBit_mod_two_pow, Nat.testBit_div_two_pow, BitVec.testBit_toNat,
    BitVec.getLsbD_ushiftRight, BitVec.getLsbD_and, getLsbD_fieldMask, ← BitVec.toNat_setWidth, BitVec.testBit_toNat,
    Nat.add_comm j, Bool.and_comm]
  congr 1
  simp

theorem aluBins_toNat : aluBins n a.toNat c.toNat d.toNat =
    ((d.setWidth n &&& ~~~fieldMask n (fieldPos c) (fieldLength c)) |||
      ((a.setWidth n <<< fieldPos c) &&& fieldMask n (fieldPos c) (fieldLength c))).toNat := by
  set m := fieldMask n (fieldPos c) (fieldLength c) with hm
  have hbins : aluBins n a.toNat c.toNat d.toNat = (d.setWidth n).toNat -
      (d.setWidth n).toNat / 2 ^ fieldPos c % 2 ^ fieldLen n (fieldPos c) (fieldLength c) * 2 ^ fieldPos c +
      a.toNat % 2 ^ fieldLen n (fieldPos c) (fieldLength c) * 2 ^ fieldPos c := by
    rw [aluBins, fieldPos_eq, fieldLength_eq, BitVec.toNat_setWidth]
    split
    · next h => rw [h]; simp [Nat.mod_one]
    · rfl
  apply Nat.eq_of_testBit_eq
  intro j
  have hmask : m.getLsbD j = decide (fieldPos c ≤ j ∧ j < fieldPos c + fieldLen n (fieldPos c) (fieldLength c)) := by
    rw [hm, getLsbD_fieldMask, Bool.decide_and]
  rw [hbins, testBit_replace]
  simp only [BitVec.testBit_toNat, BitVec.getLsbD_or, BitVec.getLsbD_and, BitVec.getLsbD_not, hmask, BitVec.getLsbD_shiftLeft,
    BitVec.getLsbD_setWidth]
  by_cases h : fieldPos c ≤ j ∧ j < fieldPos c + fieldLen n (fieldPos c) (fieldLength c)
  · have hn : j < n := by unfold fieldLen at h; omega
    simp [h, hn, show ¬ j < fieldPos c by omega, show j - fieldPos c < n by omega]
  · by_cases hn : j < n <;> simp [h, hn]

theorem aluSext_toNat (x : BitVec n) : aluSext n x.toNat c.toNat = ((x.setWidth (fieldPos c % n + 1)).signExtend n).toNat := by
  rw [aluSext, sext_eq_toNat, ← fieldPos_eq, BitVec.ofNat_toNat]

end

/-! ### The words complete -/

/-- A one-source row of R83: its word is a one-source word with an operation, whose result is the row's. -/
def IsBitRow (p : (Reg → Reg → Width → Instr) × (∀ n, BitVec n → Word)) : Prop :=
  ∃ op, (∀ d a w s, exec (p.1 d a w) s = alu1 s (p.1 d a w) d a w op) ∧ ∀ n (x : BitVec n), extZ (op n x.toNat) = p.2 n x

/-- The word of a one-source row completes with the row's result. -/
theorem IsBitRow.completes {p : (Reg → Reg → Width → Instr) × (∀ n, BitVec n → Word)} (h : IsBitRow p) (d a : Reg) (w : Width) :
    Completes (p.1 d a w) { instr := p.1 d a w, rs := [a], ws := [d] } (fun s => { dst := [(d, p.2 w.nbits (lowA s [a] w))] }) := by
  obtain ⟨op, hx, hv⟩ := h
  refine issueS_completes (hx d a w) fun s => ?_
  rw [← hv, operands_s, lowA, BitVec.toNat_setWidth]

theorem bitTable_rows : ∀ p ∈ bitTable, IsBitRow p := by
  simp only [bitTable, List.forall_mem_cons, List.not_mem_nil, false_imp_iff, implies_true, and_true]
  exact ⟨⟨aluClz, fun _ _ _ _ => rfl, fun _ => aluClz_eq⟩, ⟨aluFfs, fun _ _ _ _ => rfl, fun _ => aluFfs_eq⟩,
    ⟨popCount, fun _ _ _ _ => rfl, fun n x => by rw [popCount_eq_length]; rfl⟩,
    ⟨revBits, fun _ _ _ _ => rfl, fun n x => by rw [revBits_toNat, extZ_toNat]⟩⟩

/-- Settles O3: the one-source rows, then each of the three words with a control word. -/
theorem bitWordsComplete : Obligations.BitWordsComplete := by
  unfold Obligations.BitWordsComplete
  refine ⟨fun p hp => (bitTable_rows p hp).completes, fun d a b w => ?bext, fun d a b w => ?bins, fun d a b w => ?sext⟩
  case bext =>
    refine issueS_completes (fm := { instr := .bext d a b w, rs := [a, b] })
      (val := fun _ _ I => extZ (aluBext w.nbits (I.s 0).toNat (I.s 1).toNat)) (fun _ => rfl) fun s => ?_
    rw [operands_s, operands_s, aluBext_toNat, extZ_toNat, lowA]
  case bins =>
    refine issueS_completes (fm := { instr := .bins d a b w, rs := [a, b, d] })
      (val := fun _ _ I => extS w.nbits (aluBins w.nbits (I.s 0).toNat (I.s 1).toNat (I.s 2).toNat)) (fun _ => rfl) fun s => ?_
    rw [operands_s, operands_s, operands_s, aluBins_toNat, extS_toNat, lowA]
  case sext =>
    refine issueS_completes (fm := { instr := .sext d a b w, rs := [a, b] })
      (val := fun _ _ I => extS w.nbits (aluSext w.nbits ((I.s 0).toNat % 2 ^ w.nbits) (I.s 1).toNat)) (fun _ => rfl) fun s => ?_
    rw [operands_s, operands_s, ← BitVec.toNat_setWidth, aluSext_toNat, extS_toNat, lowA]

end Sys2Proof.Machine
end
section
/-! ## Proofs: the immediate, shift and select words -/

namespace Sys2Proof.Machine

/-! ### An immediate with its HIMM payload in front (R55, R58) -/

section
variable {n : Nat} (o : BitVec n) (p : BitVec 22)

@[simp] theorem immS_none : immS none n o.toNat = o.toInt := signedOf_toNat n o

@[simp] theorem immS_some : immS (some p) n o.toNat = (p ++ o).toInt := by
  rw [← signedOf_toNat, toNat_append_eq, Nat.add_comm 22 n]; rfl

@[simp] theorem immU_none : immU none n o.toNat = o.toNat := rfl

@[simp] theorem immU_some : immU (some p) n o.toNat = (p ++ o).toNat := (toNat_append_eq p o).symm

end

section
variable (s : State) (i : BitVec 16)

theorem immSigned_toInt : (immSigned s i).toInt = immS s.hints.himm 16 i.toNat := by
  unfold immSigned
  cases s.hints.himm with
  | none => rw [immS_none]; exact BitVec.toInt_signExtend_of_le (by decide)
  | some p => rw [immS_some]; exact BitVec.toInt_signExtend_of_le (by decide)

theorem immUnsigned_eq : immUnsigned s i = BitVec.ofNat 64 (immU s.hints.himm 16 i.toNat) := by
  unfold immUnsigned
  cases s.hints.himm with
  | none => rw [immU_none]; exact (BitVec.ofNat_toNat 64 i).symm
  | some p => rw [immU_some]; exact (BitVec.ofNat_toNat 64 (p ++ i)).symm

end

/-! ### Immediate words (R84) -/

/-- A number of n bits above one of m bits. -/
theorem ofNat_append {n m k : Nat} (x : BitVec n) (y : BitVec m) (h : n + m = k) :
    BitVec.ofNat k (x.toNat * 2 ^ m + y.toNat) = (x ++ y).cast h := by
  subst h
  rw [← toNat_append_eq, BitVec.ofNat_toNat, BitVec.setWidth_eq, BitVec.cast_eq]

section
variable (s : State) (i : BitVec 16) (x : Word)

theorem ofInt_add_immS : BitVec.ofInt 64 (x.toNat + immS s.hints.himm 16 i.toNat) = x + immSigned s i := by
  rw [← immSigned_toInt, BitVec.ofInt_add, BitVec.ofInt_toInt, BitVec.ofInt_natCast, BitVec.ofNat_toNat, BitVec.setWidth_eq]

theorem signedOf_lt_immS : signedOf 64 x.toNat < immS s.hints.himm 16 i.toNat ↔ x.slt (immSigned s i) = true := by
  rw [← immSigned_toInt, signedOf_toNat, BitVec.slt, decide_eq_true_iff]

/-- SETHI's value for an immediate of some width: the immediate at the top, the bits below it kept. -/
def highPart (h : Option (BitVec 22)) (i : BitVec 16) (x : Word) : Word :=
  BitVec.ofNat 64 ((wideImm h 16 i.toNat).1 * 2 ^ (64 - (wideImm h 16 i.toNat).2) + x.toNat % 2 ^ (64 - (wideImm h 16 i.toNat).2))

theorem highPart_none : highPart none i x = i ++ x.setWidth 48 := by
  simp only [highPart, wideImm]
  rw [← BitVec.toNat_setWidth]
  exact ofNat_append i _ rfl

theorem highPart_some (p : BitVec 22) : highPart (some p) i x = (p ++ i : BitVec 38) ++ x.setWidth 26 := by
  simp only [highPart, wideImm]
  rw [← toNat_append_eq, ← BitVec.toNat_setWidth]
  exact ofNat_append (p ++ i) _ rfl

end

/-- A row of R84: its word computes from one source, the immediate and the bound HIMM, and its result is the row's. -/
def IsImmRow (p : (Reg → Reg → BitVec 16 → Instr) × (State → Word → BitVec 16 → Word)) : Prop :=
  ∃ val : Option (BitVec 22) → BitVec 16 → Word → Word,
    (∀ d a i s, exec (p.1 d a i) s = aluImm s (p.1 d a i) d a (fun x I => val I.himm i x)) ∧ ∀ s i x, val s.hints.himm i x = p.2 s x i

/-- The word of a row completes with the row's result. -/
theorem IsImmRow.completes {p : (Reg → Reg → BitVec 16 → Instr) × (State → Word → BitVec 16 → Word)} (h : IsImmRow p)
    (d a : Reg) (i : BitVec 16) : Completes (p.1 d a i) { instr := p.1 d a i, rs := [a], ws := [d], himm := true }
      (fun s => { dst := [(d, p.2 s (s.src [a] 0) i)] }) := by
  obtain ⟨val, hx, hv⟩ := h
  refine issueS_completes (hx d a i) fun s => ?_
  rw [operands_s]
  exact hv s i _

theorem immTable_rows : ∀ p ∈ immTable, IsImmRow p := by
  simp only [immTable, List.forall_mem_cons, List.not_mem_nil, false_imp_iff, implies_true, and_true]
  exact ⟨⟨fun h i x => BitVec.ofInt 64 (x.toNat + immS h 16 i.toNat), fun _ _ _ _ => rfl, ofInt_add_immS⟩,
    ⟨fun h i x => x &&& BitVec.ofNat 64 (immU h 16 i.toNat), fun _ _ _ _ => rfl, fun s i x => congrArg (x &&& ·) (immUnsigned_eq s i).symm⟩,
    ⟨fun h i x => x ||| BitVec.ofNat 64 (immU h 16 i.toNat), fun _ _ _ _ => rfl, fun s i x => congrArg (x ||| ·) (immUnsigned_eq s i).symm⟩,
    ⟨fun h i x => x ^^^ BitVec.ofNat 64 (immU h 16 i.toNat), fun _ _ _ _ => rfl, fun s i x => congrArg (x ^^^ ·) (immUnsigned_eq s i).symm⟩,
    ⟨fun h i x => if signedOf 64 x.toNat < immS h 16 i.toNat then 1 else 0, fun _ _ _ _ => rfl,
      fun s i x => if_congr (signedOf_lt_immS s i x) rfl rfl⟩,
    ⟨highPart, fun _ _ _ _ => rfl, fun s i x => by
      dsimp only
      cases s.hints.himm with
      | none => exact highPart_none i x
      | some p => exact highPart_some i x p⟩⟩

/-- Settles O4: each row of R84 is an immediate word. -/
theorem immediateWordsComplete : Obligations.ImmediateWordsComplete := by
  unfold Obligations.ImmediateWordsComplete
  exact fun p hp => (immTable_rows p hp).completes

/-! ### Shifts by an immediate, and SEL (R85, R86) -/

/-- The word of each row of R85 shifts its source by its immediate. -/
theorem exec_shiftTable : ∀ p ∈ shiftTable, ∀ d a n s, exec (p.1 d a n) s = shiftImm s (p.1 d a n) d a (fun x => p.2 x n.toNat) := by
  simp only [shiftTable, List.forall_mem_cons, List.not_mem_nil, false_imp_iff, implies_true, and_true]
  exact ⟨fun _ _ _ _ => rfl, fun _ _ _ _ => rfl, fun _ _ _ _ => rfl⟩

/-- Settles O5: the sources are read as operands, whichever of them SEL takes. -/
theorem shiftAndSelectWordsComplete : Obligations.ShiftAndSelectWordsComplete := by
  unfold Obligations.ShiftAndSelectWordsComplete
  refine ⟨fun p hp d a n => ?shift, fun d a b c => ?sel⟩
  case shift =>
    refine issueS_completes (exec_shiftTable p hp d a n) fun s => ?_
    rw [operands_s]
  case sel =>
    refine issueS_completes (fm := { instr := .sel d a b c, rs := [a, b, c] })
      (val := fun _ _ I => if I.s 2 ≠ 0 then I.s 0 else I.s 1) (fun _ => rfl) fun s => ?_
    rw [operands_s, operands_s, operands_s]

end Sys2Proof.Machine
end
section
/-! ## Proofs: the scalar float words -/

namespace Sys2Proof.Machine

/-! ### Words that round, and words that do not (R87) -/

/-- A float word that rounds once completes with the rounded result, and draws. -/
theorem fRounding_completes {i : Instr} {d : Reg} {rs : List Reg} {f : FFmt} {op : FFormat → Rnd → (Nat → Nat) → Nat}
    (hx : ∀ s, exec i s = fRounding s i d rs f op) :
    Completes i { instr := i, rs := rs, ws := [d] }
      (fun s => { dst := [(d, BitVec.ofNat 64 (op (fmtOf f) (sampled s) (codeOf s rs f)))], draws := true }) := by
  refine issueTile_completes hx fun s => ?_
  have hstart := (start_done { instr := i, rs := rs, ws := [d] } s.cur s.focus.2).sample rfl rfl true
  have hcode : (fun k => ((s.operands { instr := i, rs := rs, ws := [d] }).s k).toNat % 2 ^ (fmtOf f).width) = codeOf s rs f :=
    funext fun k => by rw [operands_s]; rfl
  dsimp only
  rw [start_sample, hcode]
  exact hstart.putS d _ rfl

/-- A float word that never rounds completes with its result, and takes no draw. -/
theorem fExact_completes {i : Instr} {d a b : Reg} {f : FFmt} {op : FFormat → Nat → Nat → Nat}
    (hx : ∀ s, exec i s = fExact s i d a b f op) :
    Completes i { instr := i, rs := [a, b], ws := [d] }
      (fun s => { dst := [(d, BitVec.ofNat 64 (op (fmtOf f) (codeOf s [a, b] f 0) (codeOf s [a, b] f 1)))] }) := by
  refine issueS_completes hx fun s => ?_
  dsimp only
  rw [operands_s, operands_s]; rfl

/-! ### The words of R88 and R89 -/

theorem exec_roundTable : ∀ p ∈ roundTable, ∀ d a b f s,
    exec (p.1 d a b f) s = fRounding s (p.1 d a b f) d [a, b] f (fun fm r x => p.2 fm r (x 0) (x 1)) := by
  simp only [roundTable, List.forall_mem_cons, List.not_mem_nil, false_imp_iff, implies_true, and_true]
  exact ⟨fun _ _ _ _ _ => rfl, fun _ _ _ _ _ => rfl, fun _ _ _ _ _ => rfl⟩

theorem exec_chooseTable : ∀ p ∈ chooseTable, ∀ d a b f s, exec (p.1 d a b f) s = fExact s (p.1 d a b f) d a b f p.2 := by
  simp only [chooseTable, List.forall_mem_cons, List.not_mem_nil, false_imp_iff, implies_true, and_true]
  exact ⟨fun _ _ _ _ _ => rfl, fun _ _ _ _ _ => rfl⟩

theorem exec_compareTable : ∀ p ∈ compareTable, ∀ d a b f s,
    exec (p.1 d a b f) s = fExact s (p.1 d a b f) d a b f (fun fm x y => if fCmp fm p.2 x y then 1 else 0) := by
  simp only [compareTable, List.forall_mem_cons, List.not_mem_nil, false_imp_iff, implies_true, and_true]
  exact ⟨fun _ _ _ _ _ => rfl, fun _ _ _ _ _ => rfl, fun _ _ _ _ _ => rfl, fun _ _ _ _ _ => rfl, fun _ _ _ _ _ => rfl⟩

/-- Settles O6: the words that round draw once; the others compute one scalar. -/
theorem floatWordsComplete : Obligations.FloatWordsComplete := by
  unfold Obligations.FloatWordsComplete
  refine ⟨fun p hp d a b f => fRounding_completes (exec_roundTable p hp d a b f), fun d a b c f => ?fma,
    fun p hp d a b f => fExact_completes (exec_chooseTable p hp d a b f), fun p hp d a b f => ?compare⟩
  case fma => exact fRounding_completes (op := fun fm r x => fFma fm r (x 0) (x 1) (x 2)) (fun _ => rfl)
  case compare =>
    have h := fExact_completes (exec_compareTable p hp d a b f)
    simp only [apply_ite (BitVec.ofNat 64)] at h
    exact h

/-! ### FCVT (R90) -/

/-- The tile once an FCVT has issued on a front: it has sampled, raised the conversion's sticky bits and placed the result. -/
def Tile.converted (T : Tile) (f : Front) (d : Reg) (tk sk : CKind) (sat : Bool) (v : Word) : Tile :=
  ((T.sample f (convRounds tk sk)).2.raise (convert tk sk (T.sample f (convRounds tk sk)).1 sat v.toNat).2).putS f d
    (placeConv tk (convert tk sk (T.sample f (convRounds tk sk)).1 sat v.toNat).1)

/-- Settles O9: the conversion's rounding is sampled, its sticky bits are raised, and its result is placed. -/
theorem convertWordCompletes : Obligations.ConvertWordCompletes := by
  unfold Obligations.ConvertWordCompletes
  intro d a t u sat
  refine issueTile_completes (body := fun T f I => T.converted f d (ckind t.toNat) (ckind u.toNat) sat (I.s 0)) (fun _ => rfl) fun s => ?_
  have hsample := (start_done { instr := .fcvt d a t u sat, rs := [a], ws := [d] } s.cur s.focus.2).sample rfl rfl
    (convRounds (ckind t.toNat) (ckind u.toNat))
  have hraise := hsample.raise
    (convert (ckind t.toNat) (ckind u.toNat) (sampledIf s (convRounds (ckind t.toNat) (ckind u.toNat))) sat (s.src [a] 0).toNat).2
  simp only [BitVec.ofNat_eq_ofNat, BitVec.zero_or] at hraise
  dsimp only
  rw [Tile.converted, start_sample, operands_s]
  exact hraise.putS d _ rfl

end Sys2Proof.Machine
end
section
/-! ## Proofs: float comparisons -/

namespace Sys2Proof.Machine

/-! ### Exact values compare as their numbers (R88) -/

/-- A signed numerator at a common denominator and exponent. -/
theorem scaledNum_cast (s : Bool) (n c : Nat) {d : Nat} (hd : 0 < d) {e l : Int} (hl : l ≤ e) :
    ((scaledNum s n c e l : Int) : ℚ) = withSign s ((n : ℚ) / d * 2 ^ e) * (d * c * 2 ^ (-l)) := by
  have hd' : (d : ℚ) ≠ 0 := by exact_mod_cast hd.ne'
  have hpow : ((pow2p (e - l) : Nat) : ℚ) = 2 ^ e * 2 ^ (-l) := by
    rw [← zpow_add₀ two_ne_zero, ← sub_eq_add_neg, ← Int.toNat_of_nonneg (sub_nonneg.2 hl), zpow_natCast, pow2p]
    push_cast; rfl
  cases s <;> simp only [scaledNum, withSign] <;> push_cast <;> rw [hpow] <;> field_simp

/-- Both values are numbers, x and y. -/
structure FVal.Numbers (a b : FVal) (x y : ℚ) : Prop where
  fst : ∃ s n d e, a = .fin s n d e ∧ 0 < d ∧ x = withSign s ((n : ℚ) / d * 2 ^ e)
  snd : ∃ s n d e, b = .fin s n d e ∧ 0 < d ∧ y = withSign s ((n : ℚ) / d * 2 ^ e)

section
variable {a b : FVal} {x y : ℚ} (h : a.Numbers b x y)
include h

theorem FVal.Numbers.symm : b.Numbers a y x := ⟨h.snd, h.fst⟩

theorem FVal.Numbers.lt_iff : a.lt b = true ↔ x < y := by
  obtain ⟨⟨s, n, d, e, rfl, hd, rfl⟩, t, m, c, k, rfl, hc, rfl⟩ := h
  have hpos : (0 : ℚ) < d * c * 2 ^ (-(min e k)) := by positivity
  rw [FVal.lt, decide_eq_true_iff, ← @Int.cast_lt ℚ, scaledNum_cast s n c hd (min_le_left e k), scaledNum_cast t m d hc (min_le_right e k),
    mul_comm (c : ℚ), mul_lt_mul_iff_left₀ hpos]

theorem FVal.Numbers.notNan : a.isNan = false ∧ b.isNan = false := by
  obtain ⟨⟨s, n, d, e, rfl, -, -⟩, t, m, c, k, rfl, -, -⟩ := h
  exact ⟨rfl, rfl⟩

theorem FVal.Numbers.lt_eq : a.lt b = decide (x < y) := by rw [Bool.eq_iff_iff, h.lt_iff, decide_eq_true_iff]

theorem FVal.Numbers.eq_eq : a.eq b = decide (x = y) := by
  rw [FVal.eq, h.notNan.1, h.notNan.2, h.lt_eq, h.symm.lt_eq]
  rcases lt_trichotomy x y with hlt | rfl | hgt
  · simp [hlt, hlt.ne]
  · simp
  · simp [hgt, hgt.ne']

/-- The lesser of two numbers is a lower bound of both. -/
theorem FVal.Numbers.fLesser_le : if fLesser a b then x ≤ y else y ≤ x := by
  rw [fLesser, h.lt_eq, h.symm.lt_eq]
  rcases lt_trichotomy x y with hlt | rfl | hgt
  · simp [hlt, hlt.le]
  · simp
  · simp [hgt, hgt.le, hgt.not_gt]

end

/-- A code with a number decodes to a finite value. -/
theorem FFormat.decode_of_num {f : FFormat} {c : Nat} {z : ℚ} (h : f.num c = some z) :
    ∃ s n d e, f.decode c = .fin s n d e ∧ 0 < d ∧ z = withSign s ((n : ℚ) / d * 2 ^ e) := by
  have hden : ∀ s n d e, f.decode c = .fin s n d e → d = 1 := by
    intro s n d e hdec
    simp only [decode] at hdec
    split at hdec
    · split at hdec <;> cases hdec
    · split at hdec
      · cases hdec
      · split at hdec <;> cases hdec <;> rfl
  rw [num] at h
  cases hdec : f.decode c with
  | nan => rw [hdec] at h; cases h
  | inf s => rw [hdec] at h; cases h
  | fin s n d e =>
    rw [hdec, toRat_fin, Option.some_inj] at h
    obtain rfl := hden s n d e hdec
    exact ⟨s, n, 1, e, rfl, one_pos, h.symm⟩

theorem FVal.eq_nan_of_isNan {a : FVal} (h : a.isNan = true) : a = .nan := match a, h with
  | .nan, _ => rfl

/-! ### The words' comparisons on codes -/

section
variable {f : FFormat} {a b : Nat}

theorem fMin_of_numbers (h : (f.decode a).isNan = false ∧ (f.decode b).isNan = false) :
    fMin f a b = if fLesser (f.decode a) (f.decode b) then a else b := by simp [fMin, h.1, h.2]

theorem fMax_of_numbers (h : (f.decode a).isNan = false ∧ (f.decode b).isNan = false) :
    fMax f a b = if fLesser (f.decode a) (f.decode b) then b else a := by simp [fMax, h.1, h.2]

/-- With a NaN nothing is less and nothing is equal. -/
theorem unordered_of_nan (h : (f.decode a).isNan = true ∨ (f.decode b).isNan = true) :
    (f.decode a).lt (f.decode b) = false ∧ (f.decode a).eq (f.decode b) = false := by
  rcases h with h | h
  · rw [FVal.eq_nan_of_isNan h]; exact ⟨rfl, rfl⟩
  · rw [FVal.eq_nan_of_isNan h]; cases f.decode a <;> exact ⟨rfl, rfl⟩

end

/-- Settles O7: decoded values compare as their numbers, and a NaN is unordered. -/
theorem floatComparisonsAreByValue : Obligations.FloatComparisonsAreByValue := by
  unfold Obligations.FloatComparisonsAreByValue
  intro f _ a b _ _
  refine ⟨fun x y hx hy => ?numbers, fun h => ?unordered, fun ha hb => ?left, fun ha hb => ?right⟩
  case numbers =>
    have h : (f.decode a).Numbers (f.decode b) x y := ⟨FFormat.decode_of_num hx, FFormat.decode_of_num hy⟩
    have hle := h.fLesser_le
    refine ⟨h.eq_eq, ?_, h.lt_eq, ?_, ?_, ?_, ?_⟩
    · rw [fCmp, h.eq_eq, decide_not]
    · rw [fCmp, h.eq_eq, h.lt_eq, ← Bool.decide_or]
      exact decide_eq_decide.2 le_iff_lt_or_eq.symm
    · rw [fCmp, h.notNan.1, h.notNan.2]; rfl
    · rw [fMin_of_numbers h.notNan]
      revert hle
      split <;> intro hle
      · rw [hx, min_eq_left hle]
      · rw [hy, min_eq_right hle]
    · rw [fMax_of_numbers h.notNan]
      revert hle
      split <;> intro hle
      · rw [hy, max_eq_right hle]
      · rw [hx, max_eq_left hle]
  case unordered =>
    obtain ⟨hlt, heq⟩ := unordered_of_nan h
    exact ⟨heq, by rw [fCmp, heq]; rfl, hlt, by rw [fCmp, hlt, heq]; rfl, by rw [fCmp, Bool.or_eq_true]; exact h⟩
  case left => simp [fMin, fMax, ha, hb]
  case right => simp [fMin, fMax, ha, hb]

end Sys2Proof.Machine
end
section
/-! ## Proofs: control words -/

namespace Sys2Proof.Machine

/-! ### Branch conditions and targets (R55, R91, R92) -/

theorem brTaken_eq (c : BrCond) (x y : Word) : brTaken c x y = branchHolds c x y := by
  cases c <;> simp only [brTaken, branchHolds, signedOf_toNat, BitVec.slt, BitVec.sle, BitVec.ult, BitVec.ule]

theorem pcOf_add (p : Pc) (z : Int) : pcOf (p.toNat + 4 * z) = p + 4 * BitVec.ofInt 16 z := by
  rw [pcOf, BitVec.ofInt_add, BitVec.ofInt_mul, BitVec.ofInt_natCast, BitVec.ofNat_toNat, BitVec.setWidth_eq]; rfl

/-- A signed reading taken modulo a smaller power of two keeps the low bits. -/
theorem ofInt_toInt_of_le {m n : Nat} (h : m ≤ n) (x : BitVec n) : BitVec.ofInt m x.toInt = x.setWidth m :=
  BitVec.signExtend_eq_setWidth_of_le x h

theorem branchOffset_eq (s : State) (o : BitVec 13) : branchOffset s o = BitVec.ofInt 16 (immS s.hints.himm 13 o.toNat) := by
  unfold branchOffset
  cases s.hints.himm with
  | none => rw [immS_none]; rfl
  | some p => rw [immS_some, ofInt_toInt_of_le (by decide)]

/-- A jump's offset is taken modulo 2^16, so that a bound HIMM does not change it. -/
theorem jumpOffset_eq (h : Option (BitVec 22)) (o : BitVec 26) : BitVec.ofInt 16 (immS h 26 o.toNat) = o.setWidth 16 := by
  cases h with
  | none => rw [immS_none, ofInt_toInt_of_le (by decide)]
  | some p =>
    rw [immS_some, ofInt_toInt_of_le (by decide), BitVec.setWidth_append, dif_pos (by decide)]

/-- The condition that BR tests on its operands; with AL it reads none. -/
theorem br_operands (s : State) (fm : Form) (a b : Reg) (c : BrCond) (hrs : fm.rs = if c = .al then [] else [a, b]) :
    brTaken c ((s.operands fm).s 0) ((s.operands fm).s 1) = branchHolds c (s.src [a, b] 0) (s.src [a, b] 1) := by
  rw [brTaken_eq]
  by_cases hc : c = .al
  · subst hc; rfl
  · rw [operands_s, operands_s, hrs, if_neg hc]

/-! ### The words (R31, R91 to R93) -/

/-- The front continues at an address. -/
theorem TileDone.jump {T T' : Tile} {f : Front} {fm : Form} {x : Effect} (h : TileDone T T' f fm x) (hf : x.front = id) (p : Pc) :
    TileDone T (T'.modFront f (fun F => { F with pc := p })) f fm { x with front := fun F => { F with pc := p } } :=
  h.onFront _ hf (fun _ _ => rfl) (fun _ => rfl)

theorem br_completes (a b : Reg) (c : BrCond) (o : BitVec 13) :
    Completes (.br a b c o) { instr := .br a b c o, rs := if c = .al then [] else [a, b], himm := true } (fun s =>
      { front := fun F =>
          if branchHolds c (s.src [a, b] 0) (s.src [a, b] 1) then { F with pc := s.pc + 4 * branchOffset s o } else F }) := by
  intro s h
  set fm : Form := { instr := .br a b c o, rs := if c = .al then [] else [a, b], himm := true }
  have hdone := start_done fm s.cur s.focus.2
  show ∃ t, execBr a b c o s = .next t ∧ _
  rw [execBr]
  have htarget : pcOf ((s.operands fm).ipc.toNat + 4 * immS (s.operands fm).himm 13 o.toNat) = s.pc + 4 * branchOffset s o := by
    rw [pcOf_add, branchOffset_eq]; rfl
  have htaken := br_operands s fm a b c rfl
  by_cases hb : branchHolds c (s.src [a, b] 0) (s.src [a, b] 1)
  · simp only [hb, if_true]
    have hjump := hdone.jump rfl (s.pc + 4 * branchOffset s o)
    have hne := h.done_ne_reset hjump
    exact (h.curOnly_begun.modTile hne).executed h (by rw [htaken, hb, if_pos rfl, htarget]; rfl) hjump
  · simp only [hb]
    exact h.curOnly_begun.executed h (by rw [htaken, if_neg hb]) hdone

theorem nop_completes : Completes .nop { instr := .nop } (fun _ => {}) :=
  issueTile_completes (body := fun T _ _ => T) (fun _ => rfl) fun s => start_done _ s.cur s.focus.2

theorem endStrand_completes : Completes .endStrand { instr := .endStrand }
    (fun s => { front := fun F => { F with ended := true, endPc := s.pc } }) :=
  issueTile_completes (body := fun T f I => T.modFront f (fun F => { F with ended := true, endPc := I.ipc })) (fun _ => rfl) fun s =>
    (start_done _ s.cur s.focus.2).onFront _ rfl (fun _ _ => rfl) (fun _ => rfl)

/-- A word that writes its link and continues elsewhere. -/
theorem link_executed {s : State} {fm : Form} (h : Ready s fm) {d : Reg} {v : Word} {p : Pc} {body : State → Issue → Verdict}
    (hu : body (s.begun fm) (s.operands fm) = .done (((s.begun fm).modTile s.focus.1 (fun T => T.putS s.focus.2 d v)).jump p)) :
    ∃ t, issue s fm body = .next t ∧ Executed s t fm { dst := [(d, v)], front := fun F => { F with pc := p } } := by
  have hlink := (start_done fm s.cur s.focus.2).putS d v rfl
  have hjump := hlink.jump rfl p
  have hne := h.done_ne_reset hlink
  have hne' := h.done_ne_reset hjump
  have hbegun := h.curOnly_begun
  exact ((hbegun.modTile hne).modTile hne').executed h hu hjump

theorem jal_completes (o : BitVec 26) : Completes (.jal o) { instr := .jal o, ws := [23], himm := true }
    (fun s => { dst := [(23, (s.pc + 4).setWidth 64)], front := fun F => { F with pc := s.pc + 4 * o.setWidth 16 } }) := by
  intro s h
  set fm : Form := { instr := .jal o, ws := [23], himm := true }
  have htarget : pcOf ((s.operands fm).ipc.toNat + 4 * immS (s.operands fm).himm 26 o.toNat) = s.pc + 4 * o.setWidth 16 := by
    rw [pcOf_add, jumpOffset_eq]; rfl
  show ∃ t, execJal o s = .next t ∧ _
  rw [execJal]
  exact link_executed h (by rw [htarget]; rfl)

section
variable {s : State} {d a : Reg} {i : BitVec 16} (h : Ready s { instr := .jalr d a i, rs := [a], ws := [d], himm := true })
include h

/-- JALR judges its exact target. -/
theorem execJalr_ready : execJalr d a i s = issue s { instr := .jalr d a i, rs := [a], ws := [d], himm := true } (fun u I =>
    if jalrTarget s a i < 0 ∨ 65536 ≤ jalrTarget s a i ∨ jalrTarget s a i % 4 ≠ 0 then .trap 0x06 (BitVec.ofInt 64 (jalrTarget s a i))
    else .done ((u.modTile u.focus.1 (fun T => T.putS u.focus.2 d ((I.ipc + 4).setWidth 64))).jump (pcOf (jalrTarget s a i)))) := by
  rw [execJalr, issue_ready h, issue_ready h, operands_s, jalrTarget, immSigned_toInt]; rfl

theorem jalr_executed (h0 : 0 ≤ jalrTarget s a i) (hhi : jalrTarget s a i < 65536) (h4 : jalrTarget s a i % 4 = 0) :
    ∃ t, execJalr d a i s = .next t ∧ Executed s t { instr := .jalr d a i, rs := [a], ws := [d], himm := true }
      { dst := [(d, (s.pc + 4).setWidth 64)], front := fun F => { F with pc := BitVec.ofInt 16 (jalrTarget s a i) } } := by
  rw [execJalr_ready h]
  exact link_executed h (if_neg (by omega))

theorem jalr_traps (hbad : jalrTarget s a i < 0 ∨ 65536 ≤ jalrTarget s a i ∨ jalrTarget s a i % 4 ≠ 0) :
    execJalr d a i s = .next (preciseTrap s 0x06 (BitVec.ofInt 64 (jalrTarget s a i))) := by
  rw [execJalr_ready h]
  exact issue_traps h (if_pos hbad)

end

/-- Settles O10: each word is executed on its own tile, or JALR's target raises its trap. -/
theorem controlWordsComplete : Obligations.ControlWordsComplete := by
  unfold Obligations.ControlWordsComplete
  exact ⟨⟨br_completes, nop_completes, endStrand_completes⟩, jal_completes, fun d a i s h => ⟨jalr_executed h, jalr_traps h⟩⟩

end Sys2Proof.Machine
end
section
/-! ## Proofs: local loads and stores -/

namespace Sys2Proof.Machine

/-! ### Loaded bytes (R11, R94) -/

theorem leNat_lt (bs : List Byte) : leNat bs < 256 ^ bs.length := by
  induction bs with
  | nil => exact one_pos
  | cons b bs ih =>
    have := b.isLt
    rw [leNat, List.length_cons, Nat.pow_succ]
    omega

theorem localBytes_length (T : Tile) (a n : Nat) : (T.localBytes a n).length = n := by
  induction n generalizing a with
  | zero => rfl
  | succ n ih => rw [Tile.localBytes, List.length_cons, ih]

theorem localNat_lt (T : Tile) (a n : Nat) : T.localNat a n < 256 ^ n := by
  have := leNat_lt (T.localBytes a n)
  rwa [localBytes_length] at this

theorem localNat_congr {T U : Tile} (hs : T.spad = U.spad) (hc : T.code = U.code) (a n : Nat) : T.localNat a n = U.localNat a n := by
  have hbytes : T.localBytes a n = U.localBytes a n := by
    induction n generalizing a with
    | zero => rfl
    | succ n ih => rw [Tile.localBytes, Tile.localBytes, ih, Tile.localByte, Tile.localByte, hs, hc]
  rw [Tile.localNat, Tile.localNat, hbytes]

/-- The size of an LDS is that of its code. -/
theorem shape_fst (z : LoadSize) : (LoadSize.shape z).1 = loadBytes z := by cases z <;> rfl

/-- A number of the size's bytes is extended as the size code says. -/
theorem extend_eq_loadedWord (z : LoadSize) {v : Nat} (hv : v < 256 ^ loadBytes z) :
    (if (LoadSize.shape z).2 then extS (8 * loadBytes z) v else extZ v) = loadedWord z v := by
  have hs : ∀ n, v < 2 ^ n → extS n v = (BitVec.ofNat n v).signExtend 64 := fun n h => by
    rw [← extS_toNat, BitVec.toNat_ofNat, Nat.mod_eq_of_lt h]
  have hz : ∀ n, v < 2 ^ n → extZ v = (BitVec.ofNat n v).setWidth 64 := fun n h => by
    rw [← extZ_toNat, BitVec.toNat_ofNat, Nat.mod_eq_of_lt h]
  cases z with
  | u8 => exact hz 8 hv
  | u16 => exact hz 16 hv
  | u32 => exact hz 32 hv
  | d64 => rfl
  | s8 => exact hs 8 hv
  | s16 => exact hs 16 hv
  | s32 => exact hs 32 hv

/-! ### The address and its checks (R94) -/

/-- The address of an LDS or STS, of its operands. -/
theorem localAddr_operands (s : State) (fm : Form) {o : BitVec 10} {n : Nat} {x : Int} (hx : localAddr s fm.rs o n = x) :
    (((s.operands fm).s 0).toNat : Int) + immS (s.operands fm).himm 10 o.toNat * n = x := by
  rw [operands_s, operands_himm, ← hx, localAddr]
  cases s.hints.himm with
  | none => rw [immS_none]
  | some p => rw [immS_some]

section
variable {x : Int} {n last align : Nat}

theorem localCause_range (h : x < 0 ∨ (last : Int) < x + n) : localCause x n last align = some 0x07 := if_pos h

theorem localCause_align (h0 : 0 ≤ x) (h1 : x + n ≤ last) (h2 : x % align ≠ 0) : localCause x n last align = some 0x08 := by
  rw [localCause, if_neg (by omega), if_pos h2]

theorem localCause_none (h0 : 0 ≤ x) (h1 : x + n ≤ last) (h2 : x % align = 0) : localCause x n last align = none := by
  rw [localCause, if_neg (by omega), if_neg (by omega)]

end

/-! ### The state in which a local access takes effect -/

section
variable {s : State} {fm : Form} (h : Ready s fm)
include h

/-- Reading its sources leaves what a local access waits for. -/
theorem begun_localHeld (f : Front) (x n : Nat) (writes : Bool) : (s.begun fm).localHeld f x n writes = s.localHeld f x n writes := by
  have hsb : ((s.begun fm).tile s.focus.1).sb = s.cur.sb := by rw [begun_tile_kept h]
  have hclash : ((s.begun fm).tile s.focus.1).sbClash [(x, n)] writes = s.cur.sbClash [(x, n)] writes := by
    rw [Tile.sbClash, Tile.sbClash, hsb]
  exact congrArg (· || (f == .a && localWait s s.focus.1 x n writes)) hclash

theorem begun_localNat (x n : Nat) : ((s.begun fm).tile s.focus.1).localNat x n = s.cur.localNat x n :=
  localNat_congr (by rw [begun_tile_kept h]) (by rw [begun_tile_kept h]) x n

end

/-! ### A value on its way (R23, R28) -/

theorem reserveS_fst (T : Tile) (f : Front) (d : Reg) (id : Nat) : (T.reserveS f d id).1 = destOf d := by
  unfold Tile.reserveS destOf
  split
  · rfl
  · split <;> rfl

/-- The list of values on their way gains one. -/
def Tile.addFill (T : Tile) (f : Front) (id : Nat) (d : Dest) (v : Vec) : Tile :=
  { T with fills := T.fills ++ [{ id := id, front := f, dest := d, val := v }] }

section
variable (s : State) (f : Front) (d : Reg) (v : Word)

/-- A load into s0 takes a serial number and nothing else. -/
theorem loadTo_zero (h0 : d.toNat = 0) : s.loadTo f d v =
    { s.setTile s.focus.1 ((s.tile s.focus.1).reserveS f d s.nextId).2 with nextId := s.nextId + 1 } := by
  have hdest : (((s.tile s.focus.1)).reserveS f d s.nextId).1 = .none := by rw [reserveS_fst, destOf, if_pos h0]
  show State.fillLater _ f s.nextId ((s.tile s.focus.1).reserveS f d s.nextId).1 _ = _
  rw [hdest]; rfl

/-- Any other load reserves its destination, and its value sets out. -/
theorem loadTo_pos (h0 : d.toNat ≠ 0) : s.loadTo f d v =
    { (s.setTile s.focus.1 ((s.tile s.focus.1).reserveS f d s.nextId).2).modTile s.focus.1
        (fun T => T.addFill f s.nextId (destOf d) (v.setWidth 2048)) with
      nextId := s.nextId + 1, agenda := s.agenda ++ [.localLoadFill s.focus.1 s.nextId] } := by
  have hfill : ∀ u : State, u.fillLater f s.nextId (destOf d) (v.setWidth 2048) =
      (u.modTile u.focus.1 (fun T => T.addFill f s.nextId (destOf d) (v.setWidth 2048))).post (.localLoadFill u.focus.1 s.nextId) := fun u => by
    unfold destOf
    rw [if_neg h0]
    split <;> rfl
  show State.fillLater _ f s.nextId ((s.tile s.focus.1).reserveS f d s.nextId).1 _ = _
  rw [reserveS_fst, hfill]; rfl

end

/-- A word that loads v into d has been executed with the load's effect. -/
theorem load_executed {s : State} {fm : Form} (h : Ready s fm) {d : Reg} {v : Word} {body : State → Issue → Verdict}
    (hu : body (s.begun fm) (s.operands fm) = .done ((s.begun fm).loadTo s.focus.2 d v)) :
    ∃ t, issue s fm body = .next t ∧ Executed s t fm (loadEffect s d v) := by
  have hresv := (start_done fm s.cur s.focus.2).reserveS d s.nextId rfl
  have hset := h.curOnly_begun.setTile (h.done_ne_reset hresv)
  have hbegun : (s.begun fm).tile s.focus.1 = (fm.start s.cur s.focus.2).2 := begun_cur h
  by_cases h0 : d.toNat = 0
  · have heff : loadEffect s d v = { resv := [(d, s.nextId)], ids := 1 } := by simp only [loadEffect, h0, if_true]; rfl
    rw [heff]
    refine hset.executed_sending h (hu.trans ?_) (hresv.sends 1 [])
    rw [loadTo_zero _ _ _ _ h0, begun_focus, hbegun, List.append_nil, List.append_nil]; rfl
  · have heff : loadEffect s d v =
        { resv := [(d, s.nextId)], ids := 1, posts := [.localLoadFill s.focus.1 s.nextId],
          body := fun T => T.addFill s.focus.2 s.nextId (destOf d) (v.setWidth 2048) } := by simp only [loadEffect, h0, if_false]; rfl
    have hfill := hresv.onBody (fun T => T.addFill s.focus.2 s.nextId (destOf d) (v.setWidth 2048)) (fun _ _ _ _ _ _ _ => rfl)
    have hne := h.done_ne_reset hfill
    rw [heff]
    have hmod := hset.modTile (g := fun T => T.addFill s.focus.2 s.nextId (destOf d) (v.setWidth 2048)) hne
    refine hmod.executed_sending h (hu.trans ?_) (hfill.sends 1 _)
    rw [loadTo_pos _ _ _ _ h0, begun_focus, hbegun, List.append_nil]; rfl

/-! ### LDS and STS -/

/-- The forms that an LDS and an STS issue with. -/
def ldsForm (d b : Reg) (z : LoadSize) (o : BitVec 10) : Form := { instr := .lds d b z o, rs := [b], ws := [d], himm := true, hpri := true }
def stsForm (d b : Reg) (w : Width) (o : BitVec 10) : Form := { instr := .sts d b w o, rs := [b, d], himm := true, hpri := true }

section
variable {s : State} {d b : Reg} {z : LoadSize} {o : BitVec 10} (h : Ready s (ldsForm d b z o))
include h

/-- An LDS with its address x in range, aligned and free to be read loads the bytes there. -/
theorem lds_executed {x : Int} (hx : localAddr s [b] o (loadBytes z) = x) (hc : localCause x (loadBytes z) codeEnd (loadBytes z) = none)
    (hfree : s.localHeld s.focus.2 x.toNat (loadBytes z) false = false) : ∃ t, execLds d b z o s = .next t ∧
      Executed s t (ldsForm d b z o) (loadEffect s d (loadedWord z (s.cur.localNat x.toNat (loadBytes z)))) := by
  refine load_executed h ?_
  dsimp only
  rw [shape_fst, localAddr_operands s (ldsForm d b z o) hx, hc]
  dsimp only
  rw [begun_localHeld h]
  refine (if_neg (Bool.eq_false_iff.1 hfree)).trans ?_
  have hval : ((s.begun (ldsForm d b z o)).tile s.focus.1).localNat x.toNat (loadBytes z) = s.cur.localNat x.toNat (loadBytes z) :=
    begun_localNat h _ _
  rw [begun_focus, hval, extend_eq_loadedWord z (localNat_lt _ _ _)]

/-- An LDS whose address x raises a cause traps with it. -/
theorem lds_traps {x : Int} (hx : localAddr s [b] o (loadBytes z) = x) {code : Nat}
    (hc : localCause x (loadBytes z) codeEnd (loadBytes z) = some code) :
    execLds d b z o s = .next (preciseTrap s code (BitVec.ofInt 64 x)) := by
  refine issue_traps h ?_
  dsimp only
  rw [shape_fst, localAddr_operands s (ldsForm d b z o) hx, hc]

end

/-- Settles O12: the address's checks in their order, then the load. -/
theorem localLoadCompletes : Obligations.LocalLoadCompletes := by
  unfold Obligations.LocalLoadCompletes
  intro d b z o s fm n x h
  refine ⟨fun h0 h1 h2 hfree => ?loads, fun hr => lds_traps h rfl (localCause_range hr),
    fun h0 h1 h2 => lds_traps h rfl (localCause_align h0 h1 h2)⟩
  obtain ⟨t, ht, he⟩ := lds_executed h rfl (localCause_none h0 h1 h2) hfree
  have hmem : (loadEffect s d (loadedWord z (s.cur.localNat x.toNat n))).body s.cur = { s.cur with
      fills := ((loadEffect s d (loadedWord z (s.cur.localNat x.toNat n))).body s.cur).fills } := by
    unfold loadEffect
    dsimp only
    split <;> rfl
  exact ⟨t, ht, he, by rw [he.tile.kept, hmem], by rw [he.tile.kept, hmem]⟩

section
variable {s : State} {d b : Reg} {w : Width} {o : BitVec 10} (h : Ready s (stsForm d b w o))
include h

/-- An STS with its address x in range, aligned and free to be written stores its data there. -/
theorem sts_executed {x : Int} (hx : localAddr s [b, d] o w.nbytes = x) (hc : localCause x w.nbytes spadEnd w.nbytes = none)
    (hfree : s.localHeld s.focus.2 x.toNat w.nbytes true = false) : ∃ t, execSts d b w o s = .next t ∧
      Executed s t (stsForm d b w o) { body := fun T => T.spadPut x.toNat w.nbytes (s.src [b, d] 1).toNat } := by
  have hdone := (start_done (stsForm d b w o) s.cur s.focus.2).onBody (fun T => T.spadPut x.toNat w.nbytes (s.src [b, d] 1).toNat)
    (fun _ _ _ _ _ _ _ => rfl)
  have hne := h.done_ne_reset hdone
  refine (h.curOnly_begun.modTile (g := fun T => T.spadPut x.toNat w.nbytes (s.src [b, d] 1).toNat) hne).executed h ?_ hdone
  dsimp only
  rw [localAddr_operands s (stsForm d b w o) hx, hc]
  dsimp only
  rw [begun_localHeld h]
  refine (if_neg (Bool.eq_false_iff.1 hfree)).trans ?_
  rw [operands_s]; rfl

/-- An STS whose address x raises a cause traps with it. -/
theorem sts_traps {x : Int} (hx : localAddr s [b, d] o w.nbytes = x) {code : Nat}
    (hc : localCause x w.nbytes spadEnd w.nbytes = some code) :
    execSts d b w o s = .next (preciseTrap s code (BitVec.ofInt 64 x)) := by
  refine issue_traps h ?_
  dsimp only
  rw [localAddr_operands s (stsForm d b w o) hx, hc]

end

/-- Settles O13: the address's checks in their order, then the bytes written. -/
theorem localStoreCompletes : Obligations.LocalStoreCompletes := by
  unfold Obligations.LocalStoreCompletes
  intro d b w o s fm n x h
  refine ⟨fun h0 h1 h2 hfree => ?stores, fun hr => sts_traps h rfl (localCause_range hr),
    fun h0 h1 h2 => sts_traps h rfl (localCause_align h0 h1 h2)⟩
  obtain ⟨t, ht, he⟩ := sts_executed h rfl (localCause_none h0 h1 h2) hfree
  have hspad : t.cur.spad = memPutNat s.cur.spad x.toNat n (s.src [b, d] 1).toNat := by rw [he.tile.kept]; rfl
  have hpow : 256 ^ w.nbytes = 2 ^ w.nbits := by cases w <;> rfl
  refine ⟨t, ht, he, fun hwf => ?_, fun a ha => ?_⟩
  · rw [hspad, memNat_memPutNat hwf, hpow]
  · rw [hspad, memGet_memPutNat_other _ _ _ _ ha]

end Sys2Proof.Machine
end
section
/-! ## Proofs: queue ports -/

namespace Sys2Proof.Machine

/-! ### QSTAT (R96) -/

/-- The counts as a number. -/
theorem statWord_eq (ended : Bool) (free pending filled : Nat) :
    extZ ((if ended then 2 ^ 15 else 0) + free * 2 ^ 10 + pending * 2 ^ 5 + filled) = statWord ended free pending filled := by
  cases ended <;> rfl

theorem popper_scalar (a : Reg) : popper 3 a = if a.toNat < 28 then .x else .a := if_pos rfl
theorem popper_vector (a : Reg) : popper 2 a = if a.toNat < 30 then .x else .a := if_neg (by decide)

theorem popper_other_scalar (a : Reg) : (popper 3 a).other = if a.toNat < 28 then .a else .x := by
  rw [popper_scalar]; split <;> rfl

theorem popper_other_vector (a : Reg) : (popper 2 a).other = if a.toNat < 30 then .a else .x := by
  rw [popper_vector]; split <;> rfl

/-- What QSTAT computes on a tile. -/
def Tile.statOf (T : Tile) (w : BitVec 2) (a : Reg) : Word :=
  extZ ((if (T.front (popper w a).other).ended then 2 ^ 15 else 0) + (T.portStat w a).2.2 * 2 ^ 10 + (T.portStat w a).2.1 * 2 ^ 5 +
    (T.portStat w a).1)

theorem qstat_completes (d a : Reg) (w : BitVec 2) : Completes (.qstat d a w) { instr := .qstat d a w, ws := [d] }
    (fun s => { dst := [(d, s.cur.statOf w a)] }) := by
  refine issueS_completes (fm := { instr := .qstat d a w }) (val := fun T _ _ => T.statOf w a) (fun _ => rfl) fun s => ?_
  dsimp only
  rw [Tile.statOf, Tile.statOf, start_ended, Tile.portStat, Tile.portStat, start_sport _ _ rfl, start_vport _ _ rfl]

/-! ### QDRAIN (R97) -/

/-- A destination that the front pushes is no port that it pops. -/
theorem dst_ne_popped {f : Front} {d a : Reg} (hd : dstSOk f d = true) (ha : 24 ≤ a.toNat) (hf : f = popper 3 a) : d.toNat ≠ a.toNat := by
  rw [popper_scalar] at hf
  split at hf <;> subst hf <;> simp only [dstSOk, Bool.or_eq_true, decide_eq_true_eq] at hd <;> omega

/-- The port named by a QDRAIN, emptied. -/
def Tile.emptied (T : Tile) (w : BitVec 2) (a : Reg) : Tile := if w = 3 then T.setSport (a.toNat - 24) [] else T.setVport (a.toNat - 28) []

section
variable (T : Tile) (a : Reg)

theorem emptied_scalar : T.emptied 3 a = T.setSport (a.toNat - 24) [] := if_pos rfl
theorem emptied_vector : T.emptied 2 a = T.setVport (a.toNat - 28) [] := if_neg (by decide)

theorem emptied_kept (w : BitVec 2) : T.emptied w a = { T with sq := (T.emptied w a).sq, vq := (T.emptied w a).vq } := by
  unfold Tile.emptied; split <;> rfl

end

section
variable {s : State} {d a : Reg} {w : BitVec 2}

/-- The form of a QDRAIN on the front that pops the port. -/
def drainForm (d a : Reg) (w : BitVec 2) : Form := { instr := .qdrain d a w, ws := [d] }

/-- The tile once a QDRAIN has emptied its port and counted what it held. -/
def Tile.drained (T : Tile) (f : Front) (d a : Reg) (w : BitVec 2) : Tile :=
  (((drainForm d a w).start T f).2.emptied w a).putS f d (extZ (T.portStat w a).1)

/-- QDRAIN from the front that pops the port, which holds no reserved slot. -/
theorem qdrain_drains (hf : s.focus.2 = popper w a) (h : Ready s (drainForm d a w)) (hp : (s.cur.portStat w a).2.1 = 0) :
    ∃ t, execQdrain d a w s = .next t ∧ Quiet s t {} ∧ t.cur = s.cur.drained s.focus.2 d a w := by
  have hform : ({ instr := .qdrain d a w, ws := [d], dir := popper w a == s.focus.2 } : Form) = drainForm d a w := by
    rw [hf, beq_self_eq_true]; rfl
  have hbegun : (s.begun (drainForm d a w)).tile s.focus.1 = ((drainForm d a w).start s.cur s.focus.2).2 := begun_cur h
  have hstat : ((drainForm d a w).start s.cur s.focus.2).2.portStat w a = s.cur.portStat w a := by
    rw [Tile.portStat, Tile.portStat, start_sport _ _ rfl, start_vport _ _ rfl]
  have hphase : (s.cur.drained s.focus.2 d a w).phase ≠ .idle := by
    rw [Tile.drained, putS_kept, emptied_kept, start_kept _ _ rfl, h.phase]; decide
  have hc := h.curOnly_begun.setTile (Tile.ne_reset_of_phase hphase)
  obtain ⟨hq, hcur⟩ := hc.quiet (counted_only s _)
  refine ⟨_, ?_, hq, hcur⟩
  rw [execQdrain, hform, issue_ready h]
  dsimp only
  rw [begun_focus, hbegun, hstat, if_neg (by rw [hp]; decide)]
  rfl

/-- QDRAIN from the other front. -/
theorem qdrain_traps (hf : s.focus.2 ≠ popper w a) (hr : s.cur.runs s.focus.2 = true)
    (hg : (drainForm d a w).gate s.cur s.focus.1 s.focus.2 = none) :
    execQdrain d a w s = .next (preciseTrap s 0x04 (wordVal (.qdrain d a w))) := by
  have hform : ({ instr := .qdrain d a w, ws := [d], dir := popper w a == s.focus.2 } : Form) = { drainForm d a w with dir := false } := by
    rw [beq_false_of_ne hf.symm]; rfl
  rw [execQdrain, hform]
  exact issue_trap hr (gate_wrong_dir hg) _

end

section
variable (T : Tile) (f : Front) (d a : Reg) (w : BitVec 2)

theorem drained_reg (h0 : 0 < d.toNat) (h : d.toNat < 24) : ((T.drained f d a w).front f).reg d.toNat = extZ (T.portStat w a).1 :=
  putS_reg _ f d _ h0 h

theorem drained_reg_other {r : Nat} (h : r ≠ d.toNat) : ((T.drained f d a w).front f).reg r = (T.front f).reg r := by
  rw [Tile.drained, putS_reg_other _ _ _ _ h, Tile.emptied]
  split
  · rw [Tile.front_setSport, start_reg]
  · rw [Tile.front_setVport, start_reg]

/-- Writing the count does not refill the port just emptied, since `d` is another register. -/
theorem drained_sport (hd : d.toNat ≠ a.toNat) (ha : 24 ≤ a.toNat) : (T.drained f d a 3).sport (a.toNat - 24) = [] := by
  rw [Tile.drained, putS_sport_other _ _ _ _ (by omega), emptied_scalar, Tile.sport_setSport _ _ (by have := a.isLt; omega)]

theorem drained_sport_other {q : Nat} (hq : q ≠ a.toNat - 24) (hd : q + 24 ≠ d.toNat) : (T.drained f d a 3).sport q = T.sport q := by
  rw [Tile.drained, putS_sport_other _ _ _ _ hd, emptied_scalar, Tile.sport_setSport_other _ _ hq, start_sport _ _ rfl]

/-- QDRAIN keeps everything of the tile but its fronts, its ports and the sticky bits. -/
theorem drained_kept : T.drained f d a w = { T with
    fa := (T.drained f d a w).fa, fx := (T.drained f d a w).fx, sq := (T.drained f d a w).sq, vq := (T.drained f d a w).vq,
    warn := (T.drained f d a w).warn } := by
  have hstart := start_kept (fm := drainForm d a w) T f rfl
  have hput := putS_kept (((drainForm d a w).start T f).2.emptied w a) f d (extZ (T.portStat w a).1)
  have hempty := emptied_kept ((drainForm d a w).start T f).2 a w
  rw [← Tile.drained] at hput
  generalize T.drained f d a w = P at *
  generalize ((drainForm d a w).start T f).2 = U at *
  generalize U.emptied w a = V at *
  have hwarn : P.warn = U.warn := by rw [hput, hempty]
  have hvq : P.vq = V.vq := by rw [hput]
  rw [hwarn, hvq]
  conv_lhs => rw [hput, hempty, hstart]

theorem drained_kept_scalar : T.drained f d a 3 = { T with
    fa := (T.drained f d a 3).fa, fx := (T.drained f d a 3).fx, sq := (T.drained f d a 3).sq, warn := (T.drained f d a 3).warn } := by
  have hvq : (T.drained f d a 3).vq = T.vq := by rw [Tile.drained, putS_kept, emptied_scalar, start_kept _ _ rfl]; rfl
  exact (drained_kept T f d a 3).trans (by rw [hvq])

/-- The count goes to a scalar register, so the vector port just emptied stays empty. -/
theorem drained_vport (ha : 28 ≤ a.toNat) : (T.drained f d a 2).vport (a.toNat - 28) = [] := by
  rw [Tile.drained, putS_vport, emptied_vector, Tile.vport_setVport _ _ (by have := a.isLt; omega)]

theorem drained_vport_other {q : Nat} (hq : q ≠ a.toNat - 28) : (T.drained f d a 2).vport q = T.vport q := by
  rw [Tile.drained, putS_vport, emptied_vector, Tile.vport_setVport_other _ _ hq, start_vport _ _ rfl]

theorem drained_vector_sport {q : Nat} (hd : q + 24 ≠ d.toNat) : (T.drained f d a 2).sport q = T.sport q := by
  rw [Tile.drained, putS_sport_other _ _ _ _ hd, emptied_vector, Tile.sport_setVport, start_sport _ _ rfl]

end

/-- Settles O15: QSTAT counts on the tile as it stands; QDRAIN's front pops the port or takes the trap. -/
theorem queuePortsComplete : Obligations.QueuePortsComplete := by
  unfold Obligations.QueuePortsComplete
  refine ⟨⟨fun d a => ?scalarStat, fun d a => ?vectorStat⟩, fun d a s ha => ?scalarDrain, fun d a s ha => ?vectorDrain⟩
  case scalarStat =>
    have h := qstat_completes d a 3
    simp only [Tile.statOf, popper_other_scalar, statWord_eq] at h
    exact h
  case vectorStat =>
    have h := qstat_completes d a 2
    simp only [Tile.statOf, popper_other_vector, statWord_eq] at h
    exact h
  case scalarDrain =>
    dsimp only
    rw [← popper_scalar]
    refine ⟨fun hf h hp => ?_, fun hf hr hg => qdrain_traps hf hr hg⟩
    have hne : d.toNat ≠ a.toNat := dst_ne_popped (h.dst_ok (List.mem_singleton_self d)) ha hf
    obtain ⟨t, ht, hq, hcur⟩ := qdrain_drains hf h hp
    refine ⟨t, ht, ?_, hq, ?_⟩
    all_goals rw [hcur]
    · exact drained_sport _ _ _ _ hne ha
    · exact ⟨drained_reg _ _ _ _ _, fun r hr => drained_reg_other _ _ _ _ _ hr, fun q h1 h2 => drained_sport_other _ _ _ _ h1 h2,
        drained_kept_scalar _ _ _ _⟩
  case vectorDrain =>
    dsimp only
    rw [← popper_vector]
    refine ⟨fun hf h hp => ?_, fun hf hr hg => qdrain_traps hf hr hg⟩
    obtain ⟨t, ht, hq, hcur⟩ := qdrain_drains hf h hp
    refine ⟨t, ht, ?_, hq, ?_⟩
    all_goals rw [hcur]
    · exact drained_vport _ _ _ _ ha
    · exact ⟨drained_reg _ _ _ _ _, fun r hr => drained_reg_other _ _ _ _ _ hr, fun q h1 => drained_vport_other _ _ _ _ h1,
        fun q h1 => drained_vector_sport _ _ _ _ h1, drained_kept _ _ _ _ _⟩

end Sys2Proof.Machine
end
section
/-! ## Proofs: elements of a vector -/

namespace Sys2Proof.Machine

/-! ### Lists of elements, by their numbers (R39, R99) -/

theorem elemsOf_eq_map (w n x : Nat) : elemsOf w n x = (List.range n).map (fun e => x / 2 ^ (w * e) % 2 ^ w) := by
  induction n generalizing x with
  | zero => rfl
  | succ n ih =>
    rw [elemsOf, ih, List.range_succ_eq_map, List.map_cons, List.map_map, Nat.mul_zero, Nat.pow_zero, Nat.div_one]
    refine congrArg _ (List.map_congr_left fun e _ => ?_)
    rw [Nat.div_div_eq_div_mul, ← Nat.pow_add, Nat.add_comm, ← Nat.mul_succ]; rfl

theorem elemAt_toNat (w e : Nat) (v : Vec) : (elemAt w e v).toNat = v.toNat / 2 ^ (w * e) % 2 ^ w := by
  rw [elemAt, BitVec.extractLsb'_toNat, Nat.shiftRight_eq_div_pow]

theorem elemsOf_toNat (w n : Nat) (v : Vec) : elemsOf w n v.toNat = (List.range n).map (fun e => (elemAt w e v).toNat) := by
  simp only [elemsOf_eq_map, elemAt_toNat]

theorem vecElems_eq_map (w : Nat) (v : Vec) : vecElems w v = (List.range (2048 / w)).map (fun e => (elemAt w e v).toNat) :=
  elemsOf_toNat w _ v

theorem vecElem_eq_toNat (w x : Nat) (v : Vec) : vecElem w v x = (elemAt w x v).toNat := (elemAt_toNat w x v).symm

theorem mapFrom_eq_mapIdx {α β : Type} (f : Nat → α → β) (i : Nat) (l : List α) : mapFrom f i l = l.mapIdx (fun e => f (e + i)) := by
  induction l generalizing i with
  | nil => rfl
  | cons x l ih =>
    rw [mapFrom, ih, List.mapIdx_cons, Nat.zero_add]
    simp only [Nat.add_assoc, Nat.add_comm 1 i]

/-- A function of number and value, along the elements' numbers. -/
theorem mapFrom_map_range {α β : Type} (f : Nat → α → β) (g : Nat → α) (n : Nat) :
    mapFrom f 0 ((List.range n).map g) = (List.range n).map (fun e => f e (g e)) := by
  rw [mapFrom_eq_mapIdx]
  refine List.ext_getElem (by simp) fun e _ _ => ?_
  simp

theorem zipWith_map_range {α β γ : Type} (op : α → β → γ) (f : Nat → α) (g : Nat → β) (n : Nat) :
    List.zipWith op ((List.range n).map f) ((List.range n).map g) = (List.range n).map (fun e => op (f e) (g e)) := by
  rw [List.zipWith_map, List.zipWith_self]

theorem mergeFrom_eq_mapFrom (K : Word) (n e : Nat) (l m : List Nat) :
    mergeFrom K n e l m = mapFrom (fun e p => if gov K n e then p.1 else p.2) e (l.zip m) := by
  induction l generalizing e m with
  | nil => cases m <;> rfl
  | cons x l ih =>
    cases m with
    | nil => rfl
    | cons y m => rw [mergeFrom, ih]; rfl

theorem maskMerge_map_range (K : Word) (n : Nat) (f g : Nat → Nat) :
    maskMerge K n ((List.range n).map f) ((List.range n).map g) = (List.range n).map (fun e => if governs K n e then f e else g e) := by
  rw [maskMerge, mergeFrom_eq_mapFrom, List.zip_map', mapFrom_map_range]; rfl

theorem packElems_elem (w e : Nat) (l : List Nat) : packElems w l / 2 ^ (w * e) % 2 ^ w = l.getD e 0 % 2 ^ w := by
  induction l generalizing e with
  | nil => simp [packElems]
  | cons x l ih =>
    have hx : x % 2 ^ w < 2 ^ w := Nat.mod_lt _ (Nat.two_pow_pos w)
    rw [packElems]
    cases e with
    | zero => simp
    | succ e =>
      rw [Nat.mul_succ, Nat.add_comm (w * e), Nat.pow_add, ← Nat.div_div_eq_div_mul, Nat.add_mul_div_left _ _ (Nat.two_pow_pos w),
        Nat.div_eq_of_lt hx, Nat.zero_add, ih, List.getD_cons_succ]

/-! ### A vector made of elements -/

theorem toNat_ofNat_of_lt_pow {v k w : Nat} (hv : v < 2 ^ k) (hk : k ≤ w) : (BitVec.ofNat w v).toNat = v := by
  rw [BitVec.toNat_ofNat, Nat.mod_eq_of_lt (hv.trans_le (Nat.pow_le_pow_right two_pos hk))]

/-- The vector whose first n elements of w bits are given. -/
def vecOf (w n : Nat) (f : Nat → Nat) : Vec := BitVec.ofNat 2048 (packElems w ((List.range n).map f))

section
variable {w n : Nat} (hn : w * n ≤ 2048) (f : Nat → Nat)
include hn

theorem vecOf_toNat : (vecOf w n f).toNat = packElems w ((List.range n).map f) := by
  have hlt := packElems_lt w ((List.range n).map f)
  rw [List.length_map, List.length_range] at hlt
  exact toNat_ofNat_of_lt_pow hlt hn

theorem elemAt_vecOf {e : Nat} (he : e < n) : elemAt w e (vecOf w n f) = BitVec.ofNat w (f e) := by
  apply BitVec.eq_of_toNat_eq
  rw [elemAt_toNat, vecOf_toNat hn, packElems_elem, BitVec.toNat_ofNat]
  simp [he]

theorem getLsbD_vecOf_above {b : Nat} (hb : n * w ≤ b) : (vecOf w n f).getLsbD b = false := by
  have hlt := packElems_lt w ((List.range n).map f)
  rw [List.length_map, List.length_range, Nat.mul_comm] at hlt
  rw [← BitVec.testBit_toNat, vecOf_toNat hn]
  exact Nat.testBit_lt_two_pow (hlt.trans_le (Nat.pow_le_pow_right two_pos hb))

end

/-! ### A result under its mask (R101) -/

/-- The elements that a destination holds before, by number. -/
theorem priorElems (T : Tile) (d : Reg) (w n : Nat) : elemsOf w n (T.priorV d) =
    (List.range n).map (fun e => if d.toNat < 28 then (elemAt w e (T.vreg d.toNat)).toNat else 0) := by
  unfold Tile.priorV
  split
  · exact elemsOf_toNat w n _
  · rw [elemsOf_eq_map]
    exact List.map_congr_left fun e _ => by rw [Nat.zero_div, Nat.zero_mod]

/-- Elements merged with a destination's prior ones are its result under the mask. -/
theorem masked_vecOf (K : Word) {w n : Nat} (hn : w * n ≤ 2048) (d : Reg) (prior : Vec) (f : Nat → Nat) :
    Masked (vecOf w n (fun e => if governs K n e then f e else if d.toNat < 28 then (elemAt w e prior).toNat else 0)) K w n d prior
      (fun e => BitVec.ofNat w (f e)) := by
  refine ⟨fun e he => ?_, fun b hb => getLsbD_vecOf_above hn _ hb⟩
  rw [elemAt_vecOf hn _ he]
  simp only [apply_ite (BitVec.ofNat w), BitVec.ofNat_toNat, BitVec.setWidth_eq]; rfl

section
variable {T T' : Tile} {f : Front} {fm : Form} {x : Effect}

theorem TileDone.kreg (h : TileDone T T' f fm x) (hb : x.body = id) (k : Nat) : T'.kreg k = T.kreg k := by
  rw [Tile.kreg, Tile.kreg, h.kept, hb]; rfl

theorem TileDone.vreg (h : TileDone T T' f fm x) (hv : x.vdst = []) (r : Nat) : T'.vreg r = T.vreg r := by
  by_cases hr : r < 28
  · rw [h.vregs r hr, hv]; rfl
  · rw [Tile.vreg, Tile.vreg, dif_neg hr, dif_neg hr]

/-- A word that writes elements under its mask has one masked result (R101). -/
theorem TileDone.putMerged (h : TileDone T T' f fm x) (d : Reg) (k : KReg) {w n : Nat} (hn : w * n ≤ 2048) (g : Nat → Nat)
    (hv : x.vdst = [] := by rfl) (hr : x.vresv = [] := by rfl) (hb : x.body = id := by rfl) :
    ∃ V, Masked V (T.kreg k.toNat) w n d (T.vreg d.toNat) (fun e => BitVec.ofNat w (g e)) ∧
      TileDone T (T'.putV d (BitVec.ofNat 2048 (packElems w (maskMerge (T'.kreg k.toNat) n ((List.range n).map g)
        (elemsOf w n (T'.priorV d)))))) f fm { x with vdst := [(d, V)] } := by
  refine ⟨_, masked_vecOf _ hn d _ g, ?_⟩
  have hput := h.putV d (vecOf w n (fun e => if governs (T.kreg k.toNat) n e then g e
    else if d.toNat < 28 then (elemAt w e (T.vreg d.toNat)).toNat else 0)) hr
  rw [hv] at hput
  rw [priorElems, maskMerge_map_range, h.kreg hb, h.vreg hv]
  exact hput

end

/-- The same in the whole of the destination's elements. -/
theorem TileDone.writeV {T T' : Tile} {f : Front} {fm : Form} {x : Effect} (h : TileDone T T' f fm x) (d : Reg) (k : KReg) (w : Nat)
    {g : Nat → Nat} {op : Nat → BitVec w} (hop : ∀ e, BitVec.ofNat w (g e) = op e)
    (hv : x.vdst = [] := by rfl) (hr : x.vresv = [] := by rfl) (hb : x.body = id := by rfl) :
    ∃ V, Masked V (T.kreg k.toNat) w (2048 / w) d (T.vreg d.toNat) op ∧
      TileDone T (T'.writeV d k w ((List.range (2048 / w)).map g)) f fm { x with vdst := [(d, V)] } := by
  obtain rfl : (fun e => BitVec.ofNat w (g e)) = op := funext hop
  exact h.putMerged d k (Nat.mul_div_le 2048 w) g hv hr hb

/-! ### Vector words -/

theorem operands_v (s : State) (fm : Form) (k : Nat) : (s.operands fm).v k = s.vsrc fm.rv k := start_v fm s.cur s.focus.2 k
theorem operands_mod (s : State) (fm : Form) (b : Nat) : (s.operands fm).mod b = s.hints.modBit b := rfl

/-- The elements of a vector operand, by number. -/
theorem vecElems_operand (s : State) (fm : Form) (k w : Nat) :
    vecElems w ((s.operands fm).v k) = (List.range (2048 / w)).map (fun e => (s.velem fm.rv k w e).toNat) := by
  rw [operands_v, vecElems_eq_map]; rfl

/-- A word with a source or a destination among the vector fields names a port in its own direction, if any (R28). -/
theorem Ready.vsrc_ok {s : State} {fm : Form} (h : Ready s fm) {d : Reg} (hd : d ∈ fm.rv) : srcVOk s.focus.2 d = true := by
  obtain ⟨-, -, -, hdir⟩ := gate_eq_none_iff.1 h.gate
  simp only [Form.dirOk, Bool.and_eq_true, List.all_eq_true] at hdir
  obtain ⟨⟨-, hrv⟩, -⟩ := hdir
  exact hrv d hd

theorem Ready.vdst_ok {s : State} {fm : Form} (h : Ready s fm) {d : Reg} (hd : d ∈ fm.wv) : dstVOk s.focus.2 d = true := by
  obtain ⟨-, -, -, hdir⟩ := gate_eq_none_iff.1 h.gate
  simp only [Form.dirOk, Bool.and_eq_true, List.all_eq_true] at hdir
  obtain ⟨-, hwv⟩ := hdir
  exact hwv d hd

/-- A word of one front alone issues on that front (R25). -/
theorem Ready.focus_x {s : State} {fm : Form} (h : Ready s fm) (hA : fm.onA = false) : s.focus.2 = .x := by
  obtain ⟨-, hfront, -, -⟩ := gate_eq_none_iff.1 h.gate
  cases hf : s.focus.2 with
  | a => rw [hf, Form.frontOk, hA] at hfront; exact absurd hfront Bool.false_ne_true
  | x => rfl

theorem Ready.focus_a {s : State} {fm : Form} (h : Ready s fm) (hX : fm.onX = false) : s.focus.2 = .a := by
  obtain ⟨-, hfront, -, -⟩ := gate_eq_none_iff.1 h.gate
  cases hf : s.focus.2 with
  | a => rfl
  | x => rw [hf, Form.frontOk, hX] at hfront; exact absurd hfront Bool.false_ne_true

theorem Ready.phase_ne_idle {s : State} {fm : Form} (h : Ready s fm) : s.cur.phase ≠ .idle := by rw [h.phase]; decide

/-- A word that works on its own tile alone and there has one masked result completes with it. -/
theorem issueTile_completesV {i : Instr} {fm : Form} {w n : State → Nat} {d : Reg} {k : KReg} {op : ∀ s, Nat → BitVec (w s)}
    {draws : Bool} {warns : State → Warns} {body : Tile → Front → Issue → Tile} (hx : ∀ s, exec i s = issueTile s fm body)
    (hd : ∀ s, Ready s fm → ∃ V, Masked V (s.mask k) (w s) (n s) d (s.prior d) (op s) ∧
      TileDone s.cur (body (fm.start s.cur s.focus.2).2 s.focus.2 (s.operands fm)) s.focus.2 fm
        { vdst := [(d, V)], draws := draws, warns := warns s }) :
    CompletesV i fm w n d k op draws warns := by
  intro s h
  obtain ⟨V, hV, hdone⟩ := hd s h
  obtain ⟨t, ht, he⟩ := issueTile_executed h body hdone h.phase_ne_idle
  exact ⟨V, t, hV, (hx s).trans ht, he⟩

end Sys2Proof.Machine
end
section
/-! ## Proofs: the integer vector words -/

namespace Sys2Proof.Machine

/-- A two-source row of R103: its word is a two-source vector word with an operation, whose element result is the row's. -/
def IsVec2Row (p : (Reg → Reg → Reg → KReg → Width → Instr) × Bool × (Bool → ∀ n, BitVec n → BitVec n → BitVec n)) : Prop :=
  ∃ op, (∀ d a b k w s, exec (p.1 d a b k w) s = vec2 s (p.1 d a b k w) d a b k w p.2.1 op) ∧
    ∀ u n (x y : BitVec n), op u n x.toNat y.toNat = (p.2.2 u n x y).toNat

/-- A one-source row of R103. -/
def IsVec1Row (p : (Reg → Reg → KReg → Width → Instr) × (∀ n, BitVec n → BitVec n)) : Prop :=
  ∃ op, (∀ d a k w s, exec (p.1 d a k w) s = vec1 s (p.1 d a k w) d a k w op) ∧
    ∀ n (x : BitVec n), BitVec.ofNat n (op n x.toNat) = p.2 n x

/-- The word of a two-source row completes with the row's result in each element. -/
theorem IsVec2Row.completes {p : (Reg → Reg → Reg → KReg → Width → Instr) × Bool × (Bool → ∀ n, BitVec n → BitVec n → BitVec n)}
    (h : IsVec2Row p) (d a b : Reg) (k : KReg) (w : Width) : CompletesV (p.1 d a b k w)
      { instr := p.1 d a b k w, onA := false, rv := [a, b], wv := [d], hmod := if p.2.1 then 1 else 0 }
      (fun _ => w.nbits) (fun _ => 2048 / w.nbits) d k
      (fun s e => p.2.2 (s.hints.modBit 0) w.nbits (s.velem [a, b] 0 w.nbits e) (s.velem [a, b] 1 w.nbits e)) false (fun _ => 0) := by
  obtain ⟨op, hx, hop⟩ := h
  refine issueTile_completesV (hx d a b k w) fun s _ => ?_
  rw [vecElems_operand, vecElems_operand, zipWith_map_range]
  exact (start_done _ _ _).writeV d k _ fun e => by rw [operands_mod, hop, BitVec.ofNat_toNat, BitVec.setWidth_eq]

/-- The word of a one-source row completes with the row's result in each element. -/
theorem IsVec1Row.completes {p : (Reg → Reg → KReg → Width → Instr) × (∀ n, BitVec n → BitVec n)}
    (h : IsVec1Row p) (d a : Reg) (k : KReg) (w : Width) : CompletesV (p.1 d a k w)
      { instr := p.1 d a k w, onA := false, rv := [a], wv := [d] } (fun _ => w.nbits) (fun _ => 2048 / w.nbits) d k
      (fun s e => p.2 w.nbits (s.velem [a] 0 w.nbits e)) false (fun _ => 0) := by
  obtain ⟨op, hx, hop⟩ := h
  refine issueTile_completesV (hx d a k w) fun s _ => ?_
  rw [vecElems_operand, List.map_map]
  exact (start_done _ _ _).writeV d k _ fun e => hop _ _

section
variable {n : Nat} (x : BitVec n)

/-- VABS: the most negative number is its own magnitude. -/
theorem ofNat_natAbs : BitVec.ofNat n ((signedOf n x.toNat).natAbs % 2 ^ n) = if x.msb then -x else x := by
  have hofInt : BitVec.ofNat n (x.toInt.natAbs % 2 ^ n) = BitVec.ofInt n x.toInt.natAbs := by
    rw [BitVec.ofInt_natCast]
    exact BitVec.eq_of_toNat_eq (by simp)
  rw [signedOf_toNat, hofInt, BitVec.msb_eq_toInt]
  simp only [decide_eq_true_eq]
  split
  · next h => rw [Int.ofNat_natAbs_of_nonpos h.le, BitVec.ofInt_neg, BitVec.ofInt_toInt]
  · next h => rw [Int.natAbs_of_nonneg (Int.not_lt.1 h), BitVec.ofInt_toInt]

theorem ofNat_aluSub_zero : BitVec.ofNat n (aluSub n 0 x.toNat) = -x := by
  have h := aluSub_toNat 0#n x
  rw [BitVec.toNat_zero] at h
  rw [h, BitVec.zero_sub, BitVec.ofNat_toNat, BitVec.setWidth_eq]

theorem ofNat_aluClz : BitVec.ofNat n (aluClz n x.toNat) = BitVec.ofNat n (if x = 0 then n else n - 1 - Nat.log2 x.toNat) := by
  rw [aluClz, bitLen_eq x.isLt]
  simp only [toNat_eq_zero_iff]
  split
  · rfl
  · rw [Nat.add_comm, Nat.sub_sub]

theorem ofNat_aluFfs : BitVec.ofNat n (aluFfs n x.toNat) =
    match (List.range n).find? (fun i => x.getLsbD i) with | some i => BitVec.ofNat n (i + 1) | none => 0 := by
  rw [aluFfs, lowBit_eq_find, ← List.range_eq_range']
  change BitVec.ofNat n (match (List.range n).find? (fun i => x.getLsbD i) with | some i => i + 1 | none => 0) = _
  cases (List.range n).find? (fun i => x.getLsbD i) <;> rfl

end

theorem vec2Table_rows : ∀ p ∈ vec2Table, IsVec2Row p := by
  simp only [vec2Table, List.forall_mem_cons, List.not_mem_nil, false_imp_iff, implies_true, and_true]
  exact ⟨⟨fun _ => aluAdd, fun _ _ _ _ _ _ => rfl, fun _ _ x y => (BitVec.toNat_add x y).symm⟩,
    ⟨fun _ => aluSub, fun _ _ _ _ _ _ => rfl, fun _ _ => aluSub_toNat⟩,
    ⟨fun _ => aluMul, fun _ _ _ _ _ _ => rfl, fun _ _ x y => (BitVec.toNat_mul x y).symm⟩,
    ⟨fun u w x y => if u then aluMulhu w x y else aluMulh w x y, fun _ _ _ _ _ _ => rfl,
      Bool.rec (fun _ => aluMulh_toNat) (fun _ => aluMulhu_toNat)⟩,
    ⟨fun u w x y => if u then min x y else aluMin w x y, fun _ _ _ _ _ _ => rfl,
      Bool.rec (fun _ => aluMin_toNat) (fun _ => min_toNat)⟩,
    ⟨fun u w x y => if u then max x y else aluMax w x y, fun _ _ _ _ _ _ => rfl,
      Bool.rec (fun _ => aluMax_toNat) (fun _ => max_toNat)⟩,
    ⟨fun _ _ x y => x &&& y, fun _ _ _ _ _ _ => rfl, fun _ _ x y => (BitVec.toNat_and x y).symm⟩,
    ⟨fun _ _ x y => x ||| y, fun _ _ _ _ _ _ => rfl, fun _ _ x y => (BitVec.toNat_or x y).symm⟩,
    ⟨fun _ _ x y => x ^^^ y, fun _ _ _ _ _ _ => rfl, fun _ _ x y => (BitVec.toNat_xor x y).symm⟩,
    ⟨fun _ => aluSll, fun _ _ _ _ _ _ => rfl, fun _ _ => aluSll_toNat⟩,
    ⟨fun _ => aluSrl, fun _ _ _ _ _ _ => rfl, fun _ _ => aluSrl_toNat⟩,
    ⟨fun _ => aluSra, fun _ _ _ _ _ _ => rfl, fun _ _ => aluSra_toNat⟩⟩

theorem vec1Table_rows : ∀ p ∈ vec1Table, IsVec1Row p := by
  simp only [vec1Table, List.forall_mem_cons, List.not_mem_nil, false_imp_iff, implies_true, and_true]
  exact ⟨⟨fun w x => (signedOf w x).natAbs % 2 ^ w, fun _ _ _ _ _ => rfl, fun _ => ofNat_natAbs⟩,
    ⟨fun w x => aluSub w 0 x, fun _ _ _ _ _ => rfl, fun _ => ofNat_aluSub_zero⟩,
    ⟨aluClz, fun _ _ _ _ _ => rfl, fun _ => ofNat_aluClz⟩, ⟨aluFfs, fun _ _ _ _ _ => rfl, fun _ => ofNat_aluFfs⟩,
    ⟨popCount, fun _ _ _ _ _ => rfl, fun n x => by rw [popCount_eq_length]; rfl⟩⟩

/-- Settles O27: each row of R103 is a vector word of two sources or of one. -/
theorem vectorIntegerWordsComplete : Obligations.VectorIntegerWordsComplete := by
  unfold Obligations.VectorIntegerWordsComplete
  exact ⟨fun p hp => (vec2Table_rows p hp).completes, fun p hp => (vec1Table_rows p hp).completes⟩

end Sys2Proof.Machine
end
section
/-! ## Proofs: the float vector words -/

namespace Sys2Proof.Machine

/-! ### The shape of a float form (R65, R104) -/

section
variable (w : Width) (bf : Bool)

theorem floatWidth_nbits : (floatWidth w).nbits = (floatShape w bf).1 := by cases w <;> cases bf <;> rfl
theorem vecFmt_floatWidth : vecFmt (floatWidth w) bf = (floatShape w bf).2.1 := by cases w <;> cases bf <;> rfl
theorem floatFallback_eq : floatFallback w bf = (floatShape w bf).2.2 := by cases w <;> cases bf <;> rfl

end

/-! ### Elements rounded with their numbers of one draw (R101) -/

/-- The tile once a word has sampled its rounding and set warn.vfb for a fallback. -/
def Tile.sampleRaise (T : Tile) (f : Front) (fallback draws : Bool) : Tile := (T.sample f draws).2.raise (warnOf warnVfb fallback)

theorem start_sampleRaise (s : State) (fm : Form) (fallback draws : Bool) :
    TileDone s.cur ((fm.start s.cur s.focus.2).2.sampleRaise s.focus.2 fallback draws) s.focus.2 fm
      { draws := draws, warns := warnOf 7 fallback } := by
  have hraise := ((start_done fm s.cur s.focus.2).sample rfl rfl draws).raise (warnOf warnVfb fallback)
  simp only [BitVec.ofNat_eq_ofNat, BitVec.zero_or] at hraise
  exact hraise

/-- The tile once such a word has written its elements, which depend on the rounding. -/
def Tile.roundedV (T : Tile) (f : Front) (d : Reg) (k : KReg) (n : Nat) (fallback draws : Bool) (l : Rnd → List Nat) : Tile :=
  (T.sampleRaise f fallback draws).writeV d k n (l (T.sample f draws).1)

theorem start_roundedV (s : State) (fm : Form) (d : Reg) (k : KReg) (n : Nat) (fallback : Bool) {draws : Bool} {l : Rnd → List Nat}
    {g : Nat → Nat} {op : Nat → BitVec n} (hl : l (sampledIf s draws) = (List.range (2048 / n)).map g)
    (hop : ∀ e, BitVec.ofNat n (g e) = op e) :
    ∃ V, Masked V (s.mask k) n (2048 / n) d (s.prior d) op ∧
      TileDone s.cur ((fm.start s.cur s.focus.2).2.roundedV s.focus.2 d k n fallback draws l) s.focus.2 fm
        { vdst := [(d, V)], draws := draws, warns := warnOf 7 fallback } := by
  rw [Tile.roundedV, start_sample, hl]
  exact (start_sampleRaise s fm fallback draws).writeV d k n hop

/-- The operands of a float form, element by element. -/
theorem mapFrom_zip3 {α β γ δ : Type} (op : Nat → α × β × γ → δ) (f : Nat → α) (g : Nat → β) (h : Nat → γ) (n : Nat) :
    mapFrom op 0 (List.zip ((List.range n).map f) (List.zip ((List.range n).map g) ((List.range n).map h))) =
      (List.range n).map (fun e => op e (f e, g e, h e)) := by
  rw [List.zip_map', List.zip_map', mapFrom_map_range]

/-- A float form completes with its operation in each element, rounded with the element's number. -/
theorem vecF_completes {i : Instr} {d : Reg} {rv : List Reg} {k : KReg} {w : Width} {bf draws : Bool}
    {op : FFormat → Rnd → Nat → Nat → Nat → Nat} {r : State → Nat → BitVec (floatShape w bf).1}
    (hx : ∀ s, exec i s = vecF s i d rv k w bf draws op)
    (hr : ∀ s, Ready s { instr := i, onA := false, rv := rv, wv := [d] } → ∀ e, BitVec.ofNat (floatShape w bf).1
      (op (floatShape w bf).2.1 { sampledIf s draws with i := e } (s.velem rv 0 (floatShape w bf).1 e).toNat
        (s.velem rv 1 (floatShape w bf).1 e).toNat (s.velem rv 2 (floatShape w bf).1 e).toNat) = r s e) :
    CompletesV i { instr := i, onA := false, rv := rv, wv := [d] } (fun _ => (floatShape w bf).1)
      (fun _ => 2048 / (floatShape w bf).1) d k r draws (fun _ => warnOf 7 (floatShape w bf).2.2) := by
  refine issueTile_completesV (body := fun T f I => T.roundedV f d k (floatWidth w).nbits (floatFallback w bf) draws fun rnd =>
    mapFrom (fun e (x : Nat × Nat × Nat) => op (vecFmt (floatWidth w) bf) { rnd with i := e } x.1 x.2.1 x.2.2) 0
      (List.zip (vecElems (floatWidth w).nbits (I.v 0)) (List.zip (vecElems (floatWidth w).nbits (I.v 1))
        (vecElems (floatWidth w).nbits (I.v 2))))) hx fun s h => ?_
  rw [vecElems_operand, vecElems_operand, vecElems_operand]
  simp only [mapFrom_zip3]
  rw [floatWidth_nbits w bf, vecFmt_floatWidth, floatFallback_eq]
  exact start_roundedV s _ d k _ _ rfl (hr s h)

/-! ### The words of R104 -/

theorem exec_vecF2Table : ∀ p ∈ vecF2Table, ∀ d a b k w f s, exec (p.1 d a b k w f) s =
    vecF s (p.1 d a b k w f) d [a, b] k w f p.2.1 (fun fm r x y _ => p.2.2 fm r x y) := by
  simp only [vecF2Table, List.forall_mem_cons, List.not_mem_nil, false_imp_iff, implies_true, and_true]
  exact ⟨fun _ _ _ _ _ _ _ => rfl, fun _ _ _ _ _ _ _ => rfl, fun _ _ _ _ _ _ _ => rfl, fun _ _ _ _ _ _ _ => rfl,
    fun _ _ _ _ _ _ _ => rfl⟩

/-- A row that takes no draw does not look at its rounding. -/
theorem vecF2Table_draws : ∀ p ∈ vecF2Table, p.2.1 = true ∨ ∀ fm r r' x y, p.2.2 fm r x y = p.2.2 fm r' x y := by
  simp only [vecF2Table, List.forall_mem_cons, List.not_mem_nil, false_imp_iff, implies_true, and_true]
  exact ⟨.inl trivial, .inl trivial, .inl trivial, .inr trivial, .inr trivial⟩

theorem exec_vecF1Table : ∀ p ∈ vecF1Table, ∀ d a k w f s, exec (p.1 d a k w f) s =
    vecF s (p.1 d a k w f) d [a] k w f false (fun fm _ x _ _ => p.2 fm x) := by
  simp only [vecF1Table, List.forall_mem_cons, List.not_mem_nil, false_imp_iff, implies_true, and_true]
  exact ⟨fun _ _ _ _ _ _ => rfl, fun _ _ _ _ _ _ => rfl⟩

theorem exec_vecF3Table : ∀ p ∈ vecF3Table, ∀ d a b k w f s, exec (p.1 d a b k w f) s =
    vecF s (p.1 d a b k w f) d [a, b, d] k w f true p.2 := by
  simp only [vecF3Table, List.forall_mem_cons, List.not_mem_nil, false_imp_iff, implies_true, and_true]
  exact ⟨fun _ _ _ _ _ _ _ => rfl, fun _ _ _ _ _ _ _ => rfl⟩

/-- A vector field of the X-front that is both read and written names a register: no port is both popped and pushed (R28). -/
theorem Ready.register_of_read_written {s : State} {fm : Form} (h : Ready s fm) (hA : fm.onA = false) {d : Reg} (hr : d ∈ fm.rv)
    (hw : d ∈ fm.wv) : d.toNat < 28 := by
  have hsrc := h.vsrc_ok hr
  have hdst := h.vdst_ok hw
  rw [h.focus_x hA] at hsrc hdst
  simp only [srcVOk, dstVOk, Bool.or_eq_true, decide_eq_true_eq] at hsrc hdst
  omega

/-- The prior destination as third source. -/
theorem velem_third {s : State} {i : Instr} {a b d : Reg} (h : Ready s { instr := i, onA := false, rv := [a, b, d], wv := [d] }) (w e : Nat) :
    s.velem [a, b, d] 2 w e = elemAt w e (s.prior d) := by
  have hd := h.register_of_read_written rfl (d := d) (by simp) (by simp)
  have hsrc : s.vsrc [a, b, d] 2 = s.prior d := if_pos hd
  rw [State.velem, hsrc]

/-! ### VSCL and the special functions (R111, R117) -/

theorem vscl_completes (d a b : Reg) (k : KReg) (w : Width) :
    CompletesV (.vscl d a b k w) { instr := .vscl d a b k w, onA := false, rv := [a, b], wv := [d], hmod := 1 }
      (fun s => (floatShape w (s.hints.modBit 0)).1) (fun s => 2048 / (floatShape w (s.hints.modBit 0)).1) d k
      (fun s e => BitVec.ofNat (floatShape w (s.hints.modBit 0)).1 (fScale (floatShape w (s.hints.modBit 0)).2.1 (sampledAt s e)
        (s.velem [a, b] 0 (floatShape w (s.hints.modBit 0)).1 e).toNat (s.velem [a, b] 1 (floatShape w (s.hints.modBit 0)).1 e).toInt))
      true (fun s => warnOf 7 (floatShape w (s.hints.modBit 0)).2.2) := by
  refine issueTile_completesV (body := fun T f I => T.roundedV f d k (floatWidth w).nbits (floatFallback w (I.mod 0)) true fun rnd =>
    mapFrom (fun e (x : Nat × Nat) => fScale (vecFmt (floatWidth w) (I.mod 0)) { rnd with i := e } x.1 (signedOf (floatWidth w).nbits x.2)) 0
      (List.zip (vecElems (floatWidth w).nbits (I.v 0)) (vecElems (floatWidth w).nbits (I.v 1)))) (fun _ => rfl) fun s _ => ?_
  rw [vecElems_operand, vecElems_operand, operands_mod, floatWidth_nbits w (s.hints.modBit 0), vecFmt_floatWidth, floatFallback_eq,
    List.zip_map']
  simp only [mapFrom_map_range, signedOf_toNat]
  exact start_roundedV s _ d k _ _ rfl fun _ => rfl

/-- A special function completes on FP32 with each element rounded with its number. -/
theorem vecSpecial_completes {i : Instr} {d a : Reg} {k : KReg} {w : Width} {op : FVal → FVal}
    (hx : ∀ s, exec i s = vecSpecial s i d a k w op) :
    CompletesV i { instr := i, onA := false, rv := [a], wv := [d] } (fun _ => 32) (fun _ => 64) d k
      (fun s e => BitVec.ofNat 32 (fmtFP32.round (sampledAt s e) false (op (fmtFP32.decode (s.velem [a] 0 32 e).toNat))))
      true (fun _ => warnOf 7 (w != .w32)) := by
  refine issueTile_completesV (body := fun T f I => T.roundedV f d k 32 (w != .w32) true fun rnd =>
    mapFrom (fun e x => fmtFP32.round { rnd with i := e } false (op (fmtFP32.decode x))) 0 (vecElems 32 (I.v 0))) hx fun s _ => ?_
  rw [vecElems_operand]
  simp only [mapFrom_map_range]
  exact start_roundedV s _ d k 32 _ rfl fun _ => rfl

theorem exec_specialTable : ∀ p ∈ specialTable, ∀ d a k w s, exec (p.1 d a k w) s = vecSpecial s (p.1 d a k w) d a k w p.2 := by
  simp only [specialTable, List.forall_mem_cons, List.not_mem_nil, false_imp_iff, implies_true, and_true]
  exact ⟨fun _ _ _ _ _ => rfl, fun _ _ _ _ _ => rfl, fun _ _ _ _ _ => rfl, fun _ _ _ _ _ => rfl, fun _ _ _ _ _ => rfl⟩

/-- Settles O28: the float forms by the number of their sources, VSCL, and the special functions. -/
theorem vectorFloatWordsComplete : Obligations.VectorFloatWordsComplete := by
  unfold Obligations.VectorFloatWordsComplete
  refine ⟨fun p hp d a b k w f => ?two, fun p hp d a k w f => ?one, fun p hp d a b k w f => ?three, vscl_completes,
    fun p hp d a k w => vecSpecial_completes (exec_specialTable p hp d a k w)⟩
  case two =>
    refine vecF_completes (exec_vecF2Table p hp d a b k w f) fun s _ e => ?_
    rcases vecF2Table_draws p hp with hdraws | hany
    · rw [hdraws]; rfl
    · rw [hany _ _ (sampledAt s e)]
  case one => exact vecF_completes (exec_vecF1Table p hp d a k w f) fun _ _ _ => rfl
  case three =>
    refine vecF_completes (exec_vecF3Table p hp d a b k w f) fun s h e => ?_
    rw [velem_third h]; rfl

end Sys2Proof.Machine
end
section
/-! ## Proofs: compares, moves, conversions and mask words -/

namespace Sys2Proof.Machine

/-! ### Masks from conditions (R105) -/

theorem getLsbD_wordOfBits {n i : Nat} (hi : i < n) (hn : n ≤ 64) (c : Nat → Bool) :
    (wordOfBits ((List.range n).map c)).getLsbD i = c i := by
  have helem := packElems_elem 1 i ((List.range n).map fun i => if c i then 1 else 0)
  rw [Nat.one_mul, Nat.pow_one] at helem
  rw [wordOfBits, List.map_map, BitVec.getLsbD_ofNat, decide_eq_true (hi.trans_le hn), Bool.true_and, Nat.testBit_eq_decide_div_mod_eq]
  refine (congrArg (fun v => decide (v = 1)) helem).trans ?_
  rw [List.getD_eq_getElem _ _ (by simpa using hi), List.getElem_map, List.getElem_range]
  cases c i <;> rfl

/-- A run of elements within the first n. -/
theorem take_drop_map_range {α : Type} (c : Nat → α) {n a m : Nat} (h : a + m ≤ n) :
    (((List.range n).map c).drop a).take m = (List.range m).map (fun j => c (a + j)) := by
  refine List.ext_getElem (by simp; omega) fun j _ _ => ?_
  simp

/-- Each lane's bit is its elements' conditions, all of them or any. -/
theorem laneBits_map_range (w : Width) (any : Bool) (c : Nat → Bool) :
    laneBits w.nbits any ((List.range (2048 / w.nbits)).map c) = (List.range 64).map (laneHolds w.nbits any c) := by
  refine List.map_congr_left fun i hi => ?_
  have hi : i < 64 := List.mem_range.1 hi
  rw [laneHolds]
  by_cases h64 : w.nbits = 64
  · have hlen : i / 2 < ((List.range (2048 / w.nbits)).map c).length := by rw [h64]; simp; omega
    rw [if_pos h64, if_pos h64, List.getD_eq_getElem _ _ hlen, List.getElem_map, List.getElem_range]
  · have hrun : i * (32 / w.nbits) + 32 / w.nbits ≤ 2048 / w.nbits := by
      have hall : 64 * (32 / w.nbits) = 2048 / w.nbits := by
        cases w with
        | w64 => exact absurd rfl h64
        | _ => rfl
      rw [← hall, ← Nat.succ_mul]
      exact Nat.mul_le_mul_right _ hi
    rw [if_neg h64, if_neg h64, take_drop_map_range c hrun]
    by_cases h32 : w.nbits = 32
    · simp [h32]
    · simp [h32]

/-- The integer conditions on two elements. -/
theorem vcmpElem_none {n : Nat} (c : VCond) (x y : BitVec n) : vcmpElem none n c x.toNat y.toNat = condHolds c n x y := by
  unfold vcmpElem condHolds
  cases c with
  | eq => exact Bool.eq_iff_iff.2 (by simp [BitVec.toNat_inj])
  | ne => exact Bool.eq_iff_iff.2 (by simp [BitVec.toNat_inj])
  | lt => dsimp only; rw [signedOf_toNat, signedOf_toNat, BitVec.slt]
  | le => dsimp only; rw [signedOf_toNat, signedOf_toNat, BitVec.sle]
  | ltu => rfl
  | leu => rfl
  | un => rfl

theorem vcmpElem_some (f : FFormat) (n : Nat) (c : VCond) (x y : Nat) : vcmpElem (some f) n c x y = condFloat f c x y := by
  cases c <;> rfl

/-! ### Words that write a mask (R105, R119) -/

/-- A mask register written among the other changes of a word. -/
theorem TileDone.setKreg {T T' : Tile} {f : Front} {fm : Form} {x : Effect} (h : TileDone T T' f fm x) (k : Nat) (v : Word)
    (hb : x.body = id := by rfl) : TileDone T (T'.setKreg k v) f fm { x with body := fun U => U.setKreg k v } := by
  have hset := h.onBody (fun U => U.setKreg k v) (fun U fa fx sq vq vregs warn => by unfold Tile.setKreg; split <;> rfl)
  rw [hb] at hset
  exact hset

/-- A word whose one result is a mask completes with it. -/
theorem setKreg_completes {i : Instr} {fm : Form} {d : KReg} {val : Tile → Word} {v : State → Word}
    (hx : ∀ s, exec i s = issueTile s fm (fun T _ _ => T.setKreg d.toNat (val T)))
    (hv : ∀ s, val (fm.start s.cur s.focus.2).2 = v s) : Completes i fm (fun s => { body := fun T => T.setKreg d.toNat (v s) }) := by
  intro s h
  have hdone := (start_done fm s.cur s.focus.2).setKreg d.toNat (v s)
  obtain ⟨t, ht, he⟩ := issueTile_executed h (fun T _ _ => T.setKreg d.toNat (val T)) (by rw [hv]; exact hdone)
    (by dsimp only; rw [Tile.setKreg_phase]; exact h.phase_ne_idle)
  exact ⟨t, (hx s).trans ht, he⟩

theorem start_mask (s : State) (fm : Form) (k : KReg) : (fm.start s.cur s.focus.2).2.kreg k.toNat = s.mask k :=
  (start_done fm s.cur s.focus.2).kreg rfl k.toNat

/-- The tile once a compare has set warn.vfb for a fallback and written its mask. -/
def Tile.compared (T : Tile) (kd m : KReg) (fallback : Bool) (bs : List Bool) : Tile :=
  (T.raise (warnOf warnVfb fallback)).setKreg kd.toNat (wordOfBits bs &&& T.kreg m.toNat)

/-- A word that compares its operands at a width completes with the lanes' bits under its mask. -/
theorem compare_executed {s : State} {i : Instr} {a b : Reg} {kd m : KReg} {n : Nat} {fallback : Bool}
    {cmp : Nat → Nat → Bool} {c : Nat → Bool} (hn : ∃ w : Width, w.nbits = n)
    (h : Ready s { instr := i, onA := false, rv := [a, b], hmod := 1 })
    (hx : exec i s = issueTile s { instr := i, onA := false, rv := [a, b], hmod := 1 } (fun T _ I =>
      T.compared kd m fallback (laneBits n (I.mod 0) (List.zipWith cmp (vecElems n (I.v 0)) (vecElems n (I.v 1))))))
    (hc : ∀ e, cmp (s.velem [a, b] 0 n e).toNat (s.velem [a, b] 1 n e).toNat = c e) :
    ∃ K t, (∀ i, i < 64 → K.getLsbD i = ((s.mask m).getLsbD i && laneHolds n (s.hints.modBit 0) c i)) ∧
      exec i s = .next t ∧ Executed s t { instr := i, onA := false, rv := [a, b], hmod := 1 } {
        body := fun T => T.setKreg kd.toNat K, warns := warnOf 7 fallback } := by
  obtain ⟨w, rfl⟩ := hn
  have hraise := (start_done { instr := i, onA := false, rv := [a, b], hmod := 1 } s.cur s.focus.2).raise (warnOf warnVfb fallback)
  simp only [BitVec.ofNat_eq_ofNat, BitVec.zero_or] at hraise
  have hdone := hraise.setKreg kd.toNat (wordOfBits ((List.range 64).map (laneHolds w.nbits (s.hints.modBit 0) c)) &&& s.mask m)
  obtain ⟨t, ht, he⟩ := issueTile_executed h (fun T _ I =>
      T.compared kd m fallback (laneBits w.nbits (I.mod 0) (List.zipWith cmp (vecElems w.nbits (I.v 0)) (vecElems w.nbits (I.v 1)))))
    (by
      rw [← State.operands, vecElems_operand, vecElems_operand, zipWith_map_range, laneBits_map_range, Tile.compared, start_mask, operands_mod]
      simp only [hc]
      exact hdone) (by dsimp only; rw [Tile.setKreg_phase]; exact h.phase_ne_idle)
  refine ⟨_, t, fun i hi => ?_, hx.trans ht, he⟩
  rw [BitVec.getLsbD_and, getLsbD_wordOfBits hi le_rfl, Bool.and_comm]

/-- A compare on floats is one at the width and in the format of its shape. -/
theorem exec_vcmp_float (kd : KReg) (a b : Reg) (m : KReg) (w : Width) (bf : Bool) (c : VCond) (s : State) :
    exec (.vcmp kd a b m w bf true c) s = issueTile s { instr := .vcmp kd a b m w bf true c, onA := false, rv := [a, b], hmod := 1 }
      (fun T _ I => T.compared kd m ((floatShape w bf).2.2 || c == .ltu || c == .leu) (laneBits (floatShape w bf).1 (I.mod 0)
        (List.zipWith (vcmpElem (some (floatShape w bf).2.1) (floatShape w bf).1 c) (vecElems (floatShape w bf).1 (I.v 0))
          (vecElems (floatShape w bf).1 (I.v 1))))) := by
  rw [← floatWidth_nbits, ← vecFmt_floatWidth, ← floatFallback_eq]; rfl

/-! ### Selection, broadcast, numbers and permutation (R106 to R110) -/

theorem vsel_executed {s : State} {d a b : Reg} {k : KReg} {w : Width}
    (h : Ready s { instr := .vsel d a b k w, onA := false, rv := [a, b], wv := [d] }) :
    ∃ V t, (∀ e, e < 2048 / w.nbits → elemAt w.nbits e V =
        if governs (s.mask k) (2048 / w.nbits) e then s.velem [a, b] 0 w.nbits e else s.velem [a, b] 1 w.nbits e) ∧
      exec (.vsel d a b k w) s = .next t ∧
      Executed s t { instr := .vsel d a b k w, onA := false, rv := [a, b], wv := [d] } { vdst := [(d, V)] } := by
  refine ⟨vecOf w.nbits (2048 / w.nbits) (fun e => if governs (s.mask k) (2048 / w.nbits) e then (s.velem [a, b] 0 w.nbits e).toNat
    else (s.velem [a, b] 1 w.nbits e).toNat), ?_⟩
  obtain ⟨t, ht, he⟩ := issueTile_executed h (fun T _ I => T.putV d (BitVec.ofNat 2048 (packElems w.nbits
      (maskMerge (T.kreg k.toNat) (2048 / w.nbits) (vecElems w.nbits (I.v 0)) (vecElems w.nbits (I.v 1))))))
    (by
      rw [← State.operands, vecElems_operand, vecElems_operand, maskMerge_map_range, start_mask]
      exact (start_done _ _ _).putV d _ rfl) h.phase_ne_idle
  refine ⟨t, fun e he => ?_, ht, he⟩
  rw [elemAt_vecOf (Nat.mul_div_le 2048 _) _ he, apply_ite (BitVec.ofNat w.nbits), BitVec.ofNat_toNat, BitVec.ofNat_toNat, BitVec.setWidth_eq,
    BitVec.setWidth_eq]

theorem vbcast_completes (d a : Reg) (k : KReg) (w : Width) :
    CompletesV (.vbcast d a k w) { instr := .vbcast d a k w, onA := false, rs := [a], wv := [d] }
      (fun _ => w.nbits) (fun _ => 2048 / w.nbits) d k (fun s _ => (s.src [a] 0).setWidth w.nbits) false (fun _ => 0) := by
  refine issueTile_completesV (body := fun T _ I => T.writeV d k w.nbits (List.replicate (2048 / w.nbits) ((I.s 0).toNat % 2 ^ w.nbits)))
    (fun _ => rfl) fun s _ => ?_
  have hrep := List.map_const' (l := List.range (2048 / w.nbits)) (b := ((s.src [a] 0).setWidth w.nbits).toNat)
  rw [List.length_range] at hrep
  rw [operands_s, ← BitVec.toNat_setWidth, ← hrep]
  exact (start_done _ _ _).writeV d k _ fun _ => by rw [BitVec.ofNat_toNat, BitVec.setWidth_eq]

theorem viota_completes (d : Reg) (k : KReg) (w : Width) :
    CompletesV (.viota d k w) { instr := .viota d k w, onA := false, wv := [d] } (fun _ => w.nbits) (fun _ => 2048 / w.nbits) d k
      (fun _ e => BitVec.ofNat w.nbits e) false (fun _ => 0) := by
  refine issueTile_completesV (body := fun T _ _ => T.writeV d k w.nbits (List.range (2048 / w.nbits))) (fun _ => rfl) fun s _ => ?_
  rw [← List.map_id (List.range (2048 / w.nbits))]
  exact (start_done _ _ _).writeV d k _ fun _ => rfl

theorem vperm_completes (d a b : Reg) (k : KReg) (w : Width) :
    CompletesV (.vperm d a b k w) { instr := .vperm d a b k w, onA := false, rv := [a, b], wv := [d] }
      (fun _ => w.nbits) (fun _ => 2048 / w.nbits) d k
      (fun s e => s.velem [a, b] 0 w.nbits ((s.velem [a, b] 1 w.nbits e).toNat % (2048 / w.nbits))) false (fun _ => 0) := by
  refine issueTile_completesV (body := fun T _ I => T.writeV d k w.nbits
    ((vecElems w.nbits (I.v 1)).map (fun x => vecElem w.nbits (I.v 0) (x % (2048 / w.nbits))))) (fun _ => rfl) fun s _ => ?_
  rw [vecElems_operand, List.map_map, operands_v]
  exact (start_done _ _ _).writeV d k _ fun _ => by
    rw [Function.comp_apply, vecElem_eq_toNat, BitVec.ofNat_toNat, BitVec.setWidth_eq]; rfl

theorem vextr_completes (d a b : Reg) (w : Width) :
    Completes (.vextr d a b w) { instr := .vextr d a b w, onA := false, rv := [a], rs := [b], ws := [d], hmod := 1 }
      (fun s => { dst := [(d, if s.hints.modBit 0
        then (s.velem [a] 0 w.nbits ((s.src [b] 0).toNat % (2048 / w.nbits))).signExtend 64
        else (s.velem [a] 0 w.nbits ((s.src [b] 0).toNat % (2048 / w.nbits))).setWidth 64)] }) := by
  refine issueS_completes (fm := { instr := .vextr d a b w, onA := false, rv := [a], rs := [b], hmod := 1 })
    (val := fun _ _ I => if I.mod 0 then extS w.nbits (vecElem w.nbits (I.v 0) ((I.s 0).toNat % (2048 / w.nbits)))
      else extZ (vecElem w.nbits (I.v 0) ((I.s 0).toNat % (2048 / w.nbits)))) (fun _ => rfl) fun s => ?_
  rw [operands_s, operands_v, operands_mod, vecElem_eq_toNat, extS_toNat, extZ_toNat]; rfl

/-! ### VCVT (R112, R113) -/

theorem sampledIf_at (s : State) (draws : Bool) (e : Nat) : { sampledIf s draws with i := e } =
    if draws then sampledAt s e else { mode := s.rmode.toNat, seed := 0, i := e } := by cases draws <;> rfl

/-- One element of a VCVT: its result and the sticky bits it raises where its mask enables it. -/
def convElem (s : State) (tk sk : CKind) (sat : Bool) (v : Vec) (e : Nat) : Nat × Warns :=
  convert tk sk { sampledIf s (convRounds tk sk) with i := e } sat (elemAt sk.width e v).toNat

/-- The sticky bits that element e raises under a mask (R101). -/
def maskedWarns (K : Word) (n e : Nat) (w : Warns) : Warns := if governs K n e then w else w &&& 1

/-- The tile once a VCVT has written n results, each with its sticky bits. -/
def Tile.convertedV (T : Tile) (d : Reg) (k : KReg) (w n : Nat) (fallback : Bool) (res : List (Nat × Warns)) : Tile :=
  ((T.raise ((mapFrom (fun e (x : Nat × Warns) => maskedWarns (T.kreg k.toNat) n e x.2) 0 res).foldl (· ||| ·) 0)).raise
    (warnOf warnVfb fallback)).putV d
      (BitVec.ofNat 2048 (packElems w (maskMerge (T.kreg k.toNat) n (res.map (·.1)) (elemsOf w n (T.priorV d)))))

theorem TileDone.convertedV {T T' : Tile} {f : Front} {fm : Form} {x : Effect} (h : TileDone T T' f fm x) (d : Reg) (k : KReg) {w n : Nat}
    (hn : w * n ≤ 2048) (fallback : Bool) (res : Nat → Nat × Warns) (hv : x.vdst = [] := by rfl) (hr : x.vresv = [] := by rfl)
    (hb : x.body = id := by rfl) :
    ∃ V, Masked V (T.kreg k.toNat) w n d (T.vreg d.toNat) (fun e => BitVec.ofNat w (res e).1) ∧
      TileDone T (T'.convertedV d k w n fallback ((List.range n).map res)) f fm { x with
        vdst := [(d, V)],
        warns := x.warns ||| (List.range n).foldl (fun u e => u ||| maskedWarns (T.kreg k.toNat) n e (res e).2) 0 ||| warnOf 7 fallback } := by
  have hraise := (h.raise ((List.range n).foldl (fun u e => u ||| maskedWarns (T.kreg k.toNat) n e (res e).2) 0)).raise
    (warnOf warnVfb fallback)
  obtain ⟨V, hV, hdone⟩ := hraise.putMerged d k hn (fun e => (res e).1) hv hr hb
  refine ⟨V, hV, ?_⟩
  rw [Tile.convertedV, mapFrom_map_range, List.foldl_map, List.map_map, h.kreg hb]
  have hk := hraise.kreg hb k.toNat
  rw [hk] at hdone
  exact hdone

theorem vcvt_executed {s : State} {d a : Reg} {t u : BitVec 5} {sat : Bool} {k : KReg} {tk sk : CKind} {n : Nat}
    (htk : ckind (vcvtCode t) = tk) (hsk : ckind (vcvtCode u) = sk) (hn : 2048 / max (max sk.width tk.width) 8 = n)
    (h : Ready s { instr := .vcvt d a t u sat k, onA := false, rv := [a], wv := [d] }) :
    ∃ V t', Masked V (s.mask k) tk.width n d (s.prior d) (fun e => BitVec.ofNat tk.width (convElem s tk sk sat (s.vsrc [a] 0) e).1) ∧
      exec (.vcvt d a t u sat k) s = .next t' ∧
      Executed s t' { instr := .vcvt d a t u sat k, onA := false, rv := [a], wv := [d] } {
        vdst := [(d, V)], draws := convRounds tk sk,
        warns := (List.range n).foldl (fun w e => w ||| maskedWarns (s.mask k) n e (convElem s tk sk sat (s.vsrc [a] 0) e).2) 0 |||
          warnOf 7 (t == 18 || t == 19 || u == 18 || u == 19) } := by
  have hwidth : tk.width * n ≤ 2048 := by
    rw [← hn]
    exact (Nat.mul_le_mul_right _ (by omega)).trans (Nat.mul_div_le 2048 (max (max sk.width tk.width) 8))
  have hsample := (start_done { instr := .vcvt d a t u sat k, onA := false, rv := [a], wv := [d] } s.cur s.focus.2).sample rfl rfl
    (convRounds tk sk)
  obtain ⟨V, hV, hdone⟩ := hsample.convertedV d k hwidth (t == 18 || t == 19 || u == 18 || u == 19)
    (convElem s tk sk sat (s.vsrc [a] 0))
  simp only [BitVec.ofNat_eq_ofNat, BitVec.zero_or] at hdone
  obtain ⟨t', ht, he⟩ := issueTile_executed h (fun T f I => (T.sample f (convRounds tk sk)).2.convertedV d k tk.width n
      (t == 18 || t == 19 || u == 18 || u == 19) (mapFrom (fun e x => convert tk sk { (T.sample f (convRounds tk sk)).1 with i := e } sat x) 0
        (elemsOf sk.width n (I.v 0).toNat)))
    (by
      rw [← State.operands, operands_v, elemsOf_toNat, mapFrom_map_range, start_sample]
      exact hdone) h.phase_ne_idle
  refine ⟨V, t', hV, ?_, he⟩
  subst htk hsk hn
  exact ht

/-! ### The words -/

theorem kpopc_completes (d : Reg) (a : KReg) : Completes (.kpopc d a) { instr := .kpopc d a, onA := false, ws := [d] }
    (fun s => { dst := [(d, BitVec.ofNat 64 ((List.range 64).filter (fun i => (s.mask a).getLsbD i)).length)] }) := by
  refine issueS_completes (fm := { instr := .kpopc d a, onA := false }) (val := fun T _ _ => extZ (popCount 64 (T.kreg a.toNat).toNat))
    (fun _ => rfl) fun s => ?_
  rw [start_mask, popCount_eq_length]; rfl

/-- Settles O29: the compares in their integer and float forms, then each word by its own lemma. -/
theorem vectorMoveAndMaskWordsComplete : Obligations.VectorMoveAndMaskWordsComplete := by
  unfold Obligations.VectorMoveAndMaskWordsComplete
  refine ⟨fun kd a b m w bf fl c s => ?vcmp, fun d a b k w s => vsel_executed, vbcast_completes, viota_completes, vperm_completes,
    vextr_completes, fun d a t u sat k s _ => ?vcvt, fun d a b => ?kand, fun d a b => ?kor, fun d a => ?knot, kpopc_completes⟩
  case vcmp =>
    intro fm h n holds hready
    cases fl with
    | false => exact compare_executed ⟨w, rfl⟩ hready rfl fun e => vcmpElem_none c _ _
    | true => exact compare_executed ⟨floatWidth w, floatWidth_nbits w bf⟩ hready (exec_vcmp_float ..) fun e => vcmpElem_some ..
  case vcvt =>
    intro fm code tk sk n draws res h
    have hres : ∀ e, convElem s tk sk sat (s.vsrc [a] 0) e = res e := fun e => by
      rw [convElem, sampledIf_at]; rfl
    have hv := vcvt_executed (tk := tk) (sk := sk) (n := n) rfl rfl rfl h
    simp only [hres] at hv
    exact hv
  case kand => exact setKreg_completes (fun _ => rfl) fun s => by rw [start_mask, start_mask]
  case kor => exact setKreg_completes (fun _ => rfl) fun s => by rw [start_mask, start_mask]
  case knot => exact setKreg_completes (fun _ => rfl) fun s => by rw [start_mask]

end Sys2Proof.Machine
end
section
/-! ## Proofs: scratchpad vector loads and stores -/

namespace Sys2Proof.Machine

/-! ### The address and the elements of a scratchpad vector form (R120, R121) -/

/-- The address of a VLDS, VLDT or VSTS, of its operands. -/
theorem vaddr_operands (s : State) (fm : Form) (o : BitVec 6) :
    vaddr ((s.operands fm).s 0) (s.operands fm).himm o = vlocalAddr s fm.rs o := by
  rw [vaddr, vlocalAddr, operands_s, operands_himm]
  cases s.hints.himm with
  | none => rw [immS_none]
  | some p => rw [immS_some]

theorem gatherElems_eq_map (T : Tile) (x pitch nb n : Nat) :
    T.gatherElems x pitch nb n = (List.range n).map (fun e => T.localNat (x + pitch * e) nb) := by
  induction n generalizing x with
  | zero => rfl
  | succ n ih =>
    rw [Tile.gatherElems, ih, List.range_succ_eq_map, List.map_cons, List.map_map, Nat.mul_zero, Nat.add_zero]
    refine congrArg _ (List.map_congr_left fun e _ => ?_)
    rw [Nat.add_assoc, Nat.add_comm pitch, ← Nat.mul_succ]; rfl

/-- A number of n bytes is itself modulo 256^n. -/
theorem toNat_mod_bytes {n : Nat} (v : BitVec (8 * n)) : v.toNat % 256 ^ n = v.toNat := by
  have hlt := v.isLt
  rw [Nat.pow_mul] at hlt
  exact Nat.mod_eq_of_lt hlt

/-! ### A vector on its way to a port (R28, R120) -/

/-- A vector load reserves a slot of its port, and the vector sets out. -/
theorem loadToV_eq (s : State) (f : Front) (d : Reg) (v : Vec) : s.loadToV f d v =
    { (s.setTile s.focus.1 ((s.tile s.focus.1).reserveV d s.nextId).2).modTile s.focus.1
        (fun T => T.addFill f s.nextId (.vport (d.toNat - 28)) v) with
      nextId := s.nextId + 1, agenda := s.agenda ++ [.localLoadFill s.focus.1 s.nextId] } := rfl

/-- A vector destination on the A-front is a port (R28). -/
theorem Ready.vport_of_onA {s : State} {fm : Form} (h : Ready s fm) (hX : fm.onX = false) {d : Reg} (hd : d ∈ fm.wv) : 28 ≤ d.toNat := by
  have hdst := h.vdst_ok hd
  rw [h.focus_a hX] at hdst
  simp only [dstVOk, Bool.and_eq_true, decide_eq_true_eq] at hdst
  exact hdst.1

/-- A word of the A-front that loads v into the port d has been executed with the load's effect. -/
theorem loadV_executed {s : State} {fm : Form} (h : Ready s fm) (hX : fm.onX = false) {d : Reg} (hd : d ∈ fm.wv) {v : Vec}
    {body : State → Issue → Verdict} (hu : body (s.begun fm) (s.operands fm) = .done ((s.begun fm).loadToV s.focus.2 d v)) :
    ∃ t, issue s fm body = .next t ∧ Executed s t fm (vloadEffect s d v) := by
  have hresv := (start_done fm s.cur s.focus.2).reserveV d s.nextId (h.vport_of_onA hX hd)
  have hfill := hresv.onBody (fun T => T.addFill s.focus.2 s.nextId (.vport (d.toNat - 28)) v) (fun _ _ _ _ _ _ _ => rfl)
  have hset := h.curOnly_begun.setTile (h.done_ne_reset hresv)
  have hbegun : (s.begun fm).tile s.focus.1 = (fm.start s.cur s.focus.2).2 := begun_cur h
  have hne := h.done_ne_reset hfill
  have hmod := hset.modTile (g := fun T => T.addFill s.focus.2 s.nextId (.vport (d.toNat - 28)) v) hne
  have heff : vloadEffect s d v =
      { vresv := [(d, s.nextId)], ids := 1, posts := [.localLoadFill s.focus.1 s.nextId],
        body := fun T => T.addFill s.focus.2 s.nextId (.vport (d.toNat - 28)) v } := rfl
  rw [heff]
  refine hmod.executed_sending h (hu.trans ?_) (hfill.sends 1 _)
  rw [loadToV_eq, begun_focus, hbegun, List.append_nil]; rfl

/-! ### VLDS -/

/-- The forms that a VLDS, a VLDT and a VSTS issue with. -/
def vldsForm (d b : Reg) (o : BitVec 6) : Form := { instr := .vlds d b o, onX := false, rs := [b], wv := [d], himm := true, hpri := true }
def vldtForm (d b : Reg) (w : Width) (o : BitVec 6) : Form :=
  { instr := .vldt d b w o, onX := false, rs := [b], wv := [d], himm := true, hmod := 0xFFFF, hpri := true }
def vstsForm (d b : Reg) (o : BitVec 6) : Form := { instr := .vsts d b o, onX := false, rs := [b], rv := [d], himm := true, hpri := true }

section
variable {s : State} {d b : Reg} {o : BitVec 6} (h : Ready s (vldsForm d b o))
include h

/-- A VLDS with its address x in range, aligned and free to be read loads the bytes there. -/
theorem vlds_executed {x : Int} (hx : vlocalAddr s [b] o = x) (hc : localCause x 256 codeEnd 4 = none)
    (hfree : s.localHeld s.focus.2 x.toNat 256 false = false) : ∃ t, execVlds d b o s = .next t ∧
      Executed s t (vldsForm d b o) (vloadEffect s d (BitVec.ofNat 2048 (s.cur.localNat x.toNat 256))) := by
  refine loadV_executed h rfl (List.mem_singleton_self d) ?_
  dsimp only
  rw [vaddr_operands s (vldsForm d b o), show vlocalAddr s (vldsForm d b o).rs o = x from hx, hc]
  dsimp only
  rw [begun_localHeld h]
  refine (if_neg (Bool.eq_false_iff.1 hfree)).trans ?_
  rw [begun_focus, begun_localNat h]

/-- A VLDS whose address x raises a cause traps with it. -/
theorem vlds_traps {x : Int} (hx : vlocalAddr s [b] o = x) {code : Nat} (hc : localCause x 256 codeEnd 4 = some code) :
    execVlds d b o s = .next (preciseTrap s code (BitVec.ofInt 64 x)) := by
  refine issue_traps h ?_
  dsimp only
  rw [vaddr_operands s (vldsForm d b o), show vlocalAddr s (vldsForm d b o).rs o = x from hx, hc]

end

/-! ### VLDT (R121) -/

/-- The pitch that a bound HMOD gives, 256 without one. -/
def pitchOf (h : Option (BitVec 22)) : Nat := match h with | none => 256 | some m => m.toNat % 2 ^ 16

/-- The bytes that the elements at a pitch span. -/
def gatherSpan (w : Width) (p : Nat) : Nat := p * (2048 / w.nbits - 1) + w.nbytes

/-- What a VLDT says of its address x and pitch p on the state in which its sources are read. -/
def vldtVerdict (d : Reg) (w : Width) (x : Int) (p : Nat) (s : State) : Verdict :=
  match localCause x (gatherSpan w p) codeEnd w.nbytes with
  | some c => .trap c (BitVec.ofInt 64 x)
  | none =>
    if p = 0 ∨ p % w.nbytes ≠ 0 then .trap 0x08 (BitVec.ofInt 64 x)
    else if s.localHeld s.focus.2 x.toNat (gatherSpan w p) false then .wait
    else .done (s.loadToV s.focus.2 d (BitVec.ofNat 2048 (packElems w.nbits
      ((s.tile s.focus.1).gatherElems x.toNat p w.nbytes (2048 / w.nbits)))))

theorem execVldt_eq (d b : Reg) (w : Width) (o : BitVec 6) (s : State) : execVldt d b w o s =
    issue s (vldtForm d b w o) (fun u I => vldtVerdict d w (vaddr (I.s 0) I.himm o) (pitchOf I.hmod) u) := by
  refine congrArg (issue s (vldtForm d b w o)) (funext fun u => funext fun I => ?_)
  obtain ⟨ipc, himm, hmod, hpri, ss, vs⟩ := I
  cases hmod <;> rfl

section
variable {s : State} {d b : Reg} {w : Width} {o : BitVec 6}

theorem vldt_operands {x : Int} (hx : vlocalAddr s [b] o = x) {p : Nat} (hp : pitchOf s.hints.hmod = p) :
    vldtVerdict d w (vaddr ((s.operands (vldtForm d b w o)).s 0) (s.operands (vldtForm d b w o)).himm o)
      (pitchOf (s.operands (vldtForm d b w o)).hmod) (s.begun (vldtForm d b w o)) = vldtVerdict d w x p (s.begun (vldtForm d b w o)) := by
  rw [vaddr_operands, ← hx, ← hp]; rfl

variable (h : Ready s (vldtForm d b w o))
include h

/-- A VLDT with its elements in range and its address and pitch aligned loads one element at each step of the pitch. -/
theorem vldt_executed {x : Int} (hx : vlocalAddr s [b] o = x) {p : Nat} (hp : pitchOf s.hints.hmod = p)
    (hc : localCause x (gatherSpan w p) codeEnd w.nbytes = none) (hpitch : ¬ (p = 0 ∨ p % w.nbytes ≠ 0))
    (hfree : s.localHeld s.focus.2 x.toNat (gatherSpan w p) false = false) : ∃ t, execVldt d b w o s = .next t ∧
      Executed s t (vldtForm d b w o) (vloadEffect s d
        (vecOf w.nbits (2048 / w.nbits) (fun e => s.cur.localNat (x.toNat + p * e) w.nbytes))) := by
  rw [execVldt_eq]
  refine loadV_executed h rfl (List.mem_singleton_self d) ?_
  rw [vldt_operands hx hp, vldtVerdict, hc]
  dsimp only
  rw [if_neg hpitch, begun_localHeld h]
  refine (if_neg (Bool.eq_false_iff.1 hfree)).trans ?_
  rw [begun_focus, gatherElems_eq_map]
  simp only [begun_localNat h]
  rfl

/-- A VLDT that raises a cause by its range, its address or its pitch traps with it. -/
theorem vldt_traps {x : Int} (hx : vlocalAddr s [b] o = x) {p : Nat} (hp : pitchOf s.hints.hmod = p) {code : Nat}
    (hc : localCause x (gatherSpan w p) codeEnd w.nbytes = some code ∨
      localCause x (gatherSpan w p) codeEnd w.nbytes = none ∧ (p = 0 ∨ p % w.nbytes ≠ 0) ∧ code = 0x08) :
    execVldt d b w o s = .next (preciseTrap s code (BitVec.ofInt 64 x)) := by
  rw [execVldt_eq]
  refine issue_traps h ?_
  rw [vldt_operands hx hp, vldtVerdict]
  rcases hc with hc | ⟨hc, hpitch, rfl⟩
  · rw [hc]
  · rw [hc]; exact if_pos hpitch

end

/-! ### VSTS -/

/-- A word that stores n bytes of v at a has been executed with the store. -/
theorem store_executed {s : State} {fm : Form} (h : Ready s fm) {a n v : Nat} {body : State → Issue → Verdict}
    (hu : body (s.begun fm) (s.operands fm) = .done ((s.begun fm).modTile s.focus.1 (fun T => T.spadPut a n v))) :
    ∃ t, issue s fm body = .next t ∧ Executed s t fm { body := fun T => T.spadPut a n v } := by
  have hdone := (start_done fm s.cur s.focus.2).onBody (fun T => T.spadPut a n v) (fun _ _ _ _ _ _ _ => rfl)
  have hne := h.done_ne_reset hdone
  exact (h.curOnly_begun.modTile (g := fun T => T.spadPut a n v) hne).executed h hu hdone

/-- The scratchpad after a store. -/
theorem Executed.stored {s t : State} {fm : Form} {a n v : Nat} (he : Executed s t fm { body := fun T => T.spadPut a n v }) :
    t.cur.spad = memPutNat s.cur.spad a n v := by rw [he.tile.kept]; rfl

section
variable {s : State} {d b : Reg} {o : BitVec 6} (h : Ready s (vstsForm d b o))
include h

/-- A VSTS with its address x in range, aligned and free to be written stores its vector there. -/
theorem vsts_executed {x : Int} (hx : vlocalAddr s [b] o = x) (hc : localCause x 256 spadEnd 4 = none)
    (hfree : s.localHeld s.focus.2 x.toNat 256 true = false) : ∃ t, execVsts d b o s = .next t ∧
      Executed s t (vstsForm d b o) { body := fun T => T.spadPut x.toNat 256 (s.vsrc [d] 0).toNat } := by
  refine store_executed h ?_
  dsimp only
  rw [vaddr_operands s (vstsForm d b o), show vlocalAddr s (vstsForm d b o).rs o = x from hx, hc]
  dsimp only
  rw [begun_localHeld h]
  refine (if_neg (Bool.eq_false_iff.1 hfree)).trans ?_
  rw [operands_v]; rfl

/-- A VSTS whose address x raises a cause traps with it. -/
theorem vsts_traps {x : Int} (hx : vlocalAddr s [b] o = x) {code : Nat} (hc : localCause x 256 spadEnd 4 = some code) :
    execVsts d b o s = .next (preciseTrap s code (BitVec.ofInt 64 x)) := by
  refine issue_traps h ?_
  dsimp only
  rw [vaddr_operands s (vstsForm d b o), show vlocalAddr s (vstsForm d b o).rs o = x from hx, hc]

end

/-- Settles O31: for each word the address's checks in their order, then the vector that sets out or the bytes written. -/
theorem scratchpadVectorWordsComplete : Obligations.ScratchpadVectorWordsComplete := by
  unfold Obligations.ScratchpadVectorWordsComplete
  refine ⟨fun d b o s => ?vlds, fun d b w o s => ?vldt, fun d b o s => ?vsts⟩
  case vlds =>
    intro fm x h
    exact ⟨fun h0 h1 h2 hfree => vlds_executed h rfl (localCause_none h0 h1 h2) hfree, fun hr => vlds_traps h rfl (localCause_range hr),
      fun h0 h1 h2 => vlds_traps h rfl (localCause_align h0 h1 h2)⟩
  case vldt =>
    intro fm x p n span h
    refine ⟨fun h0 h1 h2 hp hpm hfree => ?loads, fun hr => vldt_traps h rfl rfl (.inl (localCause_range hr)), fun h0 h1 hbad => ?bad⟩
    case loads =>
      obtain ⟨t, ht, he⟩ := vldt_executed h rfl rfl (localCause_none h0 h1 h2) (by rintro (h | h); exacts [hp h, h hpm]) hfree
      exact ⟨_, t, fun e he => elemAt_vecOf (Nat.mul_div_le 2048 _) _ he, ht, he⟩
    case bad =>
      by_cases hx : x % w.nbytes = 0
      · exact vldt_traps h rfl rfl (.inr ⟨localCause_none h0 h1 hx, hbad.resolve_left fun hn => hn hx, rfl⟩)
      · exact vldt_traps h rfl rfl (.inl (localCause_align h0 h1 hx))
  case vsts =>
    intro fm x h
    refine ⟨fun h0 h1 h2 hfree => ?stores, fun hr => vsts_traps h rfl (localCause_range hr),
      fun h0 h1 h2 => vsts_traps h rfl (localCause_align h0 h1 h2)⟩
    obtain ⟨t, ht, he⟩ := vsts_executed h rfl (localCause_none h0 h1 h2) hfree
    have hspad : t.cur.spad = memPutNat s.cur.spad x.toNat 256 (s.vsrc [d] 0).toNat := he.stored
    refine ⟨t, ht, he, fun hwf => ?_, fun a ha => ?_⟩
    · rw [hspad, memNat_memPutNat hwf]
      exact toNat_mod_bytes (n := 256) _
    · rw [hspad, memGet_memPutNat_other _ _ _ _ ha]

end Sys2Proof.Machine
end
section
/-! ## Proofs: trees and scans of an associative operation -/

namespace Sys2Proof.Machine

/-! ### Steps in which a side may be absent (R114) -/

/-- The combination of the elements that are present, in order. -/
def combine (g : Nat → Nat → Nat) (l : List (Option Nat)) : Option Nat := l.foldl (Option.merge g) none

theorem ropStep_eq_merge (g : Nat → Nat → Nat) (r : Rnd) (x y : Option Nat) : ropStep (fun _ => g) r x y = Option.merge g x y := by
  cases x <;> cases y <;> rfl

section
variable (g : Nat → Nat → Nat) [Std.Associative g]

theorem combine_append (l m : List (Option Nat)) : combine g (l ++ m) = Option.merge g (combine g l) (combine g m) := by
  have := Option.associative_merge g
  rw [combine, combine, combine, List.foldl_append, ← List.foldl_assoc (op := Option.merge g), Option.merge_none_right]

/-! ### The tree (R115) -/

theorem pairLevel_length (op : Rnd → Nat → Nat → Nat) (r : Rnd) (i : Nat) :
    ∀ l : List (Option Nat), (pairLevel op r i l).length = (l.length + 1) / 2
  | [] => rfl
  | [_] => by simp [pairLevel]
  | x :: y :: l => by
    rw [pairLevel, List.length_cons, pairLevel_length, List.length_cons, List.length_cons]; omega

/-- A level of the tree keeps the combination. -/
theorem combine_pairLevel (r : Rnd) (i : Nat) : ∀ l, combine g (pairLevel (fun _ => g) r i l) = combine g l
  | [] => rfl
  | [_] => rfl
  | x :: y :: l => by
    have hpair : combine g [ropStep (fun _ => g) r x y] = combine g [x, y] := by
      rw [ropStep_eq_merge, combine, combine, List.foldl_cons, List.foldl_cons, List.foldl_cons, Option.merge_none_left,
        Option.merge_none_left]
    rw [pairLevel, ← List.singleton_append, combine_append, combine_pairLevel r (i + 1) l]
    exact (congrArg (Option.merge g · (combine g l)) hpair).trans (combine_append g [x, y] l).symm

/-- The tree over all its levels is the combination in order. -/
theorem treeReduce_eq_combine (r : Rnd) (k i : Nat) (l : List (Option Nat)) (hl : l.length = 2 ^ k) :
    treeReduce (fun _ => g) r k i l = combine g l := by
  induction k generalizing i l with
  | zero =>
    obtain ⟨x, rfl⟩ := List.length_eq_one_iff.1 hl
    exact (Option.merge_none_left (f := g)).symm
  | succ k ih =>
    rw [treeReduce, ih _ _ (by rw [pairLevel_length, hl, Nat.pow_succ]; omega), combine_pairLevel]

/-! ### The scan (R116) -/

/-- The combination of the d elements up to number e, or of all of them where they are fewer. -/
def window (f : Nat → Option Nat) (d e : Nat) : Option Nat := combine g ((List.range' (e + 1 - d) (min d (e + 1))).map f)

omit [Std.Associative g] in
theorem window_one (f : Nat → Option Nat) (e : Nat) : window g f 1 e = f e := by
  rw [window, Nat.min_eq_left (by omega), Nat.add_sub_cancel]
  exact Option.merge_none_left

omit [Std.Associative g] in
theorem window_all (f : Nat → Option Nat) {d e : Nat} (h : e < d) : window g f d e = combine g ((List.range (e + 1)).map f) := by
  rw [window, Nat.min_eq_right h, Nat.sub_eq_zero_of_le h, List.range_eq_range']

/-- A window twice as long is the window before it with the window. -/
theorem window_double (f : Nat → Option Nat) (d e : Nat) :
    window g f (2 * d) e = if e < d then window g f d e else Option.merge g (window g f d (e - d)) (window g f d e) := by
  split
  · next h => rw [window_all g f h, window_all g f (by omega)]
  · next h =>
    rw [window, window, window, ← combine_append, ← List.map_append]
    rw [show e + 1 - d = (e - d + 1 - d) + min d (e - d + 1) by omega, List.range'_append_1,
      show e + 1 - 2 * d = e - d + 1 - d by omega, show min (2 * d) (e + 1) = min d (e - d + 1) + min d (e + 1) by omega]

omit [Std.Associative g] in
/-- A doubling step, element by element. -/
theorem scanStep_map_range (r : Rnd) (i d n : Nat) (f : Nat → Option Nat) : scanStep (fun _ => g) r i d ((List.range n).map f) =
    (List.range n).map (fun e => if e < d then f e else Option.merge g (f (e - d)) (f e)) := by
  rw [scanStep, mapFrom_eq_mapIdx]
  refine List.ext_getElem (by simp; omega) fun e h1 h2 => ?_
  have hn : e < n := by simpa using h2
  rw [List.getElem_append, List.getElem_map, List.getElem_range]
  by_cases hd : e < d
  · rw [dif_pos (by simp; omega), if_pos hd]; simp
  · rw [dif_neg (by simp; omega), if_neg hd, List.getElem_mapIdx, ropStep_eq_merge]
    have hlen : (List.take d ((List.range n).map f)).length = d := by simp; omega
    simp only [hlen, List.getElem_zip, List.getElem_drop, List.getElem_map, List.getElem_range]
    rw [Nat.add_sub_cancel' (Nat.not_lt.1 hd)]

/-- The doubling steps lengthen every element's window. -/
theorem scanAll_windows (r : Rnd) (k i d n : Nat) (f : Nat → Option Nat) :
    scanAll (fun _ => g) r k i d ((List.range n).map (window g f d)) = (List.range n).map (window g f (2 ^ k * d)) := by
  induction k generalizing i d with
  | zero => rw [scanAll, Nat.pow_zero, Nat.one_mul]
  | succ k ih =>
    rw [scanAll, scanStep_map_range]
    simp only [← window_double]
    rw [ih, Nat.pow_succ, Nat.mul_assoc]

/-- The scan leaves in each element the combination of the elements up to it. -/
theorem scanAll_eq_combine (r : Rnd) {k n : Nat} (i : Nat) (hk : n ≤ 2 ^ k) (f : Nat → Option Nat) :
    scanAll (fun _ => g) r k i 1 ((List.range n).map f) = (List.range n).map (fun e => combine g ((List.range (e + 1)).map f)) := by
  have hscan := scanAll_windows g r k i 1 n f
  rw [funext (window_one g f), Nat.mul_one] at hscan
  rw [hscan]
  exact List.map_congr_left fun e he => window_all g f ((List.mem_range.1 he).trans_le hk)

end

theorem scanStep_length (op : Rnd → Nat → Nat → Nat) (r : Rnd) (i d : Nat) (l : List (Option Nat)) :
    (scanStep op r i d l).length = l.length := by
  rw [scanStep, mapFrom_eq_mapIdx]; simp; omega

theorem scanAll_length (op : Rnd → Nat → Nat → Nat) (r : Rnd) (k i d : Nat) (l : List (Option Nat)) :
    (scanAll op r k i d l).length = l.length := by
  induction k generalizing i d l with
  | zero => rfl
  | succ k ih => rw [scanAll, ih, scanStep_length]

end Sys2Proof.Machine
end
section
/-! ## Proofs: reductions and scans -/

namespace Sys2Proof.Machine

/-! ### The integer operations and their identities (R114, R115) -/

theorem ropInt_associative (o : ROp) (w : Nat) : Std.Associative (ropInt o w) := by
  constructor
  intro a b c
  cases o with
  | add => simp only [ropInt, aluAdd, Nat.mod_add_mod, Nat.add_mod_mod, Nat.add_assoc]
  | min => simp only [ropInt, aluMin]; split_ifs <;> omega
  | max => simp only [ropInt, aluMax]; split_ifs <;> omega
  | and => exact Nat.and_assoc a b c
  | or => exact Nat.or_assoc a b c
  | xor => exact Nat.xor_assoc a b c

theorem ropInt_toNat (o : ROp) {w : Nat} (x y : BitVec w) : ropInt o w x.toNat y.toNat = (intRop o w x y).toNat := by
  cases o with
  | add => exact (BitVec.toNat_add x y).symm
  | min => exact aluMin_toNat x y
  | max => exact aluMax_toNat x y
  | and => exact (BitVec.toNat_and x y).symm
  | or => exact (BitVec.toNat_or x y).symm
  | xor => exact (BitVec.toNat_xor x y).symm

theorem allOnes_shift_eq_intMax (w : Nat) : BitVec.allOnes w >>> 1 = BitVec.intMax w := by
  apply BitVec.eq_of_getLsbD_eq
  intro i hi
  rw [BitVec.getLsbD_ushiftRight, BitVec.getLsbD_allOnes, BitVec.getLsbD_intMax, Nat.add_comm]

theorem intRop_identity (o : ROp) {w : Nat} (x : BitVec w) : intRop o w (intIdentity o w) x = x := by
  cases o with
  | add => exact BitVec.zero_add x
  | min =>
    have hlt : x.toInt < 2 ^ (w - 1) := BitVec.toInt_lt
    simp only [intRop, intIdentity, allOnes_shift_eq_intMax]
    split
    · next h =>
      rw [BitVec.sle, decide_eq_true_eq] at h
      exact BitVec.eq_of_toInt_eq (by rw [BitVec.toInt_intMax] at h ⊢; omega)
    · rfl
  | max => exact if_pos (BitVec.intMin_sle x)
  | and => exact BitVec.allOnes_and
  | or => exact BitVec.zero_or
  | xor => exact BitVec.zero_xor

/-- What a VRED gives without inputs, in the format of its shape. -/
def ropDefault (fm : Option FFormat) (o : ROp) (w : Nat) : Nat :=
  match fm, o with
  | some f, .min => f.overflowCode false
  | some f, .max => f.overflowCode true
  | _, _ => (intIdentity o w).toNat

theorem ropIdentity_eq (fm : Option FFormat) (o : ROp) {w : Nat} (hw : 0 < w) :
    ropIdentity (if o == .min || o == .max then fm else none) o w = ropDefault fm o w := by
  have hmin : (intIdentity .min w).toNat = 2 ^ (w - 1) - 1 := by rw [intIdentity, allOnes_shift_eq_intMax, BitVec.toNat_intMax]
  have hmax : (intIdentity .max w).toNat = 2 ^ (w - 1) := BitVec.toNat_intMin_of_pos hw
  have hand : (intIdentity .and w).toNat = 2 ^ w - 1 := BitVec.toNat_allOnes
  have hzero : (0 : BitVec w).toNat = 0 := BitVec.toNat_zero
  cases fm with
  | none =>
    cases o with
    | add | or | xor => exact hzero.symm
    | min => exact hmin.symm
    | max => exact hmax.symm
    | and => exact hand.symm
  | some f =>
    cases o with
    | add | or | xor => exact hzero.symm
    | min | max => rfl
    | and => exact hand.symm

/-! ### The enabled elements in order -/

section
variable (K : Word) (w : Nat) (v : Vec)

/-- Element e as an input. -/
def inputAt (e : Nat) : Option Nat := if governs K (2048 / w) e then some (elemAt w e v).toNat else none

theorem inputsOf_eq_map : inputsOf K w v = (List.range (2048 / w)).map (inputAt K w v) := rfl

theorem enabledBelow_succ (n : Nat) : enabledBelow K w (n + 1) v =
    enabledBelow K w n v ++ if governs K (2048 / w) n then [elemAt w n v] else [] := by
  rw [enabledBelow, List.range_succ, List.filter_append, List.map_append, enabledBelow]
  cases h : governs K (2048 / w) n <;> simp [h]

/-- The inputs below n combine to the fold of the enabled elements, and to nothing where none is enabled. -/
theorem combine_inputs (o : ROp) (n : Nat) : combine (ropInt o w) ((List.range n).map (inputAt K w v)) =
    if enabledBelow K w n v = [] then none
    else some ((enabledBelow K w n v).foldl (intRop o w) (intIdentity o w)).toNat := by
  have := ropInt_associative o w
  induction n with
  | zero => rfl
  | succ n ih =>
    have hone : combine (ropInt o w) [inputAt K w v n] = inputAt K w v n := Option.merge_none_left
    rw [List.range_succ, List.map_append, combine_append, ih, List.map_singleton, hone, enabledBelow_succ, inputAt]
    by_cases hg : governs K (2048 / w) n = true
    · rw [if_pos hg, if_pos hg, List.foldl_append, if_neg (List.append_ne_nil_of_right_ne_nil _ (List.cons_ne_nil _ _))]
      by_cases hnil : enabledBelow K w n v = []
      · rw [if_pos hnil, hnil, Option.merge_none_left, List.foldl_nil, List.foldl_cons, List.foldl_nil, intRop_identity]
      · rw [if_neg hnil, Option.merge_some_some, ropInt_toNat]; rfl
    · rw [if_neg hg, if_neg hg, List.append_nil, Option.merge_none_right]

end

/-! ### VRED and VSCAN at their shape (R65, R114) -/

section
variable (w : Width) (bf fl : Bool) (o : ROp)

/-- The width at which a VRED or VSCAN is performed, and its format. -/
def ropWidth : Width := if fl then floatWidth w else w
def ropFmt : Option FFormat := if fl then some (vecFmt (ropWidth w fl) bf) else none

theorem ropWidth_nbits : (ropWidth w fl).nbits = (ropShape w bf fl o).1 := by
  cases fl with
  | false => rfl
  | true => exact floatWidth_nbits w bf

theorem ropFmt_eq : ropFmt w bf fl = (ropShape w bf fl o).2.1 := by
  cases fl with
  | false => rfl
  | true => exact congrArg some (vecFmt_floatWidth w bf)

theorem ropFallback_eq : ropFallback w bf fl o = (ropShape w bf fl o).2.2 := by
  cases fl with
  | false => rfl
  | true =>
    have hops : (o == .and || o == .or || o == .xor) = [ROp.and, .or, .xor].contains o := by cases o <;> rfl
    rw [ropShape, if_pos rfl, ← floatFallback_eq, ← hops, ropFallback, if_pos rfl, Bool.or_assoc, Bool.or_assoc, Bool.or_assoc]

end

theorem nbits_pos (w : Width) : 0 < w.nbits := by cases w <;> decide
theorem logElems_eq (w : Width) : logElems w = treeDepth w.nbits := by cases w <;> decide
theorem two_pow_treeDepth (w : Width) : 2048 / w.nbits = 2 ^ treeDepth w.nbits := by cases w <;> decide

theorem maskInputs_eq (K : Word) (w : Nat) (v : Vec) : maskInputs K (2048 / w) (vecElems w v) = inputsOf K w v := by
  rw [maskInputs, vecElems_eq_map, mapFrom_map_range]; rfl

section
variable {s : State} {d a : Reg} {k : KReg} {w : Width} {bf fl : Bool} {o : ROp}

/-- A word that reduces or scans has been executed with what its last step makes of the inputs on its tile. -/
theorem vecRop_executed {i : Instr} {fin : Tile → Width → Option FFormat → (Rnd → Nat → Nat → Nat) → Rnd → List (Option Nat) → Tile}
    {x : Effect} (h : Ready s { instr := i, onA := false, rv := [a], wv := [d] }) (hx : exec i s = vecRop s i d a k w bf fl o fin)
    (hd : TileDone s.cur (fin ((Form.start { instr := i, onA := false, rv := [a], wv := [d] } s.cur s.focus.2).2.sampleRaise s.focus.2
        (ropFallback w bf fl o) (fl && o == .add)) (ropWidth w fl) (ropFmt w bf fl) (ropElem (ropFmt w bf fl) o (ropWidth w fl).nbits)
        (sampledIf s (fl && o == .add)) (inputsOf (s.mask k) (ropWidth w fl).nbits (s.vsrc [a] 0))) s.focus.2
        { instr := i, onA := false, rv := [a], wv := [d] } x)
    (hb : x.body = id := by rfl) (hi : x.ids = 0 := by rfl) (ht : x.txns = [] := by rfl) (hp : x.posts = [] := by rfl) :
    ∃ t, exec i s = .next t ∧ Executed s t { instr := i, onA := false, rv := [a], wv := [d] } x := by
  have hmask := (start_sampleRaise s { instr := i, onA := false, rv := [a], wv := [d] } (ropFallback w bf fl o)
    (fl && o == .add)).kreg rfl k.toNat
  obtain ⟨t, hte, he⟩ := issueTile_executed h (fun T f I => fin (T.sampleRaise f (ropFallback w bf fl o) (fl && o == .add)) (ropWidth w fl)
      (ropFmt w bf fl) (ropElem (ropFmt w bf fl) o (ropWidth w fl).nbits) (T.sample f (fl && o == .add)).1
      (maskInputs ((T.sampleRaise f (ropFallback w bf fl o) (fl && o == .add)).kreg k.toNat) (2048 / (ropWidth w fl).nbits)
        (vecElems (ropWidth w fl).nbits (I.v 0))))
    (by
      rw [← State.operands, operands_v, maskInputs_eq, start_sample, hmask]
      exact hd) (by rw [hb]; exact h.phase_ne_idle) hi ht hp
  exact ⟨t, hx.trans hte, he⟩

/-- VRED's last step: the tree's result, or the identity, alone in element 0 (R115). -/
def reduceInto (d : Reg) (o : ROp) (T : Tile) (we : Width) (fm : Option FFormat) (op : Rnd → Nat → Nat → Nat) (r : Rnd)
    (xs : List (Option Nat)) : Tile :=
  T.putV d (BitVec.ofNat 2048 ((treeReduce op r (logElems we) 0 xs).getD
    (ropIdentity (if o == .min || o == .max then fm else none) o we.nbits)))

/-- VSCAN's last step: the doubling steps' results under the mask (R116). -/
def scanInto (d : Reg) (k : KReg) (T : Tile) (we : Width) (_ : Option FFormat) (op : Rnd → Nat → Nat → Nat) (r : Rnd)
    (xs : List (Option Nat)) : Tile :=
  T.writeV d k we.nbits ((scanAll op r (logElems we) 0 1 xs).map (·.getD 0))

/-- VRED completes by the tree over its inputs. -/
theorem vred_executed (h : Ready s { instr := .vred d a k w bf fl o, onA := false, rv := [a], wv := [d] }) :
    ∃ t, exec (.vred d a k w bf fl o) s = .next t ∧ Executed s t { instr := .vred d a k w bf fl o, onA := false, rv := [a], wv := [d] } {
      draws := fl && o == .add, warns := warnOf 7 (ropShape w bf fl o).2.2, vdst := [(d, BitVec.ofNat 2048
        ((treeReduce (ropElem (ropShape w bf fl o).2.1 o (ropShape w bf fl o).1) (sampledIf s (fl && o == .add))
          (treeDepth (ropShape w bf fl o).1) 0 (inputsOf (s.mask k) (ropShape w bf fl o).1 (s.vsrc [a] 0))).getD
            (ropDefault (ropShape w bf fl o).2.1 o (ropShape w bf fl o).1)))] } := by
  rw [← ropWidth_nbits, ← ropFmt_eq, ← ropFallback_eq, ← logElems_eq, ← ropIdentity_eq _ _ (nbits_pos _)]
  refine vecRop_executed (fin := reduceInto d o) h rfl ?_
  rw [reduceInto]
  exact (start_sampleRaise ..).putV d _ rfl

/-- VSCAN completes by the doubling steps over its inputs. -/
theorem vscan_executed (h : Ready s { instr := .vscan d a k w bf fl o, onA := false, rv := [a], wv := [d] }) :
    ∃ V t, Masked V (s.mask k) (ropShape w bf fl o).1 (2048 / (ropShape w bf fl o).1) d (s.prior d)
        (fun e => BitVec.ofNat (ropShape w bf fl o).1 (((scanAll (ropElem (ropShape w bf fl o).2.1 o (ropShape w bf fl o).1)
          (sampledIf s (fl && o == .add)) (treeDepth (ropShape w bf fl o).1) 0 1
          (inputsOf (s.mask k) (ropShape w bf fl o).1 (s.vsrc [a] 0))).getD e none).getD 0)) ∧
      exec (.vscan d a k w bf fl o) s = .next t ∧ Executed s t { instr := .vscan d a k w bf fl o, onA := false, rv := [a], wv := [d] } {
        draws := fl && o == .add, warns := warnOf 7 (ropShape w bf fl o).2.2, vdst := [(d, V)] } := by
  rw [← ropWidth_nbits, ← ropFmt_eq, ← ropFallback_eq, ← logElems_eq]
  set l := scanAll (ropElem (ropFmt w bf fl) o (ropWidth w fl).nbits) (sampledIf s (fl && o == .add)) (logElems (ropWidth w fl)) 0 1
    (inputsOf (s.mask k) (ropWidth w fl).nbits (s.vsrc [a] 0)) with hl
  have hlen : l.length = 2048 / (ropWidth w fl).nbits := by rw [hl, scanAll_length, inputsOf_eq_map, List.length_map, List.length_range]
  have hmap : l.map (·.getD 0) = (List.range (2048 / (ropWidth w fl).nbits)).map (fun e => (l.getD e none).getD 0) := by
    refine List.ext_getElem (by simp [hlen]) fun e h1 _ => ?_
    have he : e < l.length := by simpa using h1
    simp [he]
  obtain ⟨V, hV, hdone⟩ := (start_sampleRaise s { instr := .vscan d a k w bf fl o, onA := false, rv := [a], wv := [d] } (ropFallback w bf fl o)
    (fl && o == .add)).writeV d k (ropWidth w fl).nbits (g := fun e => (l.getD e none).getD 0) fun _ => rfl
  rw [← hmap] at hdone
  obtain ⟨t, ht, he⟩ := vecRop_executed (fin := scanInto d k) h rfl hdone
  exact ⟨V, t, hV, ht, he⟩

end

/-! ### On integers (R115, R116) -/

/-- The tree over integer inputs is the fold of the enabled elements. -/
theorem treeReduce_inputs (K : Word) (w : Width) (v : Vec) (o : ROp) (r : Rnd) :
    (treeReduce (ropElem none o w.nbits) r (treeDepth w.nbits) 0 (inputsOf K w.nbits v)).getD (intIdentity o w.nbits).toNat =
      ((enabledBelow K w.nbits (2048 / w.nbits) v).foldl (intRop o w.nbits) (intIdentity o w.nbits)).toNat := by
  have := ropInt_associative o w.nbits
  have hlen : (inputsOf K w.nbits v).length = 2 ^ treeDepth w.nbits := by
    rw [inputsOf_eq_map, List.length_map, List.length_range, two_pow_treeDepth]
  have htree := treeReduce_eq_combine (ropInt o w.nbits) r _ 0 _ hlen
  rw [inputsOf_eq_map, combine_inputs] at htree
  refine (congrArg (fun x => Option.getD x (intIdentity o w.nbits).toNat) htree).trans ?_
  split
  · next hnil => rw [hnil]; rfl
  · rfl

/-- The scan over integer inputs leaves in an enabled element the fold of the enabled elements up to it. -/
theorem scanAll_inputs (K : Word) (w : Width) (v : Vec) (o : ROp) (r : Rnd) {e : Nat} (he : e < 2048 / w.nbits)
    (hg : governs K (2048 / w.nbits) e = true) :
    ((scanAll (ropElem none o w.nbits) r (treeDepth w.nbits) 0 1 (inputsOf K w.nbits v)).getD e none).getD 0 =
      ((enabledBelow K w.nbits (e + 1) v).foldl (intRop o w.nbits) (intIdentity o w.nbits)).toNat := by
  have := ropInt_associative o w.nbits
  have hscan := scanAll_eq_combine (ropInt o w.nbits) r 0 (two_pow_treeDepth w).le (inputAt K w.nbits v)
  have hne : enabledBelow K w.nbits (e + 1) v ≠ [] := by rw [enabledBelow_succ, if_pos hg]; simp
  refine (congrArg (fun l => (List.getD l e none).getD 0) hscan).trans ?_
  rw [List.getD_eq_getElem _ _ (by simpa using he), List.getElem_map, List.getElem_range, combine_inputs, if_neg hne]; rfl

/-- A result is given by its enabled elements. -/
theorem Masked.congr_enabled {V : Vec} {K : Word} {w n : Nat} {d : Reg} {prior : Vec} {op op' : Nat → BitVec w}
    (h : Masked V K w n d prior op) (hop : ∀ e, e < n → governs K n e = true → op e = op' e) : Masked V K w n d prior op' := by
  refine ⟨fun e he => (h.1 e he).trans ?_, h.2⟩
  split
  · next hg => exact hop e he hg
  · rfl

/-- Settles O30: by the tree and by the doubling steps, which on integers are folds of the enabled elements. -/
theorem reductionsAndScansComplete : Obligations.ReductionsAndScansComplete := by
  unfold Obligations.ReductionsAndScansComplete
  refine ⟨fun d a k w bf fl o s => vred_executed, fun d a k w bf fl o s => vscan_executed, fun d a k w bf o s => ⟨?red, ?scan⟩⟩
  case red =>
    intro fm hready
    obtain ⟨t, ht, he⟩ := vred_executed hready
    have hval := treeReduce_inputs (s.mask k) w (s.vsrc [a] 0) o (sampledIf s false)
    have hvec := (congrArg (BitVec.ofNat 2048) hval).trans (BitVec.ofNat_toNat 2048 _)
    rw [← hvec]
    exact ⟨t, ht, he⟩
  case scan =>
    intro fm hready
    obtain ⟨V, t, hV, ht, he⟩ := vscan_executed hready
    refine ⟨V, t, hV.congr_enabled fun e hlt hg => ?_, ht, he⟩
    have hval := scanAll_inputs (s.mask k) w (s.vsrc [a] 0) o (sampledIf s false) hlt hg
    exact (congrArg (BitVec.ofNat w.nbits) hval).trans (by rw [BitVec.ofNat_toNat, BitVec.setWidth_eq])

end Sys2Proof.Machine
end
section
/-! ## Proofs: matrix words and the rules they share -/

namespace Sys2Proof.Machine

/-! ### The tile in which a word finds its operands -/

section
variable {s : State} {fm : Form} (h : Ready s fm)
include h

theorem begun_tile : (s.begun fm).tile s.focus.1 = (fm.start s.cur s.focus.2).2 := begun_cur h

/-- Reading its sources leaves what a word sees of its tile beside fronts, ports, vector registers and sticky bits. -/
theorem begun_view {α : Type} (p : Tile → α) (hp : ∀ U fa fx sq vq vregs warn,
    p { U with fa := fa, fx := fx, sq := sq, vq := vq, vregs := vregs, warn := warn } = p U) :
    p ((s.begun fm).tile s.focus.1) = p s.cur := by
  rw [begun_tile_kept h]; exact hp ..

theorem begun_mq : ((s.begun fm).tile s.focus.1).mq = s.cur.mq := begun_view h (·.mq) (fun _ _ _ _ _ _ _ => rfl)
theorem begun_crect : ((s.begun fm).tile s.focus.1).crect = s.cur.crect := begun_view h (·.crect) (fun _ _ _ _ _ _ _ => rfl)

theorem begun_ring (g : Nat) : ((s.begun fm).tile s.focus.1).ring g = s.cur.ring g :=
  begun_view h (·.ring g) (fun _ _ _ _ _ _ _ => rfl)

theorem begun_chain (c : Nat) : ((s.begun fm).tile s.focus.1).chain c = s.cur.chain c :=
  begun_view h (·.chain c) (fun _ _ _ _ _ _ _ => rfl)

theorem begun_ringInUse (g : Nat) : ((s.begun fm).tile s.focus.1).ringInUse g = s.cur.ringInUse g :=
  begun_view h (·.ringInUse g) (fun _ _ _ _ _ _ _ => rfl)

theorem begun_sbClash (ranges : List (Nat × Nat)) (writes : Bool) :
    ((s.begun fm).tile s.focus.1).sbClash ranges writes = s.cur.sbClash ranges writes :=
  begun_view h (·.sbClash ranges writes) (fun _ _ _ _ _ _ _ => rfl)

end

/-- What a word does depends on its body there alone. -/
theorem issue_congr {s : State} {fm : Form} (h : Ready s fm) {body body' : State → Issue → Verdict}
    (hb : body (s.begun fm) (s.operands fm) = body' (s.begun fm) (s.operands fm)) : issue s fm body = issue s fm body' := by
  rw [issue_ready h, issue_ready h, hb]

/-! ### Words that change their own tile -/

/-- A change g of a tile that neither reads nor writes what issuing a word may change there. -/
def KeepsIssued (g : Tile → Tile) : Prop :=
  ∀ U fa fx sq vq vregs warn, g { U with fa := fa, fx := fx, sq := sq, vq := vq, vregs := vregs, warn := warn } =
    { g U with fa := fa, fx := fx, sq := sq, vq := vq, vregs := vregs, warn := warn }

section
variable {s : State} {fm : Form} (h : Ready s fm)
include h

/-- A word that makes g of its tile has been executed with g. -/
theorem body_executed {g : Tile → Tile} {body : State → Issue → Verdict}
    (hu : body (s.begun fm) (s.operands fm) = .done ((s.begun fm).setTile s.focus.1 (g ((s.begun fm).tile s.focus.1))))
    (hg : KeepsIssued g) (hp : (g s.cur).phase = s.cur.phase) :
    ∃ t, issue s fm body = .next t ∧ Executed s t fm { body := g } := by
  have hdone := (start_done fm s.cur s.focus.2).onBody g hg
  rw [begun_tile h] at hu
  exact (h.curOnly_begun.setTile (h.done_ne_reset hdone hp)).executed h hu hdone rfl rfl rfl

/-- A word that writes v into d has been executed with it. -/
theorem scalar_executed {d : Reg} {v : Word} {body : State → Issue → Verdict}
    (hu : body (s.begun fm) (s.operands fm) =
      .done ((s.begun fm).setTile s.focus.1 (((s.begun fm).tile s.focus.1).putS s.focus.2 d v))) :
    ∃ t, issue s fm body = .next t ∧ Executed s t fm { dst := [(d, v)] } := by
  have hdone := (start_done fm s.cur s.focus.2).putS d v rfl
  rw [begun_tile h] at hu
  exact (h.curOnly_begun.setTile (h.done_ne_reset hdone rfl)).executed h hu hdone rfl rfl rfl

/-- Sampling a rounding changes the word's own tile alone. -/
theorem curOnly_sample : CurOnly s ((s.begun fm).setTile s.focus.1 (((s.begun fm).tile s.focus.1).sample s.focus.2 true).2)
    ((fm.start s.cur s.focus.2).2.sample s.focus.2 true).2 := by
  rw [begun_tile h]
  exact h.curOnly_begun.setTile (h.done_ne_reset ((start_done fm s.cur s.focus.2).sample rfl rfl true) rfl)

theorem begun_sample (draws : Bool) : (((s.begun fm).tile s.focus.1).sample s.focus.2 draws).1 = sampledIf s draws := by
  rw [begun_tile h, start_sample]

end

end Sys2Proof.Machine
end
section
/-! ## Proofs: the words of the matrix unit -/

namespace Sys2Proof.Machine

/-! ### A command joins the queue (R124, R134, R149) -/

/-- The tile once a command with its byte ranges has joined the queue. -/
def Tile.enqueue (T : Tile) (id : Nat) (ranges : List (Nat × Nat)) (writes : Bool) (c : MCmd) : Tile :=
  { (if ranges.isEmpty then T else T.sbEnter id ranges writes) with mq := T.mq ++ [c] }

theorem enqueue_keepsIssued (id : Nat) (ranges : List (Nat × Nat)) (writes : Bool) (c : MCmd) :
    KeepsIssued (fun T => T.enqueue id ranges writes c) := by
  intro U fa fx sq vq vregs warn
  unfold Tile.enqueue
  cases ranges.isEmpty <;> rfl

theorem enqueue_phase (T : Tile) (id : Nat) (ranges : List (Nat × Nat)) (writes : Bool) (c : MCmd) :
    (T.enqueue id ranges writes c).phase = T.phase := by
  unfold Tile.enqueue
  cases ranges.isEmpty <;> rfl

theorem pushMCmd_done {s : State} (hq : (s.tile s.focus.1).mq.length < mqDepth) (ranges : List (Nat × Nat)) (writes : Bool) (mk : Nat → MCmd) :
    pushMCmd s ranges writes mk = .done { s.setTile s.focus.1 ((s.tile s.focus.1).enqueue s.nextId ranges writes (mk s.nextId)) with
      nextId := s.nextId + 1 } := by
  unfold pushMCmd Tile.enqueue
  dsimp only
  rw [if_neg (Nat.not_le.2 hq)]
  cases ranges.isEmpty <;> rfl

section
variable {s u : State} {fm : Form} {T : Tile} {draws : Bool}

/-- A word that queues a command, on a tile T that may have drawn for it, has been executed with it. -/
theorem queue_executed (h : Ready s fm) (hc : CurOnly s u T) (hd : TileDone s.cur T s.focus.2 fm { draws := draws })
    (hq : s.cur.mq.length < mqDepth) {ranges : List (Nat × Nat)} {writes : Bool} {mk : Nat → MCmd} {body : State → Issue → Verdict}
    (hu : body (s.begun fm) (s.operands fm) = pushMCmd u ranges writes mk) : ∃ t, issue s fm body = .next t ∧
      Executed s t fm { queued s ranges writes (mk s.nextId) with draws := draws } := by
  have hdone := hd.onBody (fun T => T.enqueue s.nextId ranges writes (mk s.nextId)) (enqueue_keepsIssued s.nextId ranges writes (mk s.nextId))
  have hset := hc.setTile (h.done_ne_reset hdone (enqueue_phase ..))
  have hfocus : u.focus = s.focus := by rw [hc.rest]
  have hid : u.nextId = s.nextId := by rw [hc.rest]
  have hmq : (u.tile u.focus.1).mq.length < mqDepth := by
    rw [hfocus, hc.cur, hd.kept]; exact hq
  refine hset.executed_sending h (x := { queued s ranges writes (mk s.nextId) with draws := draws }) ?_ (hdone.sends 1 [])
  rw [hu, pushMCmd_done hmq, hfocus, hid, hc.cur, hc.rest]
  dsimp only [queued]
  rw [List.append_nil, List.append_nil]; rfl

/-- A word that queues a command without a draw. -/
theorem plain_queue_executed (h : Ready s fm) (hq : s.cur.mq.length < mqDepth) {ranges : List (Nat × Nat)} {writes : Bool} {mk : Nat → MCmd}
    {body : State → Issue → Verdict} (hu : body (s.begun fm) (s.operands fm) = pushMCmd (s.begun fm) ranges writes mk) :
    ∃ t, issue s fm body = .next t ∧ Executed s t fm (queued s ranges writes (mk s.nextId)) :=
  queue_executed h h.curOnly_begun (start_done fm s.cur s.focus.2) hq hu

/-- A word that samples a rounding and queues a command with it. -/
theorem drawn_queue_executed (h : Ready s fm) (hq : s.cur.mq.length < mqDepth) {ranges : List (Nat × Nat)} {writes : Bool}
    {mk : Rnd → Nat → MCmd} {body : State → Issue → Verdict} (hu : body (s.begun fm) (s.operands fm) =
      pushMCmd ((s.begun fm).setTile s.focus.1 (((s.begun fm).tile s.focus.1).sample s.focus.2 true).2) ranges writes
        (mk (((s.begun fm).tile s.focus.1).sample s.focus.2 true).1)) :
    ∃ t, issue s fm body = .next t ∧ Executed s t fm { queued s ranges writes (mk (sampledIf s true) s.nextId) with draws := true } := by
  rw [begun_sample h] at hu
  exact queue_executed h (curOnly_sample h) ((start_done fm s.cur s.focus.2).sample rfl rfl true) hq hu

end

/-! ### MDIS, MZERO (R143, R144) -/

theorem mdis_executed {s : State} {c : BitVec 2} (h : Ready s (matrixForm (.mdis c) (accOk s.focus.1 c.toNat) []))
    (hq : s.cur.mq.length < mqDepth) : ∃ t, execMdis c s = .next t ∧
      Executed s t (matrixForm (.mdis c) (accOk s.focus.1 c.toNat) []) (queued s [] false (.mdis c.toNat)) :=
  plain_queue_executed h hq (mk := fun _ => .mdis c.toNat) rfl

theorem mzero_executed {s : State} {c : BitVec 2} (h : Ready s (matrixForm (.mzero c) (accOk s.focus.1 c.toNat) []))
    (hq : s.cur.mq.length < mqDepth) : ∃ t, execMzero c s = .next t ∧
      Executed s t (matrixForm (.mzero c) (accOk s.focus.1 c.toNat) []) (queued s [] false (.mzero c.toNat)) :=
  plain_queue_executed h hq (mk := fun _ => .mzero c.toNat) rfl

/-! ### MMA and MMA.ARM (R131, R134, R135) -/

section
variable {s : State} {i : Instr} {op : MmaOp} (h : Ready s (matrixForm i (accOk s.focus.1 op.acc) []))
include h

theorem mma_traps (hs : mmaSetupOk (s.cur.ring op.ringA) (s.cur.ring op.ringB) op.fa op.fb op.shape op.sp = false) :
    issueMma s i op = .next (preciseTrap s 0x0B (wordVal i)) := by
  refine issue_traps h ?_
  dsimp only
  rw [begun_focus, begun_ring h, begun_ring h, hs]; rfl

theorem mma_executed (hs : mmaSetupOk (s.cur.ring op.ringA) (s.cur.ring op.ringB) op.fa op.fb op.shape op.sp = true)
    (hq : s.cur.mq.length < mqDepth) {draws : Bool} (hdraws : (op.arm || !intMode op.fa op.fb) = draws) :
    ∃ t, issueMma s i op = .next t ∧ Executed s t (matrixForm i (accOk s.focus.1 op.acc) []) {
      draws := draws, body := fun T => { T with mq := T.mq ++ [.mma (mmaSampled s op draws)] } } := by
  subst hdraws
  have hsampled := (start_done (matrixForm i (accOk s.focus.1 op.acc) []) s.cur s.focus.2).sample rfl rfl (op.arm || !intMode op.fa op.fb)
  have hdone := hsampled.onBody (fun T => { T with mq := T.mq ++ [.mma (mmaSampled s op (op.arm || !intMode op.fa op.fb))] })
    (fun _ _ _ _ _ _ _ => rfl)
  refine (h.curOnly_begun.setTile (h.done_ne_reset hdone rfl)).executed h ?_ hdone rfl rfl rfl
  dsimp only
  rw [begun_focus, begun_ring h, begun_ring h, hs]
  refine (if_neg Bool.false_ne_true).trans ((if_neg ?_).trans ?_)
  · rw [begun_mq h]; exact Nat.not_le.2 hq
  · rw [mmaSampled, ← begun_sample h, begun_tile h]; rfl

end

/-! ### MFLUSH, MLOAD (R145, R146) -/

section
variable {addr pitch r m : Nat}

theorem rowCause_range (h : spadEnd < addr + (m - 1) * pitch + r) : rowCause addr pitch r m = some 0x07 := if_pos h

theorem rowCause_align (h : addr + (m - 1) * pitch + r ≤ spadEnd) (hbad : addr % 4 ≠ 0 ∨ pitch % 4 ≠ 0 ∨ pitch < r) :
    rowCause addr pitch r m = some 0x08 := (if_neg (Nat.not_lt.2 h)).trans (if_pos hbad)

theorem rowCause_none (h : addr + (m - 1) * pitch + r ≤ spadEnd) (ha : addr % 4 = 0) (hp : pitch % 4 = 0) (hr : r ≤ pitch) :
    rowCause addr pitch r m = none := (if_neg (Nat.not_lt.2 h)).trans (if_neg (by omega))

end

/-- The cause that a flush or load at x with pitch p raises. -/
def regionCause (u : BitVec 5) (sh : Shape) (x p : Nat) : Option Nat :=
  rowCause x p (rowBytes (shapeOf sh).2 (ckind u.toNat).width) (shapeOf sh).1

/-- The byte ranges of a flush or load at x with pitch p. -/
def regionRanges (u : BitVec 5) (sh : Shape) (x p : Nat) : List (Nat × Nat) :=
  rowRanges x p (rowBytes (shapeOf sh).2 (ckind u.toNat).width) (shapeOf sh).1

section
variable {s : State} {a b : Reg} {u : BitVec 5} {c : BitVec 2} {sat : Bool} {sh : Shape} {x p : Nat}
  (hx : (s.src [a, b] 0).toNat = x) (hp : (s.src [a, b] 1).toNat = p)
include hx hp

theorem mflush_traps (h : Ready s (matrixForm (.mflush a b u c sat sh) (regionOk s.focus.1 c.toNat sh) [a, b])) {k : Nat}
    (hc : regionCause u sh x p = some k) : execMflush a b u c sat sh s = .next (preciseTrap s k (s.src [a, b] 0)) := by
  unfold regionCause at hc
  refine issue_traps h ?_
  dsimp only
  rw [operands_s, operands_s, matrixForm, hx, hp, hc]

theorem mflush_executed (h : Ready s (matrixForm (.mflush a b u c sat sh) (regionOk s.focus.1 c.toNat sh) [a, b]))
    (hc : regionCause u sh x p = none) (hq : s.cur.mq.length < mqDepth) : ∃ t, execMflush a b u c sat sh s = .next t ∧
      Executed s t (matrixForm (.mflush a b u c sat sh) (regionOk s.focus.1 c.toNat sh) [a, b]) { queued s (regionRanges u sh x p) true
        (.mflush c.toNat sh x p u.toNat sat (BitVec.ofNat 3 (sampledIf s true).mode) (sampledIf s true).seed s.nextId) with
          draws := true } := by
  unfold regionCause at hc
  refine drawn_queue_executed h hq (mk := fun r id => .mflush c.toNat sh x p u.toNat sat (BitVec.ofNat 3 r.mode) r.seed id) ?_
  dsimp only
  rw [operands_s, operands_s, matrixForm, hx, hp, hc]
  rfl

theorem mload_executed (h : Ready s (matrixForm (.mload a b u c sh) (regionOk s.focus.1 c.toNat sh) [a, b]))
    (hc : regionCause u sh x p = none) (hq : s.cur.mq.length < mqDepth) : ∃ t, execMload a b u c sh s = .next t ∧
      Executed s t (matrixForm (.mload a b u c sh) (regionOk s.focus.1 c.toNat sh) [a, b]) (queued s (regionRanges u sh x p) false
        (.mload c.toNat sh x p u.toNat s.nextId)) := by
  unfold regionCause at hc
  refine plain_queue_executed h hq (mk := fun id => .mload c.toNat sh x p u.toNat id) ?_
  dsimp only
  rw [operands_s, operands_s, matrixForm, hx, hp, hc]
  rfl

end

/-! ### MSCA (R147) -/

theorem msca_executed {s : State} {a b : Reg} {u c : BitVec 2} {f r l : Bool} {sh : Shape} {x y : Nat}
    (h : Ready s (matrixForm (.msca a b u f r l c sh) (regionOk s.focus.1 c.toNat sh && accOk s.focus.1 u.toNat) [a, b]))
    (hx : (s.src [a, b] 0).toNat = x) (hy : (s.src [a, b] 1).toNat = y) (hc : scaleCause f (scaleVecs sh f r l x y) = none)
    (hq : s.cur.mq.length < mqDepth) : ∃ t, execMsca a b u f r l c sh s = .next t ∧
      Executed s t (matrixForm (.msca a b u f r l c sh) (regionOk s.focus.1 c.toNat sh && accOk s.focus.1 u.toNat) [a, b]) {
        queued s (scaleVecs sh f r l x y) false (.msca c.toNat u.toNat sh f r l x y (BitVec.ofNat 3 (sampledIf s true).mode)
          (sampledIf s true).seed s.nextId) with draws := true } := by
  refine drawn_queue_executed h hq (mk := fun rd id => .msca c.toNat u.toNat sh f r l x y (BitVec.ofNat 3 rd.mode) rd.seed id) ?_
  dsimp only
  rw [operands_s, operands_s, matrixForm, hx, hy, hc]
  rfl

/-! ### Rings (R126, R128, R129) -/

section
variable {s : State} {g : BitVec 3} {a : Reg} {v : Word}

theorem rset_executed (h : Ready s { instr := .rset g a, onX := false, rs := [a] }) (hv : s.src [a] 0 = v)
    (hend : bits v 19 0 + (bits v 45 40 + 1) * (bits v 31 20 * 256) ≤ spadEnd) (hbase : bits v 19 0 % 256 = 0) (hslot : bits v 31 20 ≠ 0)
    (hfree : s.cur.ringInUse g.toNat = false) : ∃ t, execRset g a s = .next t ∧
      Executed s t { instr := .rset g a, onX := false, rs := [a] } { body := fun T => T.setRing g.toNat {
        Ring.reset with base := bits v 19 0, slot := bits v 31 20 * 256, count := bits v 45 40 + 1 } } := by
  refine body_executed h ?_ (fun _ _ _ _ _ _ _ => rfl) rfl
  dsimp only
  rw [operands_s, hv, begun_focus, begun_ringInUse h, hfree, if_neg (Nat.not_lt.2 hend), if_neg (not_not.2 hbase),
    if_neg (Nat.mul_ne_zero hslot (by decide))]
  rfl

theorem rset_traps (h : Ready s { instr := .rset g a, onX := false, rs := [a] }) (hv : s.src [a] 0 = v)
    (hend : spadEnd < bits v 19 0 + (bits v 45 40 + 1) * (bits v 31 20 * 256)) : execRset g a s = .next (preciseTrap s 0x07 v) := by
  refine issue_traps h ?_
  dsimp only
  rw [operands_s, hv]
  exact if_pos hend

variable {r : Ring} {n : Nat}

theorem rpush_executed (h : Ready s { instr := .rpush g a, onX := false, rs := [a] }) (hr : s.cur.ring g.toNat = r)
    (hn : (s.src [a] 0).toNat = n) (hslot : r.slot ≠ 0) (hcount : n ≤ r.count) (hroom : r.filled + n ≤ r.count)
    (hfree : s.cur.sbClash (r.published n) false = false) : ∃ t, execRpush g a s = .next t ∧
      Executed s t { instr := .rpush g a, onX := false, rs := [a] } {
        body := fun T => T.setRing g.toNat { r with tail := (r.tail + n) % r.count, filled := r.filled + n } } := by
  refine body_executed h ?_ (fun _ _ _ _ _ _ _ => rfl) rfl
  have hwait : ¬ (r.free < n ∨ s.cur.sbClash (r.published n) false) := by
    rw [hfree, Ring.free]; simp; omega
  dsimp only
  rw [operands_s, hn, begun_focus, begun_ring h, hr, begun_sbClash h, if_neg (by omega),
    if_neg hwait]

theorem rpush_traps (h : Ready s { instr := .rpush g a, onX := false, rs := [a] }) (hr : s.cur.ring g.toNat = r)
    (hn : (s.src [a] 0).toNat = n) (hbad : r.slot = 0 ∨ r.count < n) :
    execRpush g a s = .next (preciseTrap s 0x0B (s.src [a] 0)) := by
  refine issue_traps h ?_
  dsimp only
  rw [operands_s, begun_focus, begun_ring h, hr, hn]
  exact if_pos hbad

end

section
variable {s : State} {d b : Reg} {g : BitVec 3} {r : Ring} {n : Nat} (h : Ready s { instr := .rstat d g b, rs := [b], ws := [d] })
  (hr : s.cur.ring g.toNat = r) (hn : (s.src [b] 0).toNat = n)
include h hr hn

theorem rstat_executed (hcount : n ≤ r.count) (hroom : n ≤ r.free) : ∃ t, execRstat d g b s = .next t ∧
    Executed s t { instr := .rstat d g b, rs := [b], ws := [d] } { dst := [(d, r.stat)] } := by
  refine scalar_executed h ?_
  dsimp only
  rw [operands_s, hn, begun_focus, begun_ring h, hr, if_neg (Nat.not_lt.2 hcount), if_neg (Nat.not_lt.2 hroom)]

theorem rstat_traps (hbad : r.count < n) : execRstat d g b s = .next (preciseTrap s 0x0B (s.src [b] 0)) := by
  refine issue_traps h ?_
  dsimp only
  rw [operands_s, begun_focus, begun_ring h, hr, hn]
  exact if_pos hbad

end

/-! ### Chains (R137, R141) -/

/-- The chain that the 64 bytes at x describe, ready to run. -/
def Tile.describedChain (T : Tile) (x : Nat) : Chain := { Chain.reset with desc := BitVec.ofNat 512 (T.localNat x 64), st := .ready }

section
variable {s : State} {c : BitVec 2} {a : Reg} {x : Nat} (h : Ready s (matrixForm (.cset c a) true [a]))
  (hx : (s.src [a] 0).toNat = x) (hend : x + 64 ≤ spadEnd) (halign : x % 64 = 0) (hst : (s.cur.chain c.toNat).st ≠ .running)
  (hfree : s.cur.sbClash [(x, 64)] false = false)
include h hx hend halign hst hfree

/-- A CSET of an aligned address in range, which nothing holds, checks the chain described there and sets it. -/
theorem execCset_eq : execCset c a s = issue s (matrixForm (.cset c a) true [a]) (fun u _ =>
    if chainFaulty (s.cur.describedChain x) c.toNat (isF s.focus.1) then .trap 0x0B (s.src [a] 0)
    else .done (u.setTile s.focus.1 ((u.tile s.focus.1).setChain c.toNat (s.cur.describedChain x)))) := by
  have hwait : ¬ ((s.cur.chain c.toNat).st = .running ∨ s.cur.sbClash [(x, 64)] false) := by rw [hfree]; simpa using hst
  have ha : (s.operands (matrixForm (.cset c a) true [a])).s 0 = s.src [a] 0 := operands_s ..
  refine issue_congr h ?_
  dsimp only
  rw [ha, hx, begun_focus, begun_chain h, begun_sbClash h,
    begun_localNat h, if_neg (Nat.not_lt.2 hend), if_neg (not_not.2 halign), if_neg hwait]
  rfl

theorem cset_traps (hbad : chainFaulty (s.cur.describedChain x) c.toNat (isF s.focus.1) = true) :
    execCset c a s = .next (preciseTrap s 0x0B (s.src [a] 0)) := by
  rw [execCset_eq h hx hend halign hst hfree]
  exact issue_traps h (if_pos hbad)

theorem cset_executed (hok : chainFaulty (s.cur.describedChain x) c.toNat (isF s.focus.1) = false) : ∃ t, execCset c a s = .next t ∧
    Executed s t (matrixForm (.cset c a) true [a]) { body := fun T => T.setChain c.toNat (s.cur.describedChain x) } := by
  rw [execCset_eq h hx hend halign hst hfree]
  exact body_executed h (if_neg (Bool.eq_false_iff.1 hok)) (fun _ _ _ _ _ _ _ => rfl) rfl

end

theorem cgo_executed {s : State} {c : BitVec 2} (h : Ready s (matrixForm (.cgo c) true []))
    (hst : (s.cur.chain c.toNat).st = .ready ∨ (s.cur.chain c.toNat).st = .done) : ∃ t, execCgo c s = .next t ∧
      Executed s t (matrixForm (.cgo c) true []) {
        body := fun T => T.setChain c.toNat { Chain.reset with desc := (T.chain c.toNat).desc, st := .running } } := by
  refine body_executed h ?_ (fun _ _ _ _ _ _ _ => rfl) rfl
  dsimp only
  rw [begun_focus, begun_chain h]
  rcases hst with hst | hst <;> rw [hst]

theorem cstat_executed {s : State} {d b : Reg} {c : BitVec 2} {ch : Chain}
    (h : Ready s { instr := .cstat d c b, onA := false, rs := [b], ws := [d] }) (hch : s.cur.chain c.toNat = ch)
    {code : Nat} (hcode : ch.st.code = code)
    (hgo : s.src [b] 0 = 0 ∨ ch.st ≠ .running ∨ bits (s.src [b] 0) 31 0 ≤ ch.done) : ∃ t, execCstat d c b s = .next t ∧
      Executed s t { instr := .cstat d c b, onA := false, rs := [b], ws := [d] } {
        dst := [(d, BitVec.ofNat 64 (ch.done * 2 ^ 32 + (if ch.err then 4 else 0) + code))] } := by
  have hwait : ¬ (s.src [b] 0 ≠ 0 ∧ ch.st = .running ∧ ch.done < bits (s.src [b] 0) 31 0) := by
    rintro ⟨h0, hrun, hlt⟩
    rcases hgo with hz | hst | hle
    exacts [h0 hz, hst hrun, Nat.not_lt.2 hle hlt]
  refine scalar_executed h ?_
  dsimp only
  rw [operands_s, begun_focus, begun_chain h, hch, if_neg hwait, hcode]

/-! ### TSWAP (R148) -/

/-- The form that a TSWAP issues with. -/
def tswapForm (d a b : Reg) : Form := { instr := .tswap d a b, onA := false, rs := [a, b], ws := [d] }

/-- The tile once an exchange of n bytes at x waits for its mirror. -/
def Tile.addSwap (T : Tile) (id x n : Nat) : Tile :=
  { T.sbEnter id [(x, n)] true with tswaps := T.tswaps ++ [{ id := id, addr := x, len := n }] }

section
variable {s : State} {d a b : Reg} {x n : Nat} (h : Ready s (tswapForm d a b)) (hx : (s.src [a, b] 0).toNat = x)
  (hn : (s.src [a, b] 1).toNat = n) (hx0 : x % 256 = 0) (hn0 : n % 256 = 0) (hend : x + n ≤ spadEnd)
include h hx hn hx0 hn0 hend

/-- A TSWAP of an aligned block in range asks for the mirror of its tile. -/
theorem execTswap_eq : execTswap d a b s = issue s (tswapForm d a b) (fun u _ =>
    if mirrorOf s.focus.1 s.cur.crect = s.focus.1 then .done (u.setTile s.focus.1 ((u.tile s.focus.1).putS s.focus.2 d 2))
    else .done { u.setTile s.focus.1 (((u.tile s.focus.1).reserveS s.focus.2 d s.nextId).2.addSwap s.nextId x n) with
      nextId := s.nextId + 1 }) := by
  have ha : (s.operands (tswapForm d a b)).s 0 = s.src [a, b] 0 := operands_s ..
  have hb : (s.operands (tswapForm d a b)).s 1 = s.src [a, b] 1 := operands_s ..
  refine issue_congr h ?_
  dsimp only
  rw [ha, hb, hx, hn, begun_focus, begun_crect h, if_neg (by omega),
    if_neg (Nat.not_lt.2 hend)]
  rfl

theorem tswap_on_axis (hm : mirrorOf s.focus.1 s.cur.crect = s.focus.1) : ∃ t, execTswap d a b s = .next t ∧
    Executed s t (tswapForm d a b) { dst := [(d, 2)] } := by
  rw [execTswap_eq h hx hn hx0 hn0 hend]
  exact scalar_executed h (if_pos hm)

theorem tswap_waits (hm : mirrorOf s.focus.1 s.cur.crect ≠ s.focus.1) : ∃ t, execTswap d a b s = .next t ∧
    Executed s t (tswapForm d a b) { resv := [(d, s.nextId)], ids := 1, body := fun T => T.addSwap s.nextId x n } := by
  rw [execTswap_eq h hx hn hx0 hn0 hend]
  have hdone := ((start_done (tswapForm d a b) s.cur s.focus.2).reserveS d s.nextId rfl).onBody (fun T => T.addSwap s.nextId x n)
    (fun _ _ _ _ _ _ _ => rfl)
  refine (h.curOnly_begun.setTile (h.done_ne_reset hdone rfl)).executed_sending h ((if_neg hm).trans ?_) (hdone.sends 1 [])
  rw [begun_tile h, List.append_nil, List.append_nil]; rfl

end

/-- Settles O42: one lemma for each word and outcome, in the order of the statement. -/
theorem matrixWordsComplete : Obligations.MatrixWordsComplete := by
  unfold Obligations.MatrixWordsComplete
  intro s
  refine ⟨?mma, ?mdis, ?mzero, ?mflush, ?mload, ?msca, ?rset, ?rpush, ?rstat, ?cset, ?cgo, ?cstat, ?tswap⟩
  case mma =>
    intro x y c a b h p f arm i fm op hr
    have hx : exec i s = issueMma s i op := by cases arm <;> rfl
    rw [hx]
    exact ⟨fun hs => mma_traps (op := op) hr hs, fun hs hq => mma_executed (op := op) hr hs hq rfl⟩
  case mdis =>
    intro c fm h hq
    exact mdis_executed h hq
  case mzero =>
    intro c fm h hq
    exact mzero_executed h hq
  case mflush =>
    intro a b u c sat sh fm x p rb r h
    exact ⟨fun hend => mflush_traps rfl rfl h (rowCause_range hend), fun hend hbad => mflush_traps rfl rfl h (rowCause_align hend hbad),
      fun hend hx hp hrow hq => mflush_executed rfl rfl h (rowCause_none hend hx hp hrow) hq⟩
  case mload =>
    intro a b u c sh fm x p rb h hend hx hp hrow hq
    exact mload_executed rfl rfl h (rowCause_none hend hx hp hrow) hq
  case msca =>
    intro a b u f r l c sh fm x y rd h hc hq
    exact msca_executed h rfl rfl hc hq
  case rset =>
    intro g a fm v h
    exact ⟨fun hend hbase hslot hfree => rset_executed h rfl hend hbase hslot hfree, fun hend => rset_traps h rfl hend⟩
  case rpush =>
    intro g a fm r n h
    exact ⟨fun hbad => rpush_traps h rfl rfl hbad,
      fun hslot hcount hroom hfree => rpush_executed h rfl rfl hslot hcount hroom hfree⟩
  case rstat =>
    intro d g b fm r n h
    exact ⟨fun hbad => rstat_traps h rfl rfl hbad, fun hcount hroom => rstat_executed h rfl rfl hcount hroom⟩
  case cset =>
    intro c a fm x ch h hend halign hst hfree
    exact ⟨fun hbad => cset_traps h rfl hend halign hst hfree hbad, fun hok => cset_executed h rfl hend halign hst hfree hok⟩
  case cgo =>
    intro c fm h hst
    exact cgo_executed h hst
  case cstat =>
    intro d c b fm ch h hgo
    exact cstat_executed h rfl (by cases ch.st <;> rfl) hgo
  case tswap =>
    intro d a b fm x n h hx hn hend
    exact ⟨fun hm => tswap_on_axis h rfl rfl hx hn hend hm, fun hm => tswap_waits h rfl rfl hx hn hend hm⟩

end Sys2Proof.Machine
end

section
/-! ## Proofs: a die is lost -/

namespace Sys2Proof.Machine

/-! ### Die 1 is lost: the agenda grows, and the management registers stay (R357, R358) -/

theorem mg_foldl {α : Type} {f : State → α → State} (hf : ∀ s a, (f s a).mg = s.mg) (l : List α) (s : State) : (l.foldl f s).mg = s.mg := by
  induction l generalizing s with
  | nil => rfl
  | cons a l ih => rw [List.foldl_cons, ih, hf]

section
variable (s : State)

theorem mg_modDie (d : Nat) (f : Die → Die) : (s.modDie d f).mg = s.mg := by rw [modDie_kept]

theorem mg_handOver (k : Nat) : (handOver s k).mg = s.mg := by
  unfold handOver
  dsimp only
  split <;> rfl

theorem mg_releaseSlot (t j : Nat) (c : ClaimSlot) : (releaseSlot s t j c).mg = s.mg := by
  unfold releaseSlot
  dsimp only
  split
  · rfl
  · split
    · exact mg_handOver s _
    · split <;> rfl

theorem mg_releaseSlots (t : Nat) : (releaseSlots s t).mg = s.mg := by
  refine mg_foldl (fun s c => ?_) _ s
  split
  · exact mg_releaseSlot s t _ _
  · rfl

theorem mg_dropStrand (t : Nat) : (dropStrand s t).mg = s.mg := by
  refine Eq.trans ?_ (mg_releaseSlots s t)
  unfold dropStrand
  dsimp only
  split <;> rfl

theorem mg_charge (d : Nat) (r : Rec) : (charge s d r).mg = s.mg := by
  unfold charge
  split
  · exact mg_modDie s d _
  · rfl

theorem mg_unplace (d : Nat) (r : Rec) : (unplace s d r).mg = s.mg :=
  (mg_modDie _ d _).trans ((mg_foldl mg_dropStrand r.place _).trans (mg_charge s d r))

theorem mg_phaseComplete (c p : Nat) : (phaseComplete s c p).mg = s.mg := by
  unfold phaseComplete
  extract_lets C C' t
  split <;> rfl

theorem mg_phaseLeft (c p : Nat) : (phaseLeft s c p).mg = s.mg := by
  unfold phaseLeft
  dsimp only
  split
  · exact mg_phaseComplete ..
  · rfl

theorem mg_shareEnd (d i : Nat) : (shareEnd s d i).mg = s.mg := by
  unfold shareEnd
  split
  · rfl
  · split
    · rfl
    · dsimp only
      split
      · exact (mg_phaseLeft ..).trans (mg_modDie s d _)
      · exact mg_modDie s d _

theorem mg_graphLess (d i : Nat) : (graphLess s d i).mg = s.mg :=
  (mg_shareEnd ..).trans ((mg_modDie _ d _).trans (mg_modDie s d _))

/-- A cancelled record leaves its placement, and its graph counts one less (R157). -/
theorem cancelRec_eq (d i j : Nat) : cancelRec s d i j = s ∨ ∃ r, s.rec? d i j = some r ∧ cancelRec s d i j =
    graphLess ((unplace s d r).modRec d i j (fun q => { q with st := .cancelled, place := [], spill := none })) d i := by
  unfold cancelRec
  split
  · exact .inl rfl
  · next r hr =>
    split
    · exact .inl rfl
    · exact .inr ⟨r, hr, rfl⟩

theorem mg_cancelRec (d i j : Nat) : (cancelRec s d i j).mg = s.mg := by
  obtain h | ⟨r, -, h⟩ := cancelRec_eq s d i j
  · rw [h]
  · rw [h, mg_graphLess, State.modRec, mg_modDie, mg_unplace]

theorem agendaGrows_cancelRec (d i j : Nat) : AgendaGrows s (cancelRec s d i j) := by
  obtain h | ⟨r, -, h⟩ := cancelRec_eq s d i j
  · rw [h]; exact .refl s
  · rw [h]
    exact (agendaGrows_unplace s d r).trans ((AgendaGrows.of_eq (agenda_modRec _ d i j _)).trans (winds_graphLess d _ i).agenda)

theorem mg_cancelShare (d i : Nat) : (cancelShare s d i).mg = s.mg := by
  have hfold := mg_foldl (fun s (r : Rec) => mg_cancelRec s d i r.tidx) ((s.die d).recs.filter (fun r => r.inst == i)) s
  unfold cancelShare
  split
  · rfl
  · dsimp only
    split <;> exact hfold

theorem agendaGrows_cancelShare (d i : Nat) : AgendaGrows s (cancelShare s d i) := by
  have hfold := AgendaGrows.foldl (fun s (r : Rec) => agendaGrows_cancelRec s d i r.tidx) ((s.die d).recs.filter (fun r => r.inst == i)) s
  unfold cancelShare
  split
  · exact .refl s
  · dsimp only
    split
    · exact hfold
    · exact hfold.trans (.post _ _)

theorem interrupt_kept (e : BitVec 128) (c : Nat) : s.interrupt e c = { s with pmem := (s.interrupt e c).pmem } := by
  unfold State.interrupt
  split <;> rfl

/-- A fault record goes into the ring in memory or stays on the die. -/
theorem record_kept (d : Nat) (r : FaultRec) :
    s.record d r = { s with pmem := (s.record d r).pmem, die0 := (s.record d r).die0, die1 := (s.record d r).die1 } := by
  unfold State.record
  dsimp only
  split
  · unfold frrWrite
    rw [interrupt_kept, modDie_kept]
  · split <;> rw [setDie_kept]

theorem mg_spansStop (e : Nat) : (spansStop s e).mg = s.mg :=
  mg_foldl (fun s g => by rw [record_kept]; exact mg_cancelShare s e g.inst) _ s

theorem agendaGrows_spansStop (e : Nat) : AgendaGrows s (spansStop s e) :=
  .foldl (fun s g => (agendaGrows_cancelShare s e g.inst).trans (.of_eq (by rw [record_kept]))) _ s

theorem agendaGrows_loseClaim (dst : Nat → Bool) (k : Nat) : AgendaGrows s (loseClaim s dst k) := by
  unfold loseClaim
  refine .trans ?_ (.foldl (fun s w => ?_) _ _)
  · exact .of_eq rfl
  · exact .post _ _

theorem agendaGrows_claimsStop (d : Nat) : AgendaGrows s (claimsStop s d) :=
  (AgendaGrows.foldl (fun s k => agendaGrows_loseClaim s _ k) _ s).trans (.foldl agendaGrows_releaseSlots _ _)

theorem agendaGrows_strandsStop (d : Nat) : AgendaGrows s (strandsStop s d) := by
  unfold strandsStop
  dsimp only
  refine AgendaGrows.trans ?_ (.of_eq (agenda_modDie _ d _))
  refine .trans ?_ (.foldl (fun s t => ?_) _ _)
  · exact .of_eq rfl
  · split <;> exact .of_eq rfl

theorem agendaGrows_dieLost (d : Nat) : AgendaGrows s (dieLost s d) := by
  refine .trans ?_ (agendaGrows_spansStop _ _)
  refine .trans ((agendaGrows_claimsStop s d).trans (agendaGrows_strandsStop _ d)) ?_
  split <;> exact .of_eq (agenda_modDie _ d _)

/-- Die 1 no longer answers once it is lost. -/
theorem d1up_dieLost : (dieLost s 1).mg.d1up = false := by
  rw [dieLost, mg_spansStop]; rfl

end

end Sys2Proof.Machine
end

section
/-! ## Proofs: the host's accesses -/

namespace Sys2Proof.Machine

/-! ### A window write is the step of its register (R179) -/

/-- The registers below the routing entries are no routing entries. -/
theorem winAt_ne_route {off : Nat} (h : off < 0x10000) (d j m : Nat) : (winAt d off).1 ≠ .route j m := by
  unfold winAt
  extract_lets r
  have hr : r.1 ≠ .route j m := by
    unfold r
    repeat' refine iteInduction (motive := fun x : Win × Nat => x.1 ≠ .route j m) (fun _ => ?_) (fun _ => ?_)
    all_goals first | exact Win.noConfusion | omega
  split
  · exact Win.noConfusion
  · exact hr

theorem runWrite_winStep (s : State) : runWrite (winStep s) s = exec (winStep s) s := by
  unfold winStep
  dsimp only
  repeat' first | rfl | split

/-- The host's request writes the aligned doubleword at an offset of a dispatcher window. -/
structure WindowWrite (r : HostReq) (off : Nat) : Prop where
  low : off < 0x10000
  aligned : off % 8 = 0
  double : r.n = 8
  write : r.write = true

theorem windowAccess_write {s : State} {r : HostReq} {d off : Nat} (hd : d ≠ 2) (h : WindowWrite r off) :
    windowAccess s d off r = exec (winStep (writeSeen s r d off)) (writeSeen s r d off) := by
  obtain ⟨hlow, hal, hn, hw⟩ := h
  have hr := winAt_ne_route hlow d
  rw [← runWrite_winStep]
  unfold windowAccess writeSeen
  rw [if_neg hd]
  generalize winAt d off = w at hr
  obtain ⟨w, base⟩ := w
  cases w
  case route j m => exact absurd rfl (hr j m)
  all_goals simp [hn, hal, hw, hd, hostAnswer]

/-! ### The host's accesses (R365, R374) -/

/-- The host's answer register holds the low doubleword. -/
theorem hostAnswer_mod (s : State) (v : Nat) (e : Bool) : hostAnswer s (v % 2 ^ 64) e = hostAnswer s v e := by
  have hv : BitVec.ofNat 64 (v % 2 ^ 64) = BitVec.ofNat 64 v := BitVec.eq_of_toNat_eq (by simp only [BitVec.toNat_ofNat, Nat.mod_mod])
  rw [hostAnswer, hv, ← hostAnswer]

section
variable {s : State} {r : HostReq}

theorem hostAccess_mgst (ha : r.aperture = true) (hz : r.addr = 0) (hn : r.n = 8) (hw : r.write = false) :
    exec (.hostAccess r) s = .next (hostAnswer s (mgst s) false) := by
  show execHostAccess r s = _
  simp [execHostAccess, ha, hz, windowAccess, hn, hw, mgRead]

theorem hostAccess_unready (ha : r.aperture = true) (h : 0x1000 ≤ r.addr) (hr : s.mg.ready = false) :
    exec (.hostAccess r) s = .next (hostAnswer s 0 true) := by
  show execHostAccess r s = _
  simp [execHostAccess, ha, Nat.not_lt.2 h, hr]

section
variable {off : Nat} (ha : r.aperture = true) (hr : s.mg.ready = true) (hd : s.die0.stopped = false) (hoff : off < 0x10000)
include ha hr hd hoff

theorem hostAccess_window0 (h : r.addr = 0x100000 + off) : exec (.hostAccess r) s = windowAccess s 0 off r := by
  show execHostAccess r s = _
  rw [execHostAccess, if_pos ha, if_neg (by omega), hr, hd, if_neg (by decide), if_pos (by omega), h, Nat.add_sub_cancel_left]

theorem hostAccess_window1 (h : r.addr = 0x200000 + off) (h1 : s.dieDown 1 = false) : exec (.hostAccess r) s = windowAccess s 1 off r := by
  show execHostAccess r s = _
  rw [execHostAccess, if_pos ha, if_neg (by omega), hr, hd, if_neg (by decide), if_neg (by omega), if_pos (by omega), h1,
    if_neg (by decide), h, Nat.add_sub_cancel_left]

theorem hostAccess_write0 (h : r.addr = 0x100000 + off) (hw : WindowWrite r off) :
    ∃ t, exec (.hostAccess r) s = .next t ∧ exec (winStep (writeSeen s r 0 off)) (writeSeen s r 0 off) = .next t := by
  rw [hostAccess_window0 ha hr hd hoff h, windowAccess_write (by decide) hw]
  obtain ⟨t, ht⟩ := exec_answers (writeSeen s r 0 off) (winStep (writeSeen s r 0 off))
  exact ⟨t, ht, ht⟩

theorem hostAccess_write1 (h : r.addr = 0x200000 + off) (h1 : s.dieDown 1 = false) (hw : WindowWrite r off) :
    ∃ t, exec (.hostAccess r) s = .next t ∧ exec (winStep (writeSeen s r 1 off)) (writeSeen s r 1 off) = .next t := by
  rw [hostAccess_window1 ha hr hd hoff h h1, windowAccess_write (by decide) hw]
  obtain ⟨t, ht⟩ := exec_answers (writeSeen s r 1 off) (winStep (writeSeen s r 1 off))
  exact ⟨t, ht, ht⟩

theorem hostAccess_read0 (h : r.addr = 0x100000 + off) (hal : off % 8 = 0) (hn : r.n = 8) (hw : r.write = false) :
    exec (.hostAccess r) s = .next (hostAnswer s (winVal s 0 (winAt 0 off).1 / 2 ^ (8 * (off - (winAt 0 off).2))) false) := by
  have hroute := winAt_ne_route hoff 0
  rw [hostAccess_window0 ha hr hd hoff h, ← hostAnswer_mod]
  unfold windowAccess
  rw [if_neg (by decide)]
  generalize winAt 0 off = w at hroute
  obtain ⟨w, base⟩ := w
  cases w
  case route j m => exact absurd rfl (hroute j m)
  all_goals simp [hn, hal, hw]

end

section
variable {pa : Nat} (ha : r.aperture = false) (hpa : r.addr = pa) (hr : s.mg.ready = true) (hd : s.die0.stopped = false) (hn : 0 < r.n)
  (hend : pa + r.n ≤ hbmEnd) (hfst : localTarget s pa = some .hbm) (hlst : localTarget s (pa + r.n - 1) = some .hbm) (hp : s.poison = [])
include ha hpa hr hd hn hend hfst hlst hp

/-- An access of the host that lies in HBM acts on the memory itself. -/
theorem hostAccess_hbm : exec (.hostAccess r) s =
    .next (if r.write then hostAnswer { s with pmem := memPutNat s.pmem pa r.n r.data } 0 false else hostAnswer s (memNat s.pmem pa r.n) false) := by
  have hbelow : pa + r.n ≤ hostBase := hend.trans (by decide)
  have htarget : ∀ a, a < hostBase → target s a = (localTarget s a).map (fun t => (t, a)) := fun a h => if_pos h
  show execHostAccess r s = _
  subst hpa
  rw [execHostAccess, if_neg (by rw [ha]; decide), if_neg (by omega), hr, hd, if_neg (by decide), cordMemory,
    htarget _ (by omega), htarget _ (by omega), hfst, hlst]
  have hpois : ∀ a, s.poisoned a = false := fun a => by simp [State.poisoned, hp]
  simp [Nat.ne_of_gt hn, hp, hpois]

theorem hostAccess_hbm_read (hw : r.write = false) : exec (.hostAccess r) s =
    .next (hostAnswer s (memNat s.pmem pa r.n) false) := by
  rw [hostAccess_hbm ha hpa hr hd hn hend hfst hlst hp, hw]; rfl

theorem hostAccess_hbm_write (hw : r.write = true) : exec (.hostAccess r) s =
    .next (hostAnswer { s with pmem := memPutNat s.pmem pa r.n r.data } 0 false) := by
  rw [hostAccess_hbm ha hpa hr hd hn hend hfst hlst hp, hw]; rfl

end
end

end Sys2Proof.Machine
end

section
/-! ## Proofs: the part starts, restarts and is reset -/

namespace Sys2Proof.Machine

/-! ### A part that starts again (R373, R375, R376) -/

theorem outsideMem_eq (m : List Host.Cell) : outsideMem m = m.filter (fun c => decide (0x4000000000000 ≤ c.1)) := rfl

/-- A restart wipes the part, whatever the flash then holds. -/
theorem restarted_restart {s u : State} (h : u.pmem = s.pmem) : Restarted s (restart u) where
  tiles := rfl
  pmem := by rw [← h]; rfl
  caches := ⟨rfl, rfl, rfl, rfl, rfl, rfl, rfl, rfl, rfl⟩
  dies := ⟨rfl, rfl⟩
  lehr := rfl
  cyc := rfl
  agenda := rfl
  down := ⟨rfl, rfl, rfl, rfl⟩

/-- The flash keeps its contents through a restart. -/
theorem flash_restart (s : State) : Flash (restart s) s.mg.att s.mg.cause s.mg.unit := ⟨rfl, rfl, rfl⟩

theorem lcs_restart (s : State) : (restart s).mg.lcs = s.mg.lcs := rfl

section
variable {s : State}

theorem powerGood_ready (hr : s.mg.ready = true) (r : StartResult) : exec (.powerGood r) s = .next s := by
  show execPowerGood r s = _
  rw [execPowerGood, if_pos hr]

theorem powerGood_fails (hr : s.mg.ready = false) (ha : s.mg.att < 3) (g c u : Nat) :
    exec (.powerGood (.fail g c u)) s = .next (restart { s with mg := s.mg.failed c u }) := by
  show execPowerGood (.fail g c u) s = _
  simp [execPowerGood, hr, Nat.not_le.2 ha]

theorem powerGood_fails_minimal (hr : s.mg.ready = false) (ha : 3 ≤ s.mg.att) (g c u : Nat) :
    exec (.powerGood (.fail g c u)) s =
      .next { s with mg := { s.mg with min := true, stage := g, att := Nat.min 15 (s.mg.att + 1) } } := by
  show execPowerGood (.fail g c u) s = _
  simp [execPowerGood, hr, ha]

end

/-! ### Die 1 alone is reset, and rejoins (R376) -/

theorem die1Reset_restarts {s : State} (h : s.mg.ready = false) : exec .die1Reset s = .next (restart s) := by
  show execDie1Reset s = _
  simp [execDie1Reset, h]

theorem die1Reset_minimal {s : State} (hr : s.mg.ready = true) (hm : s.mg.min = true) (hj : rejoining s = false) :
    exec .die1Reset s = .next s := by
  show execDie1Reset s = _
  simp [execDie1Reset, hr, hm, hj]

/-- What a reset of die 1 begins with: the die is lost, if it has not stopped already. -/
def die1Stopped (s : State) : State := if s.die1.stopped then s else dieLost s 1

theorem agendaGrows_die1Stopped (s : State) : AgendaGrows s (die1Stopped s) := by
  unfold die1Stopped
  split
  · exact .refl s
  · exact agendaGrows_dieLost s 1

theorem die1Reset_wipes {s : State} (hr : s.mg.ready = true) (hm : s.mg.min = false) (hj : rejoining s = false) :
    exec .die1Reset s = .next ((wipeDie1 (die1Stopped s)).post (.die1Rejoin (.ready none))) := by
  show execDie1Reset s = _
  simp [execDie1Reset, hr, hm, hj, die1Stopped]

/-- No tile of die 1 is left by its wipe. -/
theorem tiles_wipeDie1 {s : State} {p : Nat × Tile} (h : p ∈ (wipeDie1 s).tiles) (hp : p.1 < 0x1000) : p.1 / 256 % 2 ≠ 1 := by
  have hj : isJack p.1 = false := by simp [isJack, Nat.div_eq_of_lt hp]
  have hon := (List.mem_filter.1 h).2
  simpa [hj, dieOf] using hon

/-- No byte of stacks 4 to 7 is left by the wipe of die 1. -/
theorem pmem_wipeDie1 {s : State} {c : Host.Cell} (h : c ∈ (wipeDie1 s).pmem) : c.1 < 4 * stackBytes ∨ 8 * stackBytes ≤ c.1 := by
  have hstacks := (List.mem_filter.1 (List.mem_filter.1 h).1).2
  simp only [Bool.or_eq_true, decide_eq_true_eq] at hstacks
  omega

theorem die1Rejoin_ready {s : State} (hr : s.mg.ready = true) (hm : s.mg.min = false) (hd : s.mg.d1up = false) (d : Option Word) :
    exec (.die1Rejoin (.ready d)) s = .next { s with die1 := { s.die1 with stopped := false }, mg := { s.mg with d1up := true } } := by
  show execDie1Rejoin (.ready d) s = _
  simp [execDie1Rejoin, hr, hm, hd]

theorem die1Rejoin_fails {s : State} (hr : s.mg.ready = true) (hm : s.mg.min = false) (hd : s.mg.d1up = false) (g c u : Nat) :
    exec (.die1Rejoin (.fail g c u)) s = .next (restart { s with mg := s.mg.failed c u }) := by
  show execDie1Rejoin (.fail g c u) s = _
  simp [execDie1Rejoin, hr, hm, hd]

/-! ### The obligation -/

theorem tempWarning_interrupts (s : State) (d : Nat) : ∃ t, exec (.tempWarning d) s = .next t ∧ (bits (s.die d).irq1 64 64 = 0 → t = s) ∧
    (bits (s.die d).irq1 64 64 = 1 → t =
      { s with pmem := memPutNat s.pmem (0x4000000000000 + bits (s.die d).irq1 127 78) 4 (bits (s.die d).irq1 31 4 * 16 + 1) }) :=
  ⟨s.interrupt (s.die d).irq1 1, rfl, fun h => if_neg (by omega), fun h => if_pos h⟩

theorem lifecycleChange_restarts (s : State) (l : BitVec 2) : ∃ t, exec (.lifecycleChange l) s = .next t ∧ Restarted s t ∧ t.mg.lcs = l ∧
    (l = 3 → Flash t 0 0 0) ∧ (l ≠ 3 → Flash t s.mg.att s.mg.cause s.mg.unit) := by
  refine ⟨_, rfl, restarted_restart rfl, ?_, fun h => ?_, fun h => ?_⟩
  · rw [lcs_restart]; dsimp only; split <;> rfl
  · subst h; exact flash_restart _
  · rw [if_neg h]; exact flash_restart _

/-- Settles O52: each way to start again is a restart of a state with its own flash; a reset of die 1 wipes what the lost die leaves;
and an access of the host reaches the management registers, a window's own step or the memory. -/
theorem partStartsAndResets : Obligations.PartStartsAndResets := by
  unfold Obligations.PartStartsAndResets
  intro s
  refine ⟨powerGood_ready, ?start, ?failed, ?minimal, ?reset, ?clear, lifecycleChange_restarts s, ?thermal, tempWarning_interrupts s,
    fun hr => ⟨_, die1Reset_restarts hr, restarted_restart rfl⟩, die1Reset_minimal, ?die1, fun d hr hm hd => die1Rejoin_ready hr hm hd d, ?rejoin,
    fun r ha hz hn hw => hostAccess_mgst ha hz hn hw, fun r ha h hr => ⟨_, hostAccess_unready ha h hr, rfl, rfl⟩, ?write, ?read, ?memory⟩
  case start =>
    intro d hr
    exact ⟨_, if_neg (by simp [hr]), rfl, rfl, rfl, rfl, rfl, rfl, rfl, rfl, rfl, rfl, outsideMem_eq s.pmem⟩
  case failed =>
    intro g c u hr ha
    refine ⟨_, powerGood_fails hr ha g c u, restarted_restart rfl, ?_⟩
    have hatt : min 15 (s.mg.att + 1) = s.mg.att + 1 := by omega
    rw [← hatt]; exact flash_restart _
  case minimal =>
    intro g c u hr ha
    exact ⟨_, powerGood_fails_minimal hr ha g c u, hr, rfl, rfl, rfl, rfl⟩
  case reset => exact ⟨_, rfl, restarted_restart rfl, flash_restart s, lcs_restart s⟩
  case clear => exact ⟨_, rfl, restarted_restart rfl, flash_restart _, lcs_restart _⟩
  case thermal => exact fun _ => ⟨_, rfl, restarted_restart rfl, flash_restart _⟩
  case die1 =>
    intro hr hm hj
    obtain ⟨l, hl⟩ := agendaGrows_die1Stopped s
    refine ⟨_, l, die1Reset_wipes hr hm hj, rfl, ?_, fun hs => ?_, fun p => tiles_wipeDie1, fun c hc _ => pmem_wipeDie1 hc⟩
    · rw [hl]; rfl
    · have hlost : die1Stopped s = dieLost s 1 := if_neg (by simp [hs])
      rw [hlost]; exact d1up_dieLost s
  case rejoin =>
    intro g c u hr hm hd
    exact ⟨_, die1Rejoin_fails hr hm hd g c u, restarted_restart rfl, flash_restart _⟩
  case write =>
    intro r off ha hr hd hoff hal hn hw
    exact ⟨fun h => hostAccess_write0 ha hr hd hoff h ⟨hoff, hal, hn, hw⟩, fun h h1 => hostAccess_write1 ha hr hd hoff h h1 ⟨hoff, hal, hn, hw⟩⟩
  case read =>
    intro r off ha hr hd hoff hal hn hw h
    exact hostAccess_read0 ha hr hd hoff h hal hn hw
  case memory =>
    intro r pa ha hpa hr hd hn hend hfst hlst hp
    exact ⟨hostAccess_hbm_read ha hpa hr hd hn hend hfst hlst hp, hostAccess_hbm_write ha hpa hr hd hn hend hfst hlst hp⟩

end Sys2Proof.Machine
end

section
/-! ## Proofs: fields of a register -/

namespace Sys2Proof.Machine

/-! ### A field read from a number and from a register (R13) -/

theorem testBit_fld (n hi lo i : Nat) : (fld n hi lo).testBit i = (decide (i < hi - lo + 1) && n.testBit (lo + i)) := by
  rw [fld, Nat.testBit_mod_two_pow, Nat.testBit_div_two_pow, Nat.add_comm i lo]

theorem testBit_bits {w : Nat} (x : BitVec w) (hi lo i : Nat) :
    (bits x hi lo).testBit i = (decide (i < hi - lo + 1) && x.getLsbD (lo + i)) := testBit_fld ..

theorem bits_lt {w : Nat} (x : BitVec w) (hi lo : Nat) : bits x hi lo < 2 ^ (hi - lo + 1) := Nat.mod_lt _ (Nat.two_pow_pos _)

/-- Two registers that agree on the bits of a field hold the same value there. -/
theorem bits_congr {v w : Nat} {x : BitVec v} {y : BitVec w} {hi lo : Nat} (hle : lo ≤ hi)
    (h : ∀ i, lo ≤ i → i ≤ hi → x.getLsbD i = y.getLsbD i) : bits x hi lo = bits y hi lo := by
  refine Nat.eq_of_testBit_eq fun i => ?_
  rw [testBit_bits, testBit_bits]
  by_cases hi' : i < hi - lo + 1
  · rw [h (lo + i) (by omega) (by omega)]
  · simp [hi']

section
variable {w hi lo : Nat} (hle : lo ≤ hi) (hhi : hi < w)
include hle hhi

theorem bits_ofNat (n : Nat) : bits (BitVec.ofNat w n) hi lo = fld n hi lo := by
  refine Nat.eq_of_testBit_eq fun i => ?_
  rw [testBit_bits, testBit_fld, BitVec.getLsbD_ofNat]
  by_cases hi' : i < hi - lo + 1
  · rw [decide_eq_true (show lo + i < w by omega), Bool.true_and]
  · simp [hi']

theorem bits_setWidth {v : Nat} (x : BitVec v) : bits (x.setWidth w) hi lo = bits x hi lo :=
  bits_congr hle fun i _ h => by rw [BitVec.getLsbD_setWidth, decide_eq_true (show i < w by omega), Bool.true_and]

end

/-! ### A field of a register is set -/

/-- The value of a slot is a part of its number. -/
theorem slot_read_le (s : Slot) (n : Nat) : s.read n * 2 ^ s.lo ≤ n :=
  (Nat.mul_le_mul_right _ (Nat.mod_le _ _)).trans (Nat.div_mul_le_self n _)

/-- A number without the value of a slot has nothing in the slot. -/
theorem slot_read_sub (s : Slot) (n : Nat) : s.read (n - s.read n * 2 ^ s.lo) = 0 := by
  rw [Nat.mul_comm, Slot.read, Nat.sub_mul_div]
  exact Nat.sub_mod_eq_zero_of_mod_eq (Nat.mod_mod _ _).symm

section
variable {w hi lo : Nat} (x : BitVec w) (v : Nat) (hle : lo ≤ hi)
include hle

theorem bits_setBits_self (hhi : hi < w) : bits (setBits x hi lo v) hi lo = v % 2 ^ (hi - lo + 1) := by
  rw [setBits, bits_ofNat hle hhi]
  exact Slot.read_add_self (s := ⟨hi - lo + 1, lo⟩) (slot_read_sub _ _) (Nat.mod_lt _ (Nat.two_pow_pos _))

theorem bits_setBits_other {hi' lo' : Nat} (hle' : lo' ≤ hi') (hhi' : hi' < w) (h : hi < lo' ∨ hi' < lo) :
    bits (setBits x hi lo v) hi' lo' = bits x hi' lo' := by
  have hap : Slot.Apart ⟨hi - lo + 1, lo⟩ ⟨hi' - lo' + 1, lo'⟩ := by unfold Slot.Apart; dsimp only; omega
  have hsub := slot_read_sub ⟨hi - lo + 1, lo⟩ x.toNat
  rw [setBits, bits_ofNat hle' hhi']
  have hnew := Slot.read_add_apart hsub (Nat.mod_lt v (Nat.two_pow_pos _)) hap
  have hold := Slot.read_add_apart hsub (Nat.mod_lt _ (Nat.two_pow_pos _)) hap (v := Slot.read ⟨hi - lo + 1, lo⟩ x.toNat)
  rw [Nat.sub_add_cancel (slot_read_le ⟨hi - lo + 1, lo⟩ x.toNat)] at hold
  exact hnew.trans hold.symm

end

end Sys2Proof.Machine
end

section
/-! ## Proofs: the host's queue and ring registers -/

namespace Sys2Proof.Machine

/-! ### A launch queue is registered (R174, R175, R183) -/

/-- The die whose register a window write names, the queue among the die's queues, and the sixteen bytes that are written. -/
def State.regDie (s : State) : Nat := s.bus.die % 2
def State.regQueue (s : State) : Nat := s.bus.idx % 256
def State.regWord (s : State) : BitVec 128 := s.bus.val.setWidth 128

theorem queue_setQueue (s : State) (d q : Nat) {Q : LaunchQ} (h : Q ≠ LaunchQ.reset) : ((s.setQueue d q Q).die d).queue q = Q := by
  rw [State.setQueue, die_modDie]
  exact Sparse.get_set_self _ q h

section
variable {s u : State}

theorem lqdWrite_refuses {e : Nat} (h : lqdErr s s.regWord = (u, e)) (he : e ≠ 0) : exec .lqdWrite s =
    .next (u.setQueue s.regDie s.regQueue { lqd := s.regWord, ri := 0, wi := 0, err := e, st := 3 }) := by
  show execLqdWrite s = _
  unfold execLqdWrite
  dsimp only
  rw [show lqdErr s (s.bus.val.setWidth 128) = (u, e) from h]
  simp only [he, false_and, if_false]
  rfl

theorem lqdWrite_registers (h : lqdErr s s.regWord = (u, 0)) : ∃ t, exec .lqdWrite s = .next t ∧
    (t.die s.regDie).queue s.regQueue = { lqd := s.regWord, ri := 0, wi := 0, err := 0, st := 1 } ∧
    ((∀ p ∈ (u.die s.regDie).lq, p.2.ctx ≠ bits s.regWord 121 112) →
      (t.die s.regDie).deficit = Sparse.set 0 (u.die s.regDie).deficit (bits s.regWord 121 112) 0) := by
  have hx : exec .lqdWrite s = .next ((if 0 = 0 ∧ (u.die s.regDie).lq.all
        (fun p => p.1 == s.regQueue || p.2.ctx != bits s.regWord 121 112 || p.2.st == 0) then
      u.modDie s.regDie (fun D => D.setDeficit (bits s.regWord 121 112) 0) else u).setQueue s.regDie s.regQueue
        { lqd := s.regWord, ri := 0, wi := 0, err := 0, st := 1 }) := by
    show execLqdWrite s = _
    unfold execLqdWrite
    dsimp only
    rw [show lqdErr s (s.bus.val.setWidth 128) = (u, 0) from h]
    rfl
  refine ⟨_, hx, queue_setQueue _ _ _ (by simp [LaunchQ.reset]), fun hfirst => ?_⟩
  have hall : (u.die s.regDie).lq.all (fun p => p.1 == s.regQueue || p.2.ctx != bits s.regWord 121 112 || p.2.st == 0) = true :=
    List.all_eq_true.2 fun p hp => by simp [hfirst p hp]
  rw [if_pos ⟨rfl, hall⟩, State.setQueue, die_modDie, die_modDie]
  rfl

end

section
variable {s : State} {v : BitVec 128}

theorem lqdErr_context (hl : (s.ctx (bits v 121 112)).live = false) : lqdErr s v = (s, 1) := by
  simp [lqdErr, hl]

theorem lqdErr_weight (hl : (s.ctx (bits v 121 112)).live = true) (hw : bits v 111 104 = 0) : lqdErr s v = (s, 2) := by
  simp [lqdErr, hl, hw]

theorem lqdErr_fields (hl : (s.ctx (bits v 121 112)).live = true) (hw : bits v 111 104 ≠ 0)
    (h : bits v 55 0 % 256 ≠ 0 ∨ 12 < bits v 103 100 ∨ bits v 127 122 ≠ 0 ∨ bits v 99 56 ≠ 0) : lqdErr s v = (s, 3) := by
  rw [lqdErr, hl, if_neg (by decide), if_neg hw, if_pos h]

/-- The last check is that every page of the ring is mapped readable. -/
theorem lqdErr_mapping {u : State} {ok : Bool} (hl : (s.ctx (bits v 121 112)).live = true) (hw : bits v 111 104 ≠ 0)
    (hb : bits v 55 0 % 256 = 0) (hm : bits v 103 100 ≤ 12) (h6 : bits v 127 122 = 0) (h44 : bits v 99 56 = 0)
    (hend : bits v 55 0 + 2 ^ bits v 103 100 * 256 ≤ 2 ^ 56) (hfst : isWindow (bits v 55 0) = false)
    (hlst : isWindow (bits v 55 0 + 2 ^ bits v 103 100 * 256 - 1) = false)
    (hr : rangeReadable s (bits v 121 112) (bits v 55 0)
      ((bits v 55 0 + 2 ^ bits v 103 100 * 256 - 1) / 2 ^ 16 - bits v 55 0 / 2 ^ 16 + 1) = (u, ok)) :
    lqdErr s v = (u, if ok then 0 else 4) := by
  have hfields : ¬ (bits v 55 0 % 256 ≠ 0 ∨ 12 < bits v 103 100 ∨ bits v 127 122 ≠ 0 ∨ bits v 99 56 ≠ 0) := by omega
  have hrange : ¬ (2 ^ 56 < bits v 55 0 + 2 ^ bits v 103 100 * 256 ∨ isWindow (bits v 55 0) = true ∨
      isWindow (bits v 55 0 + 2 ^ bits v 103 100 * 256 - 1) = true) := by
    rw [hfst, hlst]; simp only [Bool.false_eq_true, or_false]; omega
  rw [lqdErr, hl, if_neg (by decide), if_neg hw, if_neg hfields]
  dsimp only
  rw [if_neg hrange, hr]

end

/-! ### A write index (R176) -/

section
variable {s : State} (hst : ((s.die s.regDie).queue s.regQueue).st = 1)
include hst

theorem lqsWiWrite_takes (h : bits s.bus.val 31 16 < 2 ^ bits ((s.die s.regDie).queue s.regQueue).lqd 103 100) : exec .lqsWiWrite s =
    .next (s.setQueue s.regDie s.regQueue { (s.die s.regDie).queue s.regQueue with wi := bits s.bus.val 31 16 }) :=
  (if_neg (not_not_intro hst)).trans (if_neg (Nat.not_le.2 h))

theorem lqsWiWrite_stops (h : 2 ^ bits ((s.die s.regDie).queue s.regQueue).lqd 103 100 ≤ bits s.bus.val 31 16) : exec .lqsWiWrite s =
    .next ((s.setQueue s.regDie s.regQueue { (s.die s.regDie).queue s.regQueue with st := 2, err := 8 }).record s.regDie
      { kind := 0x50, ctx := bits ((s.die s.regDie).queue s.regQueue).lqd 121 112, info := 8 * 2 ^ 8 + s.regQueue }) :=
  (if_neg (not_not_intro hst)).trans (if_pos h)

end

/-! ### The spill ring and the fault ring (R180, R195, R314) -/

theorem getLsbD_ovrMask (i : Nat) : ovrMask.getLsbD i = (decide (57 ≤ i) && decide (i < 128)) := by
  rw [ovrMask, BitVec.getLsbD_shiftLeft, BitVec.getLsbD_allOnes, Bool.eq_iff_iff]
  simp only [Bool.and_eq_true, Bool.not_eq_true', decide_eq_true_eq, decide_eq_false_iff_not]
  omega

/-- The fields of ovr that the host writes lie under its mask. -/
theorem bits_ovrMask (v : BitVec 128) {hi lo : Nat} (hlo : 57 ≤ lo) (hle : lo ≤ hi) (hhi : hi < 128) :
    bits (v &&& ovrMask) hi lo = bits v hi lo :=
  bits_congr hle fun i h h' => by
    rw [BitVec.getLsbD_and, getLsbD_ovrMask, decide_eq_true (hlo.trans h), decide_eq_true (show i < 128 by omega), Bool.and_true, Bool.and_true]

section
variable (s : State)

theorem ovrRegister_registers (h : (s.die s.regDie).spilled = 0) : ∃ t, exec .ovrRegister s = .next t ∧
    bits (t.die s.regDie).ovr 127 57 = bits s.regWord 127 57 ∧ (t.die s.regDie).nspill = 0 ∧
    bits (t.die s.regDie).ovr 1 0 = (if 6 ≤ bits s.regWord 61 57 ∧ bits s.regWord 61 57 ≤ 24 ∧ bits s.regWord 127 72 % 128 = 0 then 1 else 3) := by
  have hx : exec .ovrRegister s = .next (s.modDie s.regDie (fun D => { D with
      ovr := setBits (s.regWord &&& ovrMask) 1 0 (if decide (6 ≤ bits (s.regWord &&& ovrMask) 61 57) &&
        decide (bits (s.regWord &&& ovrMask) 61 57 ≤ 24) && bits (s.regWord &&& ovrMask) 127 72 % 128 == 0 then 1 else 3), nspill := 0 })) :=
    if_neg (not_not_intro h)
  refine ⟨_, hx, ?_⟩
  rw [die_modDie]
  refine ⟨?_, rfl, ?_⟩
  · rw [bits_setBits_other _ _ (by decide) (by decide) (by decide) (by decide), bits_ovrMask _ (by decide) (by decide) (by decide)]
  · rw [bits_setBits_self _ _ (by decide) (by decide), bits_ovrMask _ (by decide) (by decide) (by decide),
      bits_ovrMask _ (by decide) (by decide) (by decide)]
    simp only [Bool.and_eq_true, decide_eq_true_eq, beq_iff_eq, and_assoc]
    split <;> rfl

theorem ovrResume_resumes (h : bits (s.die s.regDie).ovr 1 0 = 2) : ∃ t, exec .ovrResume s = .next t ∧
    bits (t.die s.regDie).ovr 1 0 = 1 ∧ bits (t.die s.regDie).ovr 127 2 = bits (s.die s.regDie).ovr 127 2 := by
  have hx : exec .ovrResume s = .next (s.modDie s.regDie (fun D => { D with ovr := setBits D.ovr 1 0 1 })) :=
    congrArg Host.Outcome.next (if_pos h)
  refine ⟨_, hx, ?_⟩
  rw [die_modDie]
  exact ⟨bits_setBits_self _ _ (by decide) (by decide), bits_setBits_other _ _ (by decide) (by decide) (by decide) (by decide)⟩

/-- No record waits to enter the ring. -/
theorem drainFaults_of_nil {t : State} {d : Nat} (h : (t.die d).frBuf = []) (n : Nat) : drainFaults t d n = t := by
  cases n with
  | zero => rfl
  | succ n => rw [drainFaults, h]

theorem frrRegister_registers (h : (s.die s.regDie).frBuf = []) : ∃ t, exec .frrRegister s = .next t ∧
    bits (t.die s.regDie).frr 127 73 = bits s.regWord 127 73 ∧ bits (t.die s.regDie).frr 72 24 = 0 ∧
    bits (t.die s.regDie).frr 23 0 = bits (s.die s.regDie).frr 23 0 := by
  have hx : exec .frrRegister s = .next (s.modDie s.regDie (fun D =>
      { D with frr := BitVec.ofNat 128 (bits s.bus.val 127 73 * 2 ^ 73 + bits (s.die s.regDie).frr 23 0) })) :=
    congrArg Host.Outcome.next (drainFaults_of_nil (by rw [die_modDie]; exact h) 256)
  refine ⟨_, hx, ?_⟩
  rw [die_modDie, State.regWord, bits_setWidth (by decide) (by decide)]
  have hup := bits_lt s.bus.val 127 73
  have hri := bits_lt (s.die s.regDie).frr 23 0
  generalize bits s.bus.val 127 73 = up at *
  generalize bits (s.die s.regDie).frr 23 0 = ri at *
  refine ⟨?_, ?_, ?_⟩
  all_goals
    rw [bits_ofNat (by decide) (by decide), fld]
    omega

theorem frrRiWrite_sets (h : (s.die s.regDie).frBuf = []) : ∃ t, exec .frrRiWrite s = .next t ∧
    bits (t.die s.regDie).frr 23 0 = bits s.bus.val 23 0 ∧ bits (t.die s.regDie).frr 127 24 = bits (s.die s.regDie).frr 127 24 := by
  have hx : exec .frrRiWrite s = .next (s.modDie s.regDie (fun D => { D with frr := setBits D.frr 23 0 (bits s.bus.val 23 0) })) :=
    congrArg Host.Outcome.next (drainFaults_of_nil (by rw [die_modDie]; exact h) 256)
  refine ⟨_, hx, ?_⟩
  rw [die_modDie]
  refine ⟨(bits_setBits_self _ _ (by decide) (by decide)).trans (Nat.mod_eq_of_lt (bits_lt ..)), ?_⟩
  exact bits_setBits_other _ _ (by decide) (by decide) (by decide) (by decide)

end

end Sys2Proof.Machine
end

section
/-! ## Proofs: the host's record and frame registers -/

namespace Sys2Proof.Machine

/-! ### A record-control operation (R180) -/

theorem rccEnded_rccEnd (s : State) (d : Nat) {st : Nat} (h : st < 4) : RccEnded (rccEnd s d st) d st := by
  rw [RccEnded, rccEnd, die_modDie]
  exact (bits_setBits_self _ _ (by decide) (by decide)).trans (Nat.mod_eq_of_lt h)

theorem recs_rccEnd (s : State) (d st : Nat) : ((rccEnd s d st).die d).recs = (s.die d).recs := by rw [rccEnd, die_modDie]

theorem rec?_rccEnd (s : State) (d st i j : Nat) : (rccEnd s d st).rec? d i j = s.rec? d i j := by
  rw [State.rec?, recs_rccEnd, ← State.rec?]

section
variable {s : State} {ok : Rec → Bool} {act : State → Nat → Rec → State}

theorem recordControl_of_none (h : rccRec s = none) : recordControl s ok act = rccEnd s s.regDie 3 := by
  unfold rccRec at h
  unfold recordControl
  dsimp only
  cases hr : s.rec? (s.bus.die % 2) (bits s.bus.val 29 14) (bits s.bus.val 40 30) with
  | none => rfl
  | some r =>
    rw [hr, Option.filter_eq_none_iff] at h
    have hc : (r.ctx == bits s.bus.val 13 4) = false := by simpa using h r rfl
    simp only [hc, Bool.false_and]
    rfl

theorem recordControl_of_some {r : Rec} (h : rccRec s = some r) :
    recordControl s ok act = if ok r then rccEnd (act s s.regDie r) s.regDie 2 else rccEnd s s.regDie 3 := by
  obtain ⟨hr, hc⟩ := Option.filter_eq_some_iff.1 h
  unfold recordControl
  dsimp only
  rw [hr]
  dsimp only
  rw [hc, Bool.true_and]
  rfl

theorem rccRec_found {r : Rec} (h : rccRec s = some r) : s.rec? s.regDie r.inst r.tidx = some r := by
  obtain ⟨hr, -⟩ := Option.filter_eq_some_iff.1 h
  obtain ⟨hi, hj⟩ := rec?_named hr
  rw [hi, hj]
  exact hr

/-- A refused operation ends with status 3 and leaves the records. -/
theorem recordControl_refuses (h : ∀ r, rccRec s = some r → ok r = false) :
    RccEnded (recordControl s ok act) s.regDie 3 ∧ ((recordControl s ok act).die s.regDie).recs = (s.die s.regDie).recs := by
  have he : recordControl s ok act = rccEnd s s.regDie 3 := by
    cases hr : rccRec s with
    | none => exact recordControl_of_none hr
    | some r => rw [recordControl_of_some hr, h r hr]; rfl
  rw [he]
  exact ⟨rccEnded_rccEnd s _ (by decide), recs_rccEnd s _ 3⟩

end

/-! ### A parked record is queued again (R185, R315) -/

/-- A change of one record, seen from any record. -/
theorem rec?_modRec_all (s : State) (d i k : Nat) {f : Rec → Rec} (hf : ∀ r, (f r).inst = r.inst ∧ (f r).tidx = r.tidx) (i' j' : Nat) :
    (s.modRec d i k f).rec? d i' j' = (s.rec? d i' j').map (fun r => if r.inst == i && r.tidx == k then f r else r) := by
  have hname : (fun r : Rec => r.inst == i' && r.tidx == j') ∘ (fun r => if r.inst == i && r.tidx == k then f r else r) =
      fun r => r.inst == i' && r.tidx == j' := funext fun r => by
    rw [Function.comp_apply]
    split
    · rw [(hf r).1, (hf r).2]
    · rfl
  rw [State.rec?, State.modRec, die_modDie, List.find?_map, hname, State.rec?]

/-- A record that joins its queue changes in its time of joining alone. -/
theorem rec?_joined (d i : Nat) {i' j' : Nat} (l : List Rec) {s : State} {r : Rec} (h : s.rec? d i' j' = some r) :
    ∃ c, (l.foldl (fun s q => s.modRec d i q.tidx (fun q => { q with joined := s.cyc })) s).rec? d i' j' = some { r with joined := c } := by
  induction l generalizing s r with
  | nil => exact ⟨r.joined, h⟩
  | cons q l ih =>
    have hq := rec?_modRec_all s d i q.tidx (f := fun q => { q with joined := s.cyc }) (fun _ => ⟨rfl, rfl⟩) i' j'
    rw [h, Option.map_some] at hq
    split at hq
    · exact ih (r := { r with joined := s.cyc }) hq
    · exact ih hq

theorem rec?_enqueue (d i j : Nat) {i' j' : Nat} {s : State} {r : Rec} (h : s.rec? d i' j' = some r) :
    ∃ c, (enqueue s d i j).rec? d i' j' = some { r with joined := c } := by
  have hready : ∀ u, (s.modDie d (fun D => { D with ready := D.ready ++ [u] })).rec? d i' j' = some r := fun u => by
    rw [← h, State.rec?, die_modDie]; rfl
  unfold enqueue
  split
  · exact ⟨r.joined, h⟩
  · dsimp only
    split
    · simp only [rec?_progress]
      exact rec?_joined d i _ (hready _)
    · rw [rec?_progress]
      exact ⟨r.joined, h⟩

theorem rec?_requeueRec {s : State} {d : Nat} {r : Rec} (h : s.rec? d r.inst r.tidx = some r) (aborts : Nat) :
    ∃ c, (requeueRec s d r aborts).rec? d r.inst r.tidx =
      some { r with st := .fetching, aborts := aborts, opend := 0, place := [], left := 0, joined := c } := by
  have hm := rec?_modRec (f := fun q => { q with st := .fetching, aborts := aborts, opend := 0, place := [], left := 0 })
    (s := s) (d := d) (i := r.inst) (j := r.tidx) (fun _ => ⟨rfl, rfl⟩)
  rw [h, Option.map_some] at hm
  exact rec?_enqueue d r.inst r.tidx hm

theorem recordControl_requeues {s : State} {r : Rec} (h : rccRec s = some r) {ok : Rec → Bool} (hok : ok r = true) (aborts : Rec → Nat) :
    RccEnded (recordControl s ok (fun s d r => requeueRec s d r (aborts r))) s.regDie 2 ∧
      Requeued s (recordControl s ok (fun s d r => requeueRec s d r (aborts r))) r (aborts r) := by
  obtain ⟨c, hq⟩ := rec?_requeueRec (rccRec_found h) (aborts r)
  rw [recordControl_of_some h, if_pos hok]
  exact ⟨rccEnded_rccEnd _ _ (by decide), _, (rec?_rccEnd ..).trans hq, rfl, rfl, rfl, rfl, rfl⟩

/-! ### A record is cancelled (R157) -/

theorem over_eq_false_iff (t : RecSt) : t.over = false ↔ (t != .free && t != .done && t != .cancelled) = true := by
  cases t <;> decide

theorem cancelRec_of_live {s : State} {d i j : Nat} {r : Rec} (hr : s.rec? d i j = some r) (ho : r.st.over = false) : cancelRec s d i j =
    graphLess ((unplace s d r).modRec d i j (fun q => { q with st := .cancelled, place := [], spill := none })) d i := by
  have hlive : ¬ (r.st == .free || r.st == .cancelled || r.st == .done) = true := by
    cases hst : r.st <;> simp_all [RecSt.over]
  rw [cancelRec, hr]
  exact if_neg hlive

theorem cancelRec_cancels {s : State} {d i j : Nat} {r p : Rec} (hr : s.rec? d i j = some r) (ho : r.st.over = false)
    (hp : (cancelRec s d i j).rec? d i j = some p) : p.st = .cancelled := by
  rw [cancelRec_of_live hr ho] at hp
  have hmem := (winds_graphLess d _ i).recs.subset (rec?_mem hp)
  rw [State.modRec, die_modDie] at hmem
  obtain ⟨q, -, hq⟩ := List.mem_map.1 hmem
  obtain ⟨hi, hj⟩ := rec?_named hp
  split at hq
  · rw [← hq]
  · next hne => exact absurd (by rw [hq, hi, hj]; simp) hne

theorem recordControl_cancels {s : State} {r : Rec} (h : rccRec s = some r) (ho : r.st.over = false) :
    ∃ t, exec .cancelRecord s = .next t ∧ RccEnded t s.regDie 2 ∧ ∀ p, t.rec? s.regDie r.inst r.tidx = some p → p.st = .cancelled := by
  have hx : exec .cancelRecord s = .next (rccEnd ((cancelRec s s.regDie r.inst r.tidx).post (.placementPass s.regDie)) s.regDie 2) :=
    congrArg Host.Outcome.next ((recordControl_of_some h).trans (if_pos ((over_eq_false_iff r.st).1 ho)))
  refine ⟨_, hx, rccEnded_rccEnd _ _ (by decide), fun p hp => ?_⟩
  rw [rec?_rccEnd, rec?_post] at hp
  exact cancelRec_cancels (rccRec_found h) ho hp

/-! ### Frames are released (R226) -/

theorem Sparse.get_filter {α : Type} (d : α) (l : Sparse α) (p : Nat → Bool) (k : Nat) :
    Sparse.get d (l.filter (fun c => p c.1)) k = if p k then Sparse.get d l k else d := by
  induction l with
  | nil => simp [Sparse.get]
  | cons c l ih =>
    obtain ⟨j, v⟩ := c
    rw [List.filter_cons]
    by_cases hjk : j = k
    · subst hjk
      cases hp : p j <;> simp_all [Sparse.get]
    · cases hp : p j <;> simp [Sparse.get, hjk, ih]

theorem memGet_zeroRange (s : State) (lo n a : Nat) :
    memGet (zeroRange s lo n).pmem a = if a < lo ∨ lo + n ≤ a then memGet s.pmem a else 0 := by
  rw [memGet, zeroRange, Sparse.get_filter _ _ (fun k => decide (k < lo) || decide (lo + n ≤ k))]
  simp only [Bool.or_eq_true, decide_eq_true_eq]
  rfl

/-- The context whose lines go, the first frame's address, and the bytes of the frames, as frc gives them. -/
def frameCtx (v : BitVec 128) : Nat := bits v 125 116
def frameLow (v : BitVec 128) : Nat := bits v 87 52 * 2 ^ 16
def frameBytes (v : BitVec 128) : Nat := (bits v 115 92 + 1) * 2 ^ 16

/-- How a release of frames ends: 2 done, 3 refused. -/
def frameEnd (s : State) (v : BitVec 128) (st : Nat) : State :=
  { s with frc := setBits (setBits (setBits v 91 88 0) 51 0 0) 127 126 st }

theorem frc_frameEnd (s : State) (v : BitVec 128) {st : Nat} (h : st < 4) : bits (frameEnd s v st).frc 127 126 = st :=
  (bits_setBits_self _ _ (by decide) (by decide)).trans (Nat.mod_eq_of_lt h)

/-- The lines that a context has filled from its released frames are gone. -/
def dropFrameLines (s : State) (v : BitVec 128) : State :=
  { s with llc := s.llc.filter (fun l => !(l.ctx == frameCtx v && decide (frameLow v ≤ l.pa) && decide (l.pa < frameLow v + frameBytes v))) }

section
variable (s : State)

theorem frameRelease_eq : exec .frameRelease s =
    if !(hbmOk s (frameLow s.regWord) && hbmOk s (frameLow s.regWord + frameBytes s.regWord - 1)) then .next (frameEnd s s.regWord 3)
    else .next (frameEnd (zeroRange (dropFrameLines s s.regWord) (frameLow s.regWord) (frameBytes s.regWord)) s.regWord 2) := rfl

theorem frameRelease_refuses (h : hbmOk s (frameLow s.regWord) = false ∨ hbmOk s (frameLow s.regWord + frameBytes s.regWord - 1) = false) :
    ∃ t, exec .frameRelease s = .next t ∧ bits t.frc 127 126 = 3 ∧ t.pmem = s.pmem ∧ t.llc = s.llc := by
  have hx := frameRelease_eq s
  rw [if_pos (by rcases h with h | h <;> simp [h])] at hx
  refine ⟨_, hx, frc_frameEnd s s.regWord (by decide), by rw [frameEnd], by rw [frameEnd]⟩

/-- A released frame is zeroed, and the context keeps no line filled from it. -/
theorem frameRelease_zeroes (hfst : hbmOk s (frameLow s.regWord) = true)
    (hlst : hbmOk s (frameLow s.regWord + frameBytes s.regWord - 1) = true) :
    ∃ t, exec .frameRelease s = .next t ∧ bits t.frc 127 126 = 2 ∧
      (∀ a, frameLow s.regWord ≤ a → a < frameLow s.regWord + frameBytes s.regWord → memGet t.pmem a = 0) ∧
      (∀ a, a < frameLow s.regWord ∨ frameLow s.regWord + frameBytes s.regWord ≤ a → memGet t.pmem a = memGet s.pmem a) ∧
      (∀ l ∈ t.llc, l.ctx = frameCtx s.regWord → l.pa < frameLow s.regWord ∨ frameLow s.regWord + frameBytes s.regWord ≤ l.pa) ∧
      t.tiles = s.tiles := by
  have hx := frameRelease_eq s
  rw [if_neg (by simp [hfst, hlst])] at hx
  generalize hv : s.regWord = v at *
  refine ⟨_, hx, frc_frameEnd _ v (by decide), fun a hlo hhi => ?_, fun a ha => ?_, fun l hl hc => ?_, rfl⟩
  · exact (memGet_zeroRange ..).trans (if_neg (by omega))
  · exact (memGet_zeroRange ..).trans (if_pos ha)
  · have hkept := (List.mem_filter.1 hl).2
    simp only [hc, beq_self_eq_true, Bool.true_and, Bool.not_and, Bool.or_eq_true, Bool.not_eq_true', decide_eq_false_iff_not] at hkept
    omega

end

end Sys2Proof.Machine
end

section
/-! ## Proofs: the host's registers act -/

namespace Sys2Proof.Machine

/-! ### Registers without a step of their own (R179, R180, R364, R382) -/

section
variable {s : State} (hd : s.bus.die < 2)
include hd

theorem registerWrite_of_window {w : Win} {base : Nat} (h : winAt s.bus.die s.bus.off = (w, base)) (hw : ∀ j m, w ≠ .route j m) :
    exec .registerWrite s = .next (if base + w.bytes ≤ s.bus.off + 8 then putReg s s.bus.die s.bus
      else s.modDie s.bus.die (fun D => { D with hold := Sparse.set 0 D.hold s.bus.off (s.bus.val.setWidth 64) })) := by
  show execRegisterWrite s = _
  unfold execRegisterWrite
  dsimp only
  rw [if_neg (by omega), h]
  cases w
  case route j m => exact absurd rfl (hw j m)
  all_goals
    dsimp only
    split <;> rfl

theorem registerWrite_routes {j m : Nat} (hw : (winAt s.bus.die s.bus.off).1 = .route j m) (hn : s.bus.n = 1)
    (hv : bits s.bus.val 7 0 &&& 0x9F ≠ 0) : ∃ t, exec .registerWrite s = .next t ∧
      (t.die s.bus.die).routeOf j m = BitVec.ofNat 8 (bits s.bus.val 7 0 &&& 0x9F) := by
  have hx : exec .registerWrite s = .next (setRoute s s.bus.die j m (bits s.bus.val 7 0)) := by
    show execRegisterWrite s = _
    unfold execRegisterWrite
    dsimp only
    rw [if_neg (by omega), hw]
    dsimp only
    rw [if_pos hn]
  refine ⟨_, hx, ?_⟩
  rw [setRoute, die_modDie]
  refine Sparse.get_set_self _ _ fun h0 => hv ?_
  have hlt : bits s.bus.val 7 0 &&& 0x9F < 2 ^ 8 := Nat.and_lt_two_pow _ (by decide)
  have hz := congrArg BitVec.toNat h0
  rwa [BitVec.toNat_ofNat, Nat.mod_eq_of_lt hlt] at hz

theorem registerWrite_interrupts {i : Nat} (h : winAt s.bus.die s.bus.off = (.irq i, s.bus.off - 8)) (hoff : 8 ≤ s.bus.off) :
    ∃ t, exec .registerWrite s = .next t ∧ (if i = 0 then (t.die s.bus.die).irq0 else (t.die s.bus.die).irq1) = s.regWord &&& irqMask := by
  have hx := registerWrite_of_window hd h (fun _ _ => Win.noConfusion)
  rw [if_pos (by show s.bus.off - 8 + 16 ≤ s.bus.off + 8; omega), putReg, h] at hx
  refine ⟨_, hx, ?_⟩
  rw [die_modDie]
  split <;> rfl

/-- A doubleword below the highest one of a register is held. -/
theorem registerWrite_holds {w : Win} (h : winAt s.bus.die s.bus.off = (w, s.bus.off)) (hw : w.bytes = 16)
    (hv : s.bus.val.setWidth 64 ≠ 0#64) : ∃ t, exec .registerWrite s = .next t ∧
      (t.die s.bus.die).held s.bus.off = s.bus.val.setWidth 64 ∧ t.tiles = s.tiles ∧ t.pmem = s.pmem := by
  have hx := registerWrite_of_window hd h (fun j m he => by rw [he] at hw; exact absurd hw (by simp [Win.bytes]))
  rw [if_neg (by omega)] at hx
  refine ⟨_, hx, ?_, by rw [modDie_kept], by rw [modDie_kept]⟩
  rw [die_modDie]
  exact Sparse.get_set_self _ _ hv

end

/-- An interrupt entry's second doubleword does not stand at the start of a window. -/
theorem le_off_of_irq {d off i : Nat} (h : winAt d off = (.irq i, off - 8)) : 8 ≤ off := by
  by_contra hlt
  have h0 : off < 0x1000 := by omega
  simp [winAt, h0, Win.module] at h

/-! ### The obligation -/

/-- A record-control operation that names no record is refused. -/
theorem recordControl_step_refuses {s : State} {i : Instr} (hi : i ∈ [Instr.pagesResident, .requeue, .cancelRecord]) (h : rccRec s = none) :
    ∃ t, exec i s = .next t ∧ RccEnded t s.regDie 3 ∧ (t.die s.regDie).recs = (s.die s.regDie).recs := by
  have hno : ∀ ok act, RccEnded (recordControl s ok act) s.regDie 3 ∧ ((recordControl s ok act).die s.regDie).recs = (s.die s.regDie).recs :=
    fun ok act => recordControl_refuses fun r hr => by rw [h] at hr; cases hr
  simp only [List.mem_cons, List.not_mem_nil, or_false] at hi
  obtain rfl | rfl | rfl := hi <;> exact ⟨_, rfl, hno _ _⟩

/-- Settles O53: one lemma for each register and outcome, in the order of the statement. -/
theorem hostRegistersAct : Obligations.HostRegistersAct := by
  unfold Obligations.HostRegistersAct
  intro s d q v c base n
  have hrefused : ∀ {r}, rccRec s = some r → ∀ {ok : Rec → Bool} {act : State → Nat → Rec → State}, ok r = false →
      RccEnded (recordControl s ok act) d 3 ∧ ((recordControl s ok act).die d).recs = (s.die d).recs := fun hr _ _ hok =>
    recordControl_refuses fun p hp => by rw [hr] at hp; cases hp; exact hok
  refine ⟨fun hl => lqdWrite_refuses (lqdErr_context hl) (by decide), fun hl hw => lqdWrite_refuses (lqdErr_weight hl hw) (by decide),
    fun hl hw hf => lqdWrite_refuses (lqdErr_fields hl hw hf) (by decide), ?mapped, ⟨lqsWiWrite_takes, lqsWiWrite_stops⟩,
    fun h => if_pos h, ovrRegister_registers s, ovrResume_resumes s, frrRegister_registers s, frrRiWrite_sets s,
    fun i hi h => recordControl_step_refuses hi h, ?records, ⟨frameRelease_zeroes s, frameRelease_refuses s⟩,
    fun j m hd hw hn hv => registerWrite_routes hd hw hn hv, fun i hd h => registerWrite_interrupts hd h (le_off_of_irq h),
    fun w hd h hw hv => registerWrite_holds hd h hw hv, fun hd hoff => (if_pos hd).trans (congrArg Host.Outcome.next (if_pos hoff))⟩
  case mapped =>
    intro u ok hl hw hb hm h6 h44 hend hfst hlst hr
    have he := lqdErr_mapping hl hw hb hm h6 h44 hend hfst hlst hr
    cases ok with
    | false => exact ⟨_, lqdWrite_refuses he (by decide), queue_setQueue _ _ _ (by simp [LaunchQ.reset]), fun h => absurd h (by decide)⟩
    | true =>
      obtain ⟨t, hx, hq, hfirst⟩ := lqdWrite_registers he
      exact ⟨t, hx, hq, fun _ => hfirst⟩
  case records =>
    intro r hr
    refine ⟨fun hst hk => ⟨_, rfl, recordControl_requeues hr (by simp [hst, hk]) (fun r => r.aborts)⟩,
      fun h => ⟨_, rfl, hrefused hr (by rcases h with h | h <;> simp [h])⟩,
      fun hst => ⟨_, rfl, recordControl_requeues hr (by simp [hst]) (fun _ => 0)⟩,
      fun hst => ⟨_, rfl, hrefused hr (by simp [hst])⟩, recordControl_cancels hr, fun ho => ⟨_, rfl, hrefused hr ?_⟩⟩
    have hnot := (over_eq_false_iff r.st).not.1 (by rw [ho]; decide)
    exact Bool.eq_false_iff.2 hnot

end Sys2Proof.Machine
end

section
/-! ## Proofs: messages between strands act where they arrive -/

namespace Sys2Proof.Machine

/-! ### A message in turn, its answer, and the release that it carries -/

theorem InTurn.id_eq {s : State} {id : Nat} {x : Txn} (h : InTurn s id x) : x.id = id := by
  simpa using List.find?_some h.found

section
variable (s : State) (t scope : Nat)

@[simp] theorem releaseAt_txns : (releaseAt s t scope).txns = s.txns := by unfold releaseAt; split <;> rfl
@[simp] theorem releaseAt_agenda : (releaseAt s t scope).agenda = s.agenda := by unfold releaseAt; split <;> rfl
@[simp] theorem releaseAt_tiles : (releaseAt s t scope).tiles = s.tiles := by unfold releaseAt; split <;> rfl
@[simp] theorem releaseAt_tile (u : Nat) : (releaseAt s t scope).tile u = s.tile u := by unfold releaseAt; split <;> rfl

end

section
variable (s : State) (id : Nat) (r : Resp)

@[simp] theorem answer_tile (u : Nat) : (answer s id r).tile u = s.tile u := rfl
@[simp] theorem answer_tiles : (answer s id r).tiles = s.tiles := rfl
@[simp] theorem answer_pmem : (answer s id r).pmem = s.pmem := rfl

end

theorem answer_replied {s u : State} (htxns : u.txns = s.txns) (hagenda : u.agenda = s.agenda) (id : Nat) (r : Resp) :
    Replied s (answer u id r) id r where
  txns := by simp [answer, State.modTxn, State.post, htxns]
  agenda := by simp [answer, State.modTxn, State.post, hagenda]

/-- No message of a kind is under way before one in turn whose strand has sent none before it. -/
theorem InTurn.olderTo_eq_false {s : State} {id : Nat} {x : Txn} (h : InTurn s id x) {α : Type} {kind : α → TxnKind}
    (hfirst : ∀ y ∈ s.txns, y.tile = x.tile → y.id < id → ∀ q, y.kind ≠ kind q) {same : TxnKind → Bool}
    (hsame : ∀ k, same k = true → ∃ q, k = kind q) : olderTo s x same = false := by
  simp only [olderTo, State.strandTxns, List.any_eq_false, List.mem_filter, beq_iff_eq, Bool.and_eq_true, decide_eq_true_eq, h.id_eq]
  rintro y ⟨hy, htile⟩ ⟨⟨hlt, -⟩, hy'⟩
  obtain ⟨q, hq⟩ := hsame _ hy'
  exact hfirst y hy htile hlt q hq

/-! ### What a message makes of a tile -/

theorem Tile.chan_setChan_other (T : Tile) {c k : Nat} (x : Chan) (h : k ≠ c) : (T.setChan c x).chan k = T.chan k := by
  unfold Tile.chan Tile.setChan
  split
  · simp [Ne.symm h]
  · rfl

/-- A tile whose strand is on it, changed and woken, is not wiped. -/
theorem wake_ne_reset {T U : Tile} (hT : T.phase ≠ .idle) (hU : U.phase = T.phase) : U.wake ≠ Tile.reset :=
  Tile.ne_reset_of_phase (by rw [Tile.wake_phase, hU]; exact hT)

/-- The tile once a payload has joined a channel. -/
def Tile.joined (T : Tile) (c : Nat) (p : BitVec 32) : Tile :=
  T.setChan c { T.chan c with payloads := (T.chan c).payloads ++ [{ data := p }] }

/-- The tile once a generation of a rank has been counted. -/
def Tile.counts (T : Tile) (rank : Nat) : Tile := { T with seen := Sparse.set 0 T.seen rank (Sparse.get 0 T.seen rank + 1) }.wake

theorem seen_counts (T : Tile) (rank : Nat) : Sparse.get 0 (T.counts rank).seen rank = Sparse.get 0 T.seen rank + 1 :=
  Sparse.get_set_self T.seen rank (Nat.succ_ne_zero _)

theorem counts_ne_reset (T : Tile) (rank : Nat) : T.counts rank ≠ Tile.reset := fun hreset => by
  have hseen := seen_counts T rank
  rw [hreset] at hseen
  exact Nat.succ_ne_zero _ hseen.symm

section
variable {x : Txn} {T : Tile} {pe a n : Nat}

theorem atPeer_stx {v : Nat} (hk : x.kind = .stx pe a n v) : x.atPeer T = (.data 0, T.spadPut a n v) := by rw [Txn.atPeer, hk]

theorem atPeer_ldx {sx : Bool} (hk : x.kind = .ldx pe a n sx) : x.atPeer T = (.data (BitVec.ofNat 2048 (memNat T.spad a n)), T) := by
  rw [Txn.atPeer, hk]

end

/-! ### SIGNAL and BLOCK (R202, R204) -/

section
variable {s : State} {id : Nat} {x : Txn} (h : InTurn s id x)
include h

section
variable {pe c u : Nat} (hpeer : peerAt s x.tile x.inst pe = .at u) (hawake : (s.tile u).frozen = false)
include hpeer hawake

/-- A payload in turn meets its channel as it stands. -/
theorem execPayloadArrival_at (hg : (s.tile x.tile).gather = []) {p : BitVec 32} (hk : x.kind = .signal pe c p)
    (hfirst : ∀ y ∈ s.txns, y.tile = x.tile → y.id < id → ∀ q, y.kind ≠ .signal pe c q) : execPayloadArrival id s = .next (
      if ((s.tile u).chan c).val = false then answer (releaseAt s x.tile x.scope) id .gone
      else if 4 ≤ ((s.tile u).chan c).payloads.length then s.post (.payloadArrival id)
      else answer ((releaseAt s x.tile x.scope).setTile u ((s.tile u).joined c p).wake) id (.data 0)) := by
  unfold execPayloadArrival
  simp only [h.found, hk, sendHomeIf_of_nil hg, h.here, h.awake, h.ready, hpeer, hawake]
  rw [h.olderTo_eq_false hfirst ?same]
  · by_cases hval : ((s.tile u).chan c).val = true
    · by_cases hfull : 4 ≤ ((s.tile u).chan c).payloads.length <;> simp [hval, hfull, Tile.joined]
    · simp [hval]
  case same =>
    intro k hsame
    split at hsame
    · obtain ⟨rfl, rfl⟩ : _ = pe ∧ _ = c := by simpa using hsame
      exact ⟨_, rfl⟩
    · cases hsame

/-- A BLOCK or UNBLOCK in turn sets its channel's bit. -/
theorem execBlockArrival_at {on : Bool} (hk : x.kind = .block pe c on)
    (hfirst : ∀ y ∈ s.txns, y.tile = x.tile → y.id < id → ∀ q, y.kind ≠ .block pe c q) :
    execBlockArrival id s = .next (answer (s.modTile u (fun T => T.setBlk c on)) id (.data 0)) := by
  unfold execBlockArrival
  simp only [h.found, hk, h.here, h.awake, hpeer, hawake]
  rw [h.olderTo_eq_false hfirst ?same]
  · rfl
  case same =>
    intro k hsame
    split at hsame
    · obtain ⟨rfl, rfl⟩ : _ = pe ∧ _ = c := by simpa using hsame
      exact ⟨_, rfl⟩
    · cases hsame

end

/-! ### Arrivals (R209) -/

/-- An arrival in turn is counted at every other member. -/
theorem execClusterArrival_at (hg : (s.tile x.tile).gather = []) {rank : Nat} (hk : x.kind = .arrive rank)
    (hfirst : ∀ y ∈ s.txns, y.tile = x.tile → y.id < id → ∀ q, y.kind ≠ .arrive q) {r : Rec}
    (hr : s.rec? (dieOf x.tile) x.inst x.tidx = some r) : execClusterArrival x.tile id s = .next (
      (s.dropTxn id).modTiles (fun u => u) (fun _ T => T.counts rank) (r.place.filter (· != x.tile))) := by
  unfold execClusterArrival
  simp only [h.found, hk, sendHomeIf_of_nil hg, h.awake, h.ready, hr]
  rw [h.olderTo_eq_false hfirst ?same]
  · rfl
  case same =>
    intro k hsame
    split at hsame
    · exact ⟨_, rfl⟩
    · cases hsame

/-! ### Accesses to a scratchpad (R210, R381) -/

section
variable (hrel : x.rel = false) {pe a : Nat} (hp : x.kind.peer = some (pe, a)) (ha : a < spadEnd)
include hrel hp ha

/-- An access to a strand that has not started waits. -/
theorem execPeerAccessArrival_notYet (hpeer : peerAt s x.tile x.inst pe = .notYet) :
    execPeerAccessArrival id s = .next (s.post (.peerAccessArrival id)) := by
  simp [execPeerAccessArrival, h.found, hp, hrel, h.here, hpeer, Nat.not_le.2 ha]

/-- An access in turn that nothing holds is performed at its peer and answered. -/
theorem execPeerAccessArrival_at (hwait : x.mustWait s = false) (hread : sourceUnread s x.kind = false)
    (hpipe : ∀ k, samePipe x.kind k = false) {u : Nat} (hpeer : peerAt s x.tile x.inst pe = .at u) (hawake : (s.tile u).frozen = false) :
    execPeerAccessArrival id s = .next (answer (s.setTile u (x.atPeer (s.tile u)).2.wake) id (x.atPeer (s.tile u)).1) := by
  have holder : olderTo s x (samePipe x.kind) = false := by simp [olderTo, hpipe]
  simp [execPeerAccessArrival, h.found, hp, hrel, h.here, hpeer, hwait, hread, holder, h.awake, hawake, Txn.releases, Nat.not_le.2 ha]

end

end

/-! ### The obligation -/

section
variable {s : State} {id : Nat} {x : Txn} (h : InTurn s id x)
include h

section
variable {pe c u : Nat} (hpeer : peerAt s x.tile x.inst pe = .at u) (hawake : (s.tile u).frozen = false)
include hpeer hawake

theorem payload_joins (hg : (s.tile x.tile).gather = []) {p : BitVec 32} (hk : x.kind = .signal pe c p)
    (hfirst : ∀ y ∈ s.txns, y.tile = x.tile → y.id < id → ∀ q, y.kind ≠ .signal pe c q) (hphase : (s.tile u).phase ≠ .idle) (hc : c < 16)
    (hval : ((s.tile u).chan c).val = true) (hroom : ((s.tile u).chan c).payloads.length < 4) : ∃ t, execPayloadArrival id s = .next t ∧
      (t.tile u).chan c = { (s.tile u).chan c with payloads := ((s.tile u).chan c).payloads ++ [{ data := p }] } ∧
      (∀ k, k ≠ c → (t.tile u).chan k = (s.tile u).chan k) ∧ Replied s t id (.data 0) := by
  have hx := execPayloadArrival_at h hpeer hawake hg hk hfirst
  rw [if_neg (by rw [hval]; decide), if_neg (Nat.not_le.2 hroom)] at hx
  have htile : ((releaseAt s x.tile x.scope).setTile u ((s.tile u).joined c p).wake).tile u = ((s.tile u).joined c p).wake :=
    State.tile_setTile _ _ (wake_ne_reset hphase rfl)
  refine ⟨_, hx, ?_, fun k hk' => ?_, answer_replied (by simp) (by simp) id _⟩
  · rw [answer_tile, htile]; exact Tile.chan_setChan _ _ hc
  · rw [answer_tile, htile]; exact Tile.chan_setChan_other _ _ hk'

theorem payload_at_closed (hg : (s.tile x.tile).gather = []) {p : BitVec 32} (hk : x.kind = .signal pe c p)
    (hfirst : ∀ y ∈ s.txns, y.tile = x.tile → y.id < id → ∀ q, y.kind ≠ .signal pe c q)
    (hval : ((s.tile u).chan c).val = false) : ∃ t, execPayloadArrival id s = .next t ∧ t.tiles = s.tiles ∧ Replied s t id .gone := by
  have hx := execPayloadArrival_at h hpeer hawake hg hk hfirst
  rw [if_pos hval] at hx
  exact ⟨_, hx, releaseAt_tiles .., answer_replied (by simp) (by simp) id _⟩

theorem block_sets_bit {on : Bool} (hk : x.kind = .block pe c on)
    (hfirst : ∀ y ∈ s.txns, y.tile = x.tile → y.id < id → ∀ q, y.kind ≠ .block pe c q) (hphase : (s.tile u).phase ≠ .idle) (hc : c < 16) :
    ∃ t, execBlockArrival id s = .next t ∧ (t.tile u).chan c = { (s.tile u).chan c with blk := on } ∧ Replied s t id (.data 0) := by
  refine ⟨_, execBlockArrival_at h hpeer hawake hk hfirst, ?_, answer_replied (by rfl) (by rfl) id _⟩
  rw [answer_tile, tile_modTile s u (wake_ne_reset (U := (s.tile u).setChan c _) hphase rfl)]
  exact Tile.chan_setChan _ _ hc

/-- A store is written at its peer, and nothing else but its answer. -/
theorem store_written {a n v : Nat} (hk : x.kind = .stx pe a n v) (hwait : x.mustWait s = false) (hrel : x.rel = false) (ha : a < spadEnd)
    (hphase : (s.tile u).phase ≠ .idle) : ∃ t, execPeerAccessArrival id s = .next t ∧
      (t.tile u).spad = memPutNat (s.tile u).spad a n v ∧ (∀ w, w ≠ u → t.tile w = s.tile w) ∧ t.pmem = s.pmem ∧ Replied s t id (.data 0) := by
  have hx := execPeerAccessArrival_at h hrel (by rw [hk]; rfl) ha hwait (by rw [hk]; rfl) (fun k => by rw [hk]; rfl) hpeer hawake
  simp only [atPeer_stx hk] at hx
  refine ⟨_, hx, ?_, fun w hw => ?_, rfl, answer_replied (by rfl) (by rfl) id _⟩
  · rw [answer_tile, State.tile_setTile s u (wake_ne_reset hphase (Tile.spadPut_phase ..))]; rfl
  · rw [answer_tile, State.tile_setTile_other s _ hw]

theorem load_answered {a n : Nat} {sx : Bool} (hk : x.kind = .ldx pe a n sx) (hwait : x.mustWait s = false) (hrel : x.rel = false)
    (ha : a < spadEnd) (hphase : (s.tile u).phase ≠ .idle) : ∃ t, execPeerAccessArrival id s = .next t ∧ (t.tile u).spad = (s.tile u).spad ∧
      Replied s t id (.data (BitVec.ofNat 2048 (memNat (s.tile u).spad a n))) := by
  have hx := execPeerAccessArrival_at h hrel (by rw [hk]; rfl) ha hwait (by rw [hk]; rfl) (fun k => by rw [hk]; rfl) hpeer hawake
  simp only [atPeer_ldx hk] at hx
  refine ⟨_, hx, ?_, answer_replied (by rfl) (by rfl) id _⟩
  rw [answer_tile, State.tile_setTile s u (wake_ne_reset hphase rfl)]; rfl

end

theorem arrival_counted (hg : (s.tile x.tile).gather = []) {rank : Nat} (hk : x.kind = .arrive rank)
    (hfirst : ∀ y ∈ s.txns, y.tile = x.tile → y.id < id → ∀ q, y.kind ≠ .arrive q) {r : Rec}
    (hr : s.rec? (dieOf x.tile) x.inst x.tidx = some r) (hplace : r.place.Nodup) : ∃ t, execClusterArrival x.tile id s = .next t ∧
      t.txns = s.txns.filter (fun y => y.id != id) ∧
      (∀ u ∈ r.place, u ≠ x.tile → Sparse.get 0 (t.tile u).seen rank = Sparse.get 0 (s.tile u).seen rank + 1) ∧
      ∀ u, u ∉ r.place → t.tile u = s.tile u := by
  refine ⟨_, execClusterArrival_at h hg hk hfirst hr, ?_, fun u hu hne => ?_, fun u hu => ?_⟩
  · rw [modTiles_kept]; rfl
  · have hmem : u ∈ r.place.filter (· != x.tile) := List.mem_filter.2 ⟨hu, bne_iff_ne.2 hne⟩
    have htile := tile_modTiles (fun u => u) (fun _ T => T.counts rank) (s.dropTxn id) (by rw [List.map_id']; exact hplace.filter _)
      (fun _ T => counts_ne_reset T rank) hmem
    exact (congrArg (fun T : Tile => Sparse.get 0 T.seen rank) htile).trans (seen_counts _ rank)
  · have hother : u ∉ (r.place.filter (· != x.tile)).map (fun u => u) := by
      rw [List.map_id']; exact fun hmem => hu (List.mem_of_mem_filter hmem)
    rw [tile_modTiles_other _ _ _ hother]; rfl

end

/-- Settles O41: one lemma for each kind of message and outcome, in the order of the statement. -/
theorem messagesArrive : Obligations.MessagesArrive := by
  unfold Obligations.MessagesArrive
  intro s id x h hg
  refine ⟨?signal, ?block, ?arrive, ?stx, ?ldx, ?notYet⟩
  case signal =>
    intro pe c p u hk hfirst hpeer hawake hphase hc
    exact ⟨fun hval hroom => payload_joins h hpeer hawake hg hk hfirst hphase hc hval hroom,
      fun hval => payload_at_closed h hpeer hawake hg hk hfirst hval⟩
  case block =>
    intro pe c on u hk hfirst hpeer hawake hphase hc
    exact block_sets_bit h hpeer hawake hk hfirst hphase hc
  case arrive =>
    intro rank r hk hfirst hr hplace
    obtain ⟨t, hx, htxns, hseen, hother⟩ := arrival_counted h hg hk hfirst hr hplace
    exact ⟨t, hx, htxns, fun u hu hne _ => hseen u hu hne, hother⟩
  case stx =>
    intro pe a n v u hk hwait hrel ha hpeer hawake hphase
    exact store_written h hpeer hawake hk hwait hrel ha hphase
  case ldx =>
    intro pe a n sx u hk hwait hrel ha hpeer hawake hphase
    exact load_answered h hpeer hawake hk hwait hrel ha hphase
  case notYet =>
    intro pe a hp hrel ha hpeer
    exact execPeerAccessArrival_notYet h hrel hp ha hpeer

end Sys2Proof.Machine
end

section
/-! ## Proofs: what a word sees of other strands, and words that set out -/

namespace Sys2Proof.Machine

/-! ### Fields -/

theorem fld_zero (w hi : Nat) : fld w hi 0 = w % 2 ^ (hi + 1) := by simp [fld]

theorem bits_low (w : Word) : bits w 3 0 = w.toNat % 16 := fld_zero _ _

theorem memberScope_memberOf (w : Word) : memberScope (memberOf w.toNat) = peerScope w := by
  have hbit : (fld w.toNat 23 23 == 1) = w.getLsbD 23 := by
    rw [BitVec.getLsbD, Nat.testBit_eq_decide_div_mod_eq]; rfl
  rw [memberScope, memberOf, peerScope, hbit]

/-! ### What a word sees of its strand and of others -/

/-- On a state whose strand has the identity of the issuing one, a new transaction is the one that the word sends. -/
theorem newTxn_eq_sentTxn {s u : State} (fm : Form) (hfocus : u.focus = s.focus) (hinst : u.cur.inst = s.cur.inst)
    (htidx : u.cur.tidx = s.cur.tidx) (hslv : u.cur.slv = s.cur.slv) (hctx : u.cur.ctx = s.cur.ctx)
    (k : TxnKind) (places cls scope : Nat) (tval : Word) :
    newTxn u (s.operands fm) k places cls scope tval = { sentTxn s k places cls scope tval .none with id := 0 } := by
  rw [newTxn, hfocus, hinst, htidx, hslv, hctx]; rfl

section
variable {s : State} {fm : Form} (h : Ready s fm)
include h

/-- The same of any tile. -/
theorem begun_tile_view {α : Type} (p : Tile → α) (hp : ∀ U fa fx sq vq vregs warn,
    p { U with fa := fa, fx := fx, sq := sq, vq := vq, vregs := vregs, warn := warn } = p U) (u : Nat) :
    p ((s.begun fm).tile u) = p (s.tile u) := by
  by_cases hu : u = s.focus.1
  · rw [hu]; exact begun_view h p hp
  · rw [State.begun, State.tile_setTile_other s _ hu]

theorem begun_phase (u : Nat) : ((s.begun fm).tile u).phase = (s.tile u).phase := begun_tile_view h (·.phase) (fun _ _ _ _ _ _ _ => rfl) u
theorem begun_inst (u : Nat) : ((s.begun fm).tile u).inst = (s.tile u).inst := begun_tile_view h (·.inst) (fun _ _ _ _ _ _ _ => rfl) u
theorem begun_tidx (u : Nat) : ((s.begun fm).tile u).tidx = (s.tile u).tidx := begun_tile_view h (·.tidx) (fun _ _ _ _ _ _ _ => rfl) u
theorem begun_rank (u : Nat) : ((s.begun fm).tile u).rank = (s.tile u).rank := begun_tile_view h (·.rank) (fun _ _ _ _ _ _ _ => rfl) u
theorem begun_tiles (u : Nat) : ((s.begun fm).tile u).tiles = (s.tile u).tiles := begun_tile_view h (·.tiles) (fun _ _ _ _ _ _ _ => rfl) u
theorem begun_pipe (u n : Nat) : ((s.begun fm).tile u).pipe n = (s.tile u).pipe n :=
  begun_tile_view h (·.pipe n) (fun _ _ _ _ _ _ _ => rfl) u

theorem begun_memberRec (m : Member) : memberRec (s.begun fm) s.focus.1 m = memberRec s s.focus.1 m := by
  simp only [memberRec, begun_inst h, begun_tidx h]; rfl

theorem begun_memberBad (w : Word) : memberBad (s.begun fm) w = memberBad s w := by
  simp only [memberBad, memberOk, begun_focus, begun_memberRec h, begun_tiles h]

theorem begun_peerNo (m : Member) : peerNo (s.begun fm) s.focus.1 m = peerNo s s.focus.1 m := by
  simp only [peerNo, begun_memberRec h, begun_rank h]

theorem begun_peerAt (t inst peer : Nat) : peerAt (s.begun fm) t inst peer = peerAt s t inst peer := by
  simp only [peerAt, begun_phase h]; rfl

theorem begun_pipeEnd (n dir : Nat) : (strandRec (s.begun fm) s.focus.1).bind (fun r => r.pipeEnd n dir) = pipeEndOf s n dir := by
  simp only [pipeEndOf, strandRec, begun_inst h, begun_tidx h]; rfl

theorem begun_consumerEnd (o : OpDesc) (n : Nat) : consumerEnd (s.begun fm) s.focus.1 o n = consumerEnd s s.focus.1 o n := by
  simp only [consumerEnd, begun_inst h]; rfl

theorem begun_localBytes (x n : Nat) : ((s.begun fm).tile s.focus.1).localBytes x n = s.cur.localBytes x n := by
  refine begun_view h (·.localBytes x n) (fun U fa fx sq vq vregs warn => ?_)
  induction n generalizing x with
  | zero => rfl
  | succ n ih => exact congrArg (U.localByte x :: ·) (ih (x + 1))

/-- The transaction of a word that has issued is the one that it sends, but for the number that it gets as it leaves. -/
theorem begun_newTxn (k : TxnKind) (places cls scope : Nat) (tval : Word) :
    newTxn (s.begun fm) (s.operands fm) k places cls scope tval = { sentTxn s k places cls scope tval .none with id := 0 } :=
  newTxn_eq_sentTxn (s := s) (u := s.begun fm) fm rfl (begun_inst h _) (begun_tidx h _) (begun_tile_view h (·.slv) (fun _ _ _ _ _ _ _ => rfl) _)
    (begun_tile_view h (·.ctx) (fun _ _ _ _ _ _ _ => rfl) _) ..

end

/-! ### Words that set out -/

section
variable {s u : State} {fm : Form} {T : Tile} {x : Effect} {body : State → Issue → Verdict}

/-- A word that sends a transaction, from a tile T on which the rest of its effect is made, has been executed with it. -/
theorem CurOnly.launched (hc : CurOnly s u T) (h : Ready s fm) (hd : TileDone s.cur T s.focus.2 fm x) {z : Txn} {e : Nat → Instr}
    (hu : body (s.begun fm) (s.operands fm) = .done (u.launch { z with id := 0 } e)) (hz : z.id = s.nextId) :
    ∃ t, issue s fm body = .next t ∧ Executed s t fm { x with ids := 1, posts := [e s.nextId], txns := [z] } := by
  refine hc.executed_sending h (x := { x with ids := 1, posts := [e s.nextId], txns := [z] }) (hu.trans ?_)
    ⟨hd.kept, hd.other, hd.front, hd.regs, hd.ports, hd.vregs, hd.vports, hd.warn⟩
  rw [hc.rest, ← hz]; rfl

/-- A word that has made the rest of its effect sends the same transaction, where that effect keeps the strand's identity. -/
theorem CurOnly.newTxn_eq (hc : CurOnly s u T) (hd : TileDone s.cur T s.focus.2 fm x) (hinst : (x.body s.cur).inst = s.cur.inst)
    (htidx : (x.body s.cur).tidx = s.cur.tidx) (hslv : (x.body s.cur).slv = s.cur.slv) (hctx : (x.body s.cur).ctx = s.cur.ctx)
    (k : TxnKind) (places cls scope : Nat) (tval : Word) :
    newTxn u (s.operands fm) k places cls scope tval = { sentTxn s k places cls scope tval .none with id := 0 } := by
  have hfocus : u.focus = s.focus := by rw [hc.rest]
  have hcur : u.cur = T := by rw [State.cur, hfocus, hc.cur]
  have hkept := hcur.trans hd.kept
  refine newTxn_eq_sentTxn fm hfocus ?_ ?_ ?_ ?_ ..
  · rw [hkept]; exact hinst
  · rw [hkept]; exact htidx
  · rw [hkept]; exact hslv
  · rw [hkept]; exact hctx

/-- A word that only sends a transaction. -/
theorem sent_executed (h : Ready s fm) {z : Txn} {e : Nat → Instr}
    (hu : body (s.begun fm) (s.operands fm) = .done ((s.begun fm).launch { z with id := 0 } e)) (hz : z.id = s.nextId) :
    ∃ t, issue s fm body = .next t ∧ Executed s t fm { ids := 1, posts := [e s.nextId], txns := [z] } :=
  h.curOnly_begun.launched h (start_done fm s.cur s.focus.2) hu hz

/-- A word whose meaning waits holds its front. -/
theorem issue_waits (h : Ready s fm) (hu : body (s.begun fm) (s.operands fm) = .wait) : issue s fm body = .next (holdFront s .other) := by
  rw [issue_ready h, hu]

/-- A word that does nothing on its tile beyond issuing has been executed. -/
theorem nothing_executed (h : Ready s fm) (hu : body (s.begun fm) (s.operands fm) = .done (s.begun fm)) :
    ∃ t, issue s fm body = .next t ∧ Executed s t fm {} :=
  h.curOnly_begun.executed h hu (start_done fm s.cur s.focus.2)

/-- A tile on which a word has issued, changed by g and given a scalar result. -/
theorem TileDone.bodyScalar (g : Tile → Tile) (hg : KeepsIssued g) (d : Reg) (v : Word) :
    TileDone s.cur ((g (fm.start s.cur s.focus.2).2).putS s.focus.2 d v) s.focus.2 fm { dst := [(d, v)], body := g } :=
  ((start_done fm s.cur s.focus.2).onBody g hg).putS d v rfl

/-- A word that makes g of its tile and writes v into d has been executed with both. -/
theorem body_scalar_executed (h : Ready s fm) {g : Tile → Tile} {d : Reg} {v : Word} (hu : body (s.begun fm) (s.operands fm) =
      .done ((s.begun fm).setTile s.focus.1 ((g ((s.begun fm).tile s.focus.1)).putS s.focus.2 d v)))
    (hg : KeepsIssued g) (hp : (g s.cur).phase = s.cur.phase) :
    ∃ t, issue s fm body = .next t ∧ Executed s t fm { dst := [(d, v)], body := g } := by
  have hdone := TileDone.bodyScalar (s := s) (fm := fm) g hg d v
  rw [begun_tile h] at hu
  exact (h.curOnly_begun.setTile (h.done_ne_reset hdone hp)).executed h hu hdone

end

end Sys2Proof.Machine
end

section
/-! ## Proofs: the words between strands -/

namespace Sys2Proof.Machine

/-! ### SIGNAL, BLOCK, UNBLOCK (R197, R202, R204) -/

section
variable {s : State} {a b : Reg} {w : Word} (h : Ready s { instr := .signal a b, onX := false, rs := [a, b] }) (hw : s.src [a, b] 0 = w)
include h hw

theorem signal_traps (hbad : memberBad s w = true) : execSignal a b s = .next (preciseTrap s 0x0C w) := by
  refine issue_traps h ?_
  dsimp only
  rw [operands_s, hw, begun_memberBad h, if_pos hbad]

theorem signal_executed (hok : memberBad s w = false) (hroom : signalsOut s s.focus.1 < 4) : ∃ t, execSignal a b s = .next t ∧
    Executed s t { instr := .signal a b, onX := false, rs := [a, b] } {
      ids := 1, posts := [.payloadArrival s.nextId],
      txns := [{ sentTxn s (.signal (peerOf s w) (w.toNat % 16) ((s.src [a, b] 1).setWidth 32)) 0 0 (peerScope w) w .none with rel := true }] } := by
  have hnot : ¬ 4 ≤ signalsOut (s.begun { instr := .signal a b, onX := false, rs := [a, b] }) s.focus.1 := Nat.not_le.2 hroom
  refine sent_executed h (e := .payloadArrival) ?_ rfl
  dsimp only
  rw [operands_s, operands_s, hw, begun_memberBad h, begun_focus, begun_peerNo h, memberScope_memberOf, fld_zero, if_neg (Bool.eq_false_iff.1 hok),
    if_neg hnot, begun_newTxn h]
  rfl

end

section
variable {s : State} {a : Reg} {w : Word} {i : Instr} {on : Bool} (h : Ready s { instr := i, onX := false, rs := [a] }) (hw : s.src [a] 0 = w)
include h hw

theorem blockOn_traps (hbad : memberBad s w = true) : blockOn s i a on = .next (preciseTrap s 0x0C w) := by
  refine issue_traps h ?_
  dsimp only
  rw [operands_s, hw, begun_memberBad h, if_pos hbad]

/-- The own channel table is changed at once. -/
theorem blockOn_own (hok : memberBad s w = false) (hown : peerOf s w = ownPeer) : ∃ t, blockOn s i a on = .next t ∧
    Executed s t { instr := i, onX := false, rs := [a] } {
      body := fun T => T.setChan (w.toNat % 16) { T.chan (w.toNat % 16) with blk := on } } := by
  rw [peerOf] at hown
  refine body_executed h ?_ (fun _ _ _ _ _ _ _ => rfl) rfl
  dsimp only
  rw [operands_s, hw, begun_memberBad h, begun_focus, begun_peerNo h, if_neg (Bool.eq_false_iff.1 hok), if_pos hown, fld_zero, State.modTile,
    begun_tile h]
  rfl

/-- The channel table of another strand is told. -/
theorem blockOn_sent (hok : memberBad s w = false) (hother : peerOf s w ≠ ownPeer) : ∃ t, blockOn s i a on = .next t ∧
    Executed s t { instr := i, onX := false, rs := [a] } {
      ids := 1, posts := [.blockArrival s.nextId],
      txns := [sentTxn s (.block (peerOf s w) (w.toNat % 16) on) 0 0 (peerScope w) w .none] } := by
  refine sent_executed h (e := .blockArrival) ?_ rfl
  rw [peerOf] at hother
  dsimp only
  rw [operands_s, hw, begun_memberBad h, begun_focus, begun_peerNo h, if_neg (Bool.eq_false_iff.1 hok), if_neg hother, fld_zero,
    memberScope_memberOf, begun_newTxn h]
  rfl

end

/-! ### WAITCH (R203) -/

section
variable {s : State} {d : Reg} (h : Ready s { instr := .waitch d, onX := false, ws := [d], hmod := 1 })
include h

theorem begun_pickChan : ((s.begun { instr := .waitch d, onX := false, ws := [d], hmod := 1 }).tile s.focus.1).pickChan = s.cur.pickChan :=
  begun_view h (·.pickChan) (fun _ _ _ _ _ _ _ => rfl)

theorem waitch_takes {c : Nat} {p : Payload} {r : List Payload} (hc : TakesChannel s.cur c) (hp : (s.cur.chan c).payloads = p :: r) :
    ∃ t, execWaitch d s = .next t ∧ Executed s t { instr := .waitch d, onX := false, ws := [d], hmod := 1 } {
      dst := [(d, BitVec.ofNat 64 (c * 2 ^ 32 + p.data.toNat))], body := fun T => T.setChan c { T.chan c with payloads := r } } := by
  have hpay : (((s.begun { instr := .waitch d, onX := false, ws := [d], hmod := 1 }).tile s.focus.1).chan c).payloads = p :: r :=
    (begun_view h (fun T => (T.chan c).payloads) (fun _ _ _ _ _ _ _ => rfl)).trans hp
  refine body_scalar_executed h ?_ (fun _ _ _ _ _ _ _ => rfl) rfl
  dsimp only
  rw [State.cur, begun_focus, begun_pickChan h, Tile.pickChan_takes hc]
  dsimp only [Tile.takeChan]
  rw [hpay]

section
variable (hnone : ∀ c, c < 16 → (s.cur.chan c).eligible = false)
include hnone

theorem waitch_try (hmod : s.hints.modBit 0 = true) : ∃ t, execWaitch d s = .next t ∧
    Executed s t { instr := .waitch d, onX := false, ws := [d], hmod := 1 } { dst := [(d, BitVec.allOnes 64)] } := by
  refine scalar_executed h ?_
  dsimp only
  rw [State.cur, begun_focus, begun_pickChan h, Tile.pickChan_none hnone]
  exact if_pos hmod

theorem waitch_waits (hmod : s.hints.modBit 0 = false) : execWaitch d s = .next (holdFront s .other) := by
  refine issue_waits h ?_
  dsimp only
  rw [State.cur, begun_focus, begun_pickChan h, Tile.pickChan_none hnone]
  exact if_neg (Bool.eq_false_iff.1 hmod)

end
end

/-! ### Pipes (R206 to R208) -/

/-- Size and base of the ring that a consuming end gives (R206). -/
def ringSize : Option OpDesc → Nat
  | some c => c.len * 256
  | none => 0
def ringBase : Option OpDesc → Nat
  | some c => c.dst
  | none => 0

section
variable {s : State} {d a b : Reg} {o : OpDesc} {e : Option OpDesc} {n x : Nat}
  (h : Ready s { instr := .fwpush d a b, onX := false, rs := [b, d] }) (hn : (s.src [b, d] 0).toNat = n) (hx : (s.src [b, d] 1).toNat = x)
  (ho : pipeEndOf s a.toNat 1 = some o) (he : consumerEnd s s.focus.1 o a.toNat = e) (hx0 : x % 256 = 0) (hn0 : n % 256 = 0)
  (hsize : n ≤ ringSize e)
include h hn hx ho he hx0 hn0 hsize

theorem fwpush_nothing (hz : n = 0) : ∃ t, execFwpush d a b s = .next t ∧
    Executed s t { instr := .fwpush d a b, onX := false, rs := [b, d] } {} := by
  refine nothing_executed h ?_
  have hend : ¬ (n ≠ 0 ∧ spadEnd < x + n) := fun hne => hne.1 hz
  dsimp only
  rw [operands_s, operands_s, hn, hx, begun_focus, begun_pipeEnd h, ho]
  dsimp only
  rw [if_neg (not_not.2 hx0), if_neg (not_not.2 hn0), if_neg hend, begun_consumerEnd h, he]
  cases e <;> exact (if_neg (Nat.not_lt.2 hsize)).trans (if_pos hz)

/-- A block with room in its ring sets out. -/
theorem fwpush_sent (hpos : 0 < n) (hend : x + n ≤ spadEnd) {u : Nat}
    (hpeer : peerAt s s.focus.1 s.cur.inst (o.va % 2 ^ 11 * 256 + s.cur.rank.toNat) = .at u) (hfree : s.cur.sbClash [(x, n)] false = false)
    (hroom : ((s.tile u).pipe a.toNat).filled + ((s.tile u).pipe a.toNat).held + pushing s s.focus.1 a.toNat + n ≤ ringSize e) :
    ∃ t, execFwpush d a b s = .next t ∧ Executed s t { instr := .fwpush d a b, onX := false, rs := [b, d] } {
      ids := 1, posts := [.peerAccessArrival s.nextId],
      txns := [sentTxn s (.fwpush (o.va % 2 ^ 11 * 256 + s.cur.rank.toNat) a.toNat (ringBase e) (ringSize e) (s.cur.localBytes x n) 0)
        0 0 3 0 .none] } := by
  refine sent_executed h (e := .peerAccessArrival) ?_ rfl
  have hat : peerAt s s.focus.1 (s.tile s.focus.1).inst (o.va % 2 ^ (10 + 1) * 256 + (s.tile s.focus.1).rank.toNat) = .at u := hpeer
  have hfits := (decide_eq_true_iff.trans Nat.not_le.symm).not_left.2 hroom
  dsimp only
  rw [operands_s, operands_s, hn, hx, begun_focus, begun_pipeEnd h, ho]
  dsimp only
  rw [if_neg (not_not.2 hx0), if_neg (not_not.2 hn0), if_neg (fun hne => Nat.not_lt.2 hend hne.2), begun_consumerEnd h, he, State.cur, begun_focus,
    begun_inst h, begun_rank h, fld_zero, begun_peerAt h, hat]
  dsimp only
  rw [begun_pipe h, begun_sbClash h, hfree, begun_localBytes h, Bool.or_false, begun_newTxn h]
  cases e <;> exact (if_neg (Nat.not_lt.2 hsize)).trans ((if_neg (Nat.pos_iff_ne_zero.1 hpos)).trans (if_neg hfits))

end

section
variable {s : State} {d a b : Reg} {o : OpDesc} {n : Nat} {P : Pipe}

theorem fwpop_executed (h : Ready s { instr := .fwpop d a b, onX := false, rs := [b], ws := [d] }) (hn : (s.src [b] 0).toNat = n)
    (hP : s.cur.pipe a.toNat = P) (ho : pipeEndOf s a.toNat 0 = some o) (hn0 : n % 256 = 0) (hsize : n ≤ o.len * 256) (hpos : 0 < n)
    (hfilled : n ≤ P.filled) : ∃ t, execFwpop d a b s = .next t ∧ Executed s t { instr := .fwpop d a b, onX := false, rs := [b], ws := [d] } {
      dst := [(d, BitVec.ofNat 64 (o.dst + P.head))],
      body := fun T => T.setPipe a.toNat { head := (P.head + n) % (o.len * 256), filled := P.filled - n, held := n } } := by
  refine body_scalar_executed h ?_ (fun _ _ _ _ _ _ _ => rfl) rfl
  have hpipe : ((s.begun { instr := .fwpop d a b, onX := false, rs := [b], ws := [d] }).tile s.focus.1).pipe a.toNat = P :=
    (begun_pipe h ..).trans hP
  dsimp only
  rw [operands_s, hn, begun_focus, begun_pipeEnd h, ho]
  dsimp only
  rw [if_neg (not_not.2 hn0), if_neg (Nat.not_lt.2 hsize), State.cur, begun_focus, hpipe, if_neg (Nat.pos_iff_ne_zero.1 hpos), if_pos hfilled]

end

/-! ### The cluster barrier (R209) -/

/-- The tile with one more arrival of its own counted. -/
def Tile.countArrival (T : Tile) : Tile := { T with arrivals := T.arrivals + 1 }

/-- The state that CARRIVE leaves on its tile, before the arrivals set out. -/
def State.arrive (s : State) (d : Reg) : State :=
  s.setTile s.focus.1 (s.cur.countArrival.putS s.focus.2 d (BitVec.ofNat 64 s.cur.arrivals))

theorem execCarrive_eq (d : Reg) (s : State) : execCarrive d s = issue s { instr := .carrive d, onX := false, ws := [d] } (fun s I =>
    .done ((s.arrive d).launch { newTxn (s.arrive d) I (.arrive s.cur.rank.toNat) 0 0 1 0 with rel := true } (.clusterArrival s.focus.1))) := rfl

theorem carrive_executed {s : State} {d : Reg} (h : Ready s { instr := .carrive d, onX := false, ws := [d] }) : ∃ t, execCarrive d s = .next t ∧
    Executed s t { instr := .carrive d, onX := false, ws := [d] } {
      dst := [(d, BitVec.ofNat 64 s.cur.arrivals)], body := Tile.countArrival, ids := 1, posts := [.clusterArrival s.focus.1 s.nextId],
      txns := [{ sentTxn s (.arrive s.cur.rank.toNat) 0 0 1 0 .none with rel := true }] } := by
  have hdone := TileDone.bodyScalar (s := s) (fm := { instr := .carrive d, onX := false, ws := [d] }) Tile.countArrival
    (fun _ _ _ _ _ _ _ => rfl) d (BitVec.ofNat 64 s.cur.arrivals)
  have hset := h.curOnly_begun.setTile (h.done_ne_reset hdone rfl)
  have harr : (s.begun { instr := .carrive d, onX := false, ws := [d] }).cur.arrivals = s.cur.arrivals :=
    begun_view h (·.arrivals) (fun _ _ _ _ _ _ _ => rfl)
  have hrank : (s.begun { instr := .carrive d, onX := false, ws := [d] }).cur.rank = s.cur.rank := begun_rank h _
  have hcur : (s.begun { instr := .carrive d, onX := false, ws := [d] }).cur = _ := begun_tile h
  rw [execCarrive_eq]
  refine hset.launched h (e := .clusterArrival s.focus.1) hdone ?_ rfl
  dsimp only
  rw [hrank, State.arrive, harr, hcur, begun_focus, hset.newTxn_eq hdone rfl rfl rfl rfl]

section
variable {s : State} {a : Reg} {g : Nat} (h : Ready s { instr := .cwait a, onX := false, rs := [a] }) (hg : (s.src [a] 0).toNat = g)
include h hg

theorem cwait_traps (hle : s.cur.arrivals ≤ g) : execCwait a s = .next (preciseTrap s 0x0C (s.src [a] 0)) := by
  refine issue_traps h ?_
  have harr : ((s.begun { instr := .cwait a, onX := false, rs := [a] }).tile s.focus.1).arrivals = s.cur.arrivals :=
    begun_view h (·.arrivals) (fun _ _ _ _ _ _ _ => rfl)
  dsimp only
  rw [operands_s, hg, State.cur, begun_focus, harr, if_pos hle]

theorem cwait_executed (hlt : g < s.cur.arrivals)
    (hseen : ∀ r, r < s.cur.tiles → r ≠ s.cur.rank.toNat → g < Sparse.get 0 s.cur.seen r) : ∃ t, execCwait a s = .next t ∧
    Executed s t { instr := .cwait a, onX := false, rs := [a] } {} := by
  refine nothing_executed h ?_
  have harr : ((s.begun { instr := .cwait a, onX := false, rs := [a] }).tile s.focus.1).arrivals = s.cur.arrivals :=
    begun_view h (·.arrivals) (fun _ _ _ _ _ _ _ => rfl)
  have hdone : ((s.begun { instr := .cwait a, onX := false, rs := [a] }).tile s.focus.1).genDone g = s.cur.genDone g :=
    begun_view h (·.genDone g) (fun _ _ _ _ _ _ _ => rfl)
  have hall : s.cur.genDone g = true := by
    simp only [Tile.genDone, hlt, decide_true, Bool.true_and, List.all_eq_true, List.mem_range, Bool.or_eq_true, beq_iff_eq, decide_eq_true_eq]
    exact fun r hr => or_iff_not_imp_left.2 (hseen r hr)
  dsimp only
  rw [operands_s, hg, State.cur, begun_focus, harr, hdone, hall, if_neg (Nat.not_le.2 hlt)]
  rfl

end

/-! ### LDX and STX (R210) -/

theorem remoteCause_eq_none {s : State} {w x : Word} {n : Nat} (hok : memberBad s w = false) (hw : w.toNat % 16 = 0) (hend : x.toNat + n ≤ spadEnd)
    (hx : x.toNat % n = 0) : remoteCause s w x n = none := by
  rw [remoteCause, hok, bits_low, hw, if_neg (by decide), if_neg (Nat.not_lt.2 hend), if_neg (not_not.2 hx)]


/-- A transaction that reserves its target on the own tile is launched from the tile with that reservation. -/
theorem launchTo_eq_launch (s : State) (x : Txn) (res : Tile → Nat → Dest × Tile) (e : Nat → Instr) :
    launchTo s x res e = (s.setTile x.tile (res (s.tile x.tile) s.nextId).2).launch { x with dest := (res (s.tile x.tile) s.nextId).1 } e := rfl

section
variable {s : State} {fm : Form} {w x : Word} {n : Nat}

theorem begun_remoteCause (h : Ready s fm) (hok : memberBad s w = false) (hw : w.toNat % 16 = 0) (hend : x.toNat + n ≤ spadEnd)
    (hx : x.toNat % n = 0) : remoteCause (s.begun fm) w x n = none :=
  remoteCause_eq_none ((begun_memberBad h w).trans hok) hw hend hx

theorem begun_may_send {c : Nat} (hfence : fenced s s.focus.1 c = false) (hplace : placesFree s s.focus.1 1 = true) :
    (fenced (s.begun fm) s.focus.1 c || !placesFree (s.begun fm) s.focus.1 1) = false := by
  rw [show fenced (s.begun fm) s.focus.1 c = false from hfence, show placesFree (s.begun fm) s.focus.1 1 = true from hplace]; rfl

end

theorem ldx_executed {s : State} {d a b : Reg} {c : BitVec 3} {z : Width} {w x : Word}
    (h : Ready s { instr := .ldx d a b c z, onX := false, rs := [a, b], ws := [d] }) (hw : s.src [a, b] 1 = w) (hx : s.src [a, b] 0 = x)
    (hok : memberBad s w = false) (hlow : w.toNat % 16 = 0) (hend : x.toNat + z.nbytes ≤ spadEnd) (halign : x.toNat % z.nbytes = 0)
    (hfence : fenced s s.focus.1 c.toNat = false) (hplace : placesFree s s.focus.1 1 = true) : ∃ t, execLdx d a b c z s = .next t ∧
      Executed s t { instr := .ldx d a b c z, onX := false, rs := [a, b], ws := [d] } {
        resv := [(d, s.nextId)], ids := 1, posts := [.peerAccessArrival s.nextId],
        txns := [sentTxn s (.ldx (peerOf s w) x.toNat z.nbytes false) 1 c.toNat (peerScope w) w (destOf d)] } := by
  have hdone := (start_done { instr := .ldx d a b c z, onX := false, rs := [a, b], ws := [d] } s.cur s.focus.2).reserveS d s.nextId rfl
  refine (h.curOnly_begun.setTile (h.done_ne_reset hdone rfl)).launched h (e := .peerAccessArrival) hdone ?_ rfl
  dsimp only
  rw [operands_s, operands_s, hw, hx, begun_remoteCause h hok hlow hend halign, begun_focus]
  dsimp only
  rw [begun_may_send hfence hplace, begun_peerNo h, memberScope_memberOf, begun_newTxn h, launchTo_eq_launch]
  change Verdict.done (((s.begun _).setTile s.focus.1 (((s.begun _).tile s.focus.1).reserveS s.focus.2 d s.nextId).2).launch
    { sentTxn s (.ldx (peerOf s w) x.toNat z.nbytes false) 1 c.toNat (peerScope w) w
        (((s.begun _).tile s.focus.1).reserveS s.focus.2 d s.nextId).1 with id := 0 } _) = _
  rw [begun_tile h, reserveS_fst]


theorem stx_executed {s : State} {d a b : Reg} {c : BitVec 3} {z : Width} {w x : Word}
    (h : Ready s { instr := .stx d a b c z, onX := false, rs := [a, b, d] }) (hw : s.src [a, b, d] 1 = w) (hx : s.src [a, b, d] 0 = x)
    (hok : memberBad s w = false) (hlow : w.toNat % 16 = 0) (hend : x.toNat + z.nbytes ≤ spadEnd) (halign : x.toNat % z.nbytes = 0)
    (hfence : fenced s s.focus.1 c.toNat = false) (hplace : placesFree s s.focus.1 1 = true) : ∃ t, execStx d a b c z s = .next t ∧
      Executed s t { instr := .stx d a b c z, onX := false, rs := [a, b, d] } {
        ids := 1, posts := [.peerAccessArrival s.nextId],
        txns := [sentTxn s (.stx (peerOf s w) x.toNat z.nbytes ((s.src [a, b, d] 2).toNat % 2 ^ z.nbits)) 1 c.toNat (peerScope w) w
          .none] } := by
  have hdone := start_done { instr := .stx d a b c z, onX := false, rs := [a, b, d] } s.cur s.focus.2
  refine (h.curOnly_begun.setTile (h.done_ne_reset hdone rfl)).launched h (e := .peerAccessArrival) hdone ?_ rfl
  have hbits : 8 * z.nbytes = z.nbits := by cases z <;> rfl
  dsimp only
  rw [operands_s, operands_s, operands_s, hw, hx, begun_remoteCause h hok hlow hend halign, begun_focus]
  dsimp only
  rw [begun_may_send hfence hplace, begun_peerNo h, memberScope_memberOf, begun_newTxn h, launchTo_eq_launch, hbits]
  change Verdict.done (((s.begun _).setTile s.focus.1 ((s.begun _).tile s.focus.1)).launch _ _) = _
  rw [begun_tile h]
  rfl

/-- Settles O40, word by word: each runs on the state begun for it, which changes nothing of what it reads, and leaves either the same
state (traps, waits, a CWAIT that passes), one with its own tile changed, or one with a message sent besides. -/
theorem parallelWordsComplete : Obligations.ParallelWordsComplete := by
  intro s
  refine ⟨?signal, ?waitch, ?probe, ?block, ?fwpush, ?fwpop, ?carrive, ?cwait, ?ldx, ?stx⟩
  case signal => exact fun a b h => ⟨signal_traps h rfl, signal_executed h rfl⟩
  case waitch => exact fun d c p r h hc hp => waitch_takes h hc hp
  case probe => exact fun d h hnone => ⟨waitch_try h hnone, waitch_waits h hnone⟩
  case block =>
    intro a on i fm w h
    have hexec : exec i s = blockOn s i a on := by cases on <;> rfl
    rw [hexec]
    exact ⟨blockOn_traps h rfl, blockOn_own h rfl, blockOn_sent h rfl⟩
  case fwpush =>
    exact fun d a b o u h ho hx0 hn0 hsize hend => ⟨fwpush_nothing h rfl rfl ho rfl hx0 hn0 hsize, fun hpos hpeer hfree hroom =>
      fwpush_sent h rfl rfl ho rfl hx0 hn0 hsize hpos (hend.resolve_left (Nat.pos_iff_ne_zero.1 hpos)) hpeer hfree hroom⟩
  case fwpop => exact fun d a b o h ho hn0 hsize hpos hfilled => fwpop_executed h rfl rfl ho hn0 hsize hpos hfilled
  case carrive => exact fun d h => carrive_executed h
  case cwait => exact fun a h => ⟨cwait_traps h rfl, cwait_executed h rfl⟩
  case ldx => exact fun d a b c z h hok hlow hend halign hfence hplace => ldx_executed h rfl rfl hok hlow hend halign hfence hplace
  case stx => exact fun d a b c z h hok hlow hend halign hfence hplace => stx_executed h rfl rfl hok hlow hend halign hfence hplace

end Sys2Proof.Machine
end

section
/-! ## Proofs: the cancels -/

namespace Sys2Proof.Machine

open Sys2Proof.Tests

/-! ### A cancel on a tile table that holds a tile more than once (R201)

A cancel stops the strand that issued it when that strand is in the unit, and then its answer is not written. On a canonical tile
table (`Sparse.wfFrom Tile.reset 0`, part of `State.memWf`) a stopped strand is not running, so the answer that the statement owes to
a running strand has been written. The statement has no such premise. On a table with further entries of the same tile, a stopped
strand that equals the reset tile is removed with its entry, and what comes to light is the next entry: here a strand that runs, with
other registers. -/

/-- Tile 0 is held three times: a strand at its last word, which equals the reset tile once it has issued that word and been stopped;
the reset tile; and a running strand whose register 1 holds 5. The record that is cancelled is the task on that tile. -/
def tableWithRepeats : State :=
  { State.reset with
    focus := (0, .a)
    tiles := [(0, { Tile.reset with phase := .running, fa := { Tile.reset.fa with pc := 0xFFFC } }), (0, Tile.reset),
              (0, { Tile.reset with phase := .running, fa := withRegs Tile.reset.fa [(1, 5)] })]
    die0 := { Die.reset with recs := [{ pairRec with inst := 0, gang := 0, tiles := 1, left := 1, place := [0] }] } }

theorem tableWithRepeats_ready : Ready tableWithRepeats (graphForm (.gcancelTask 1 2) [2] 1) := ready_of_readyNow (by decide)

theorem tableWithRepeats_rec : tableWithRepeats.rec? (bits (tableWithRepeats.src [2] 0) 27 27) (bits (tableWithRepeats.src [2] 0) 15 0)
    (bits (tableWithRepeats.src [2] 0) 26 16) = some { pairRec with inst := 0, gang := 0, tiles := 1, left := 1, place := [0] } := by decide

/-- After the cancel a strand runs on the tile and its register 1 holds 5, not the answer 0. -/
theorem tableWithRepeats_cancelled : (after (.gcancelTask 1 2) tableWithRepeats).cur.phase = .running ∧
    (after (.gcancelTask 1 2) tableWithRepeats).focus.2 = .a ∧ sreg (after (.gcancelTask 1 2) tableWithRepeats) 1 = 5 := by decide +kernel

/-- Refutes O46: GCANCEL.TASK of the issuing strand's own record, on a tile table that holds the tile more than once, leaves a running
strand without the answer. -/
theorem not_taskWordsComplete : ¬ Obligations.TaskWordsComplete := by
  intro h
  obtain ⟨-, -, -, -, -, htask⟩ := h tableWithRepeats
  obtain ⟨-, hcancel⟩ := htask 1 2 tableWithRepeats_ready
  obtain ⟨-, -, -, hlive⟩ := hcancel (by decide)
  obtain ⟨t, ht, -, hdone⟩ := hlive _ tableWithRepeats_rec (by decide) rfl
  have hafter : after (.gcancelTask 1 2) tableWithRepeats = t := by rw [after, ht]
  obtain ⟨hphase, hfront, hreg⟩ := tableWithRepeats_cancelled
  rw [sreg, hfront, hafter] at hreg
  have hzero : (t.cur.front .a).reg 1 = 0 := hdone (hafter ▸ hphase) (by decide) (by decide)
  exact absurd (hreg.symm.trans hzero) (by decide)

end Sys2Proof.Machine
end
